-- ==== Sys2Proof/Word.lean ====
section
/-! DEFINITION. Bytes and the small index types of the LX-4: one character's data byte, the 16-bit check
register, buffer numbers, drops, exchange tags and line-rate codes. -/

namespace Sys2Proof

/-- One data byte of a character (R1), and so one byte of a frame, of a management body or of the image. -/
abbrev Byte := BitVec 8

/-- The check register of R5. -/
abbrev Word16 := BitVec 16

/-- A pool buffer, 0 to 39 (R21). -/
abbrev BufId := Fin 40

/-- A drop, D0 to D3. -/
abbrev DropId := Fin 4

/-- The index of an exchange record, 0 to 15 (R99). -/
abbrev Tag := Fin 16

/-- A line-rate code, 0 to 7 (R2). -/
abbrev Rate := Fin 8

/-- A byte holding the low eight bits of a number. -/
def Byte.ofNat (n : Nat) : Byte := BitVec.ofNat 8 n

/-- The upper byte of a 16-bit value. -/
def Word16.high (w : Word16) : Byte := w.extractLsb' 8 8

/-- The lower byte of a 16-bit value. -/
def Word16.low (w : Word16) : Byte := w.extractLsb' 0 8

end Sys2Proof
end

