-- ==== Sys2Proof/Syntax.lean ====
section
/-! DEFINITION. The commands of the LX-4: one constructor for each row of spec/opcode_table.json. The table gives
the rows no operands; those here are what each event must carry for its rule to be applied (log entry 7). An event on a line that
no measure of the part ends carries the time at which it comes (log entry 3). -/

namespace Sys2Proof

/-- The five lines: the trunk and the drops D0 to D3. -/
inductive Line where
  | trunk
  | drop (d : DropId)
deriving DecidableEq, Repr

/-- A line with the time at which an event on it comes, in the units of the model's clock (log entry 3). -/
structure LineAt where
  line : Line
  time : Nat
deriving DecidableEq, Repr

/-- A drop with the time at which an event on its line comes. -/
structure DropAt where
  drop : DropId
  time : Nat
deriving DecidableEq, Repr

/-- The 30 events of the operation and event table. -/
inductive Instr where
  /-- COLD_RESET (R171): RSTN or power-up, with the strap pins TRS2 to TRS0 as sampled (R2). -/
  | coldReset (straps : Rate)
  /-- SOF_RECEIVED (R8). -/
  | sofReceived (line : LineAt)
  /-- CONTENT_CHARACTER (R9): a good character that is a content value or ESC. -/
  | contentCharacter (line : LineAt) (data : Byte)
  /-- EOF_RECEIVED (R14). -/
  | eofReceived (line : LineAt)
  /-- ABT_RECEIVED (R10). -/
  | abtReceived (line : LineAt)
  /-- FRAMING_ERROR (R12). -/
  | framingError (line : LineAt)
  /-- BREAK_RECOGNISED (R1). -/
  | breakRecognised (line : LineAt)
  /-- BREAK_END (R89). -/
  | breakEnd (line : LineAt)
  /-- LINE_FALLS_TO_SPACE (R90). -/
  | lineFallsToSpace (drop : DropAt)
  /-- GAP_EXPIRY (R11). -/
  | gapExpiry (line : Line)
  /-- DROP_EOF_SENT (R17). -/
  | dropEofSent (drop : DropId)
  /-- WINDOW_EXPIRY (R87). -/
  | windowExpiry (drop : DropId)
  /-- GUARD_END (R89). -/
  | guardEnd (drop : DropId)
  /-- DEADLINE_EXPIRY (R112). -/
  | deadlineExpiry (tag : Tag)
  /-- DROP_FAULT (R90). -/
  | dropFault (drop : DropId)
  /-- DROP_RECOVERY (R92). -/
  | dropRecovery (drop : DropId)
  /-- TRUNK_EOF_SENT (R136). -/
  | trunkEofSent
  /-- MEMORY_POLL_TIMEOUT (R170). -/
  | memoryPollTimeout
  /-- MEMORY_BYTE_NOT_ACKNOWLEDGED (R170). -/
  | memoryByteNotAcknowledged
  /-- LOAD_HEADER_READ (R175): the five header bytes as read: magic (2), version, records length (2). -/
  | loadHeaderRead (magic0 magic1 version lengthHigh lengthLow : Byte)
  /-- SETTINGS_RECORD (R177): its field bytes; the length byte read is their number (R173, R190). -/
  | settingsRecord (fields : List Byte)
  /-- DROP_RECORD (R179): its field bytes. -/
  | dropRecord (fields : List Byte)
  /-- STATION_RECORD (R178): its field bytes. -/
  | stationRecord (fields : List Byte)
  /-- END_RECORD (R176): the record bytes read after the END's type byte (its length byte, and whatever follows up
  to the records length); none where the records length was used up without an END. -/
  | endRecord (rest : List Byte)
  /-- UNKNOWN_RECORD (R190): its type byte and its field bytes. -/
  | unknownRecord (type : Byte) (fields : List Byte)
  /-- TRUNCATED_RECORD (R176): the record bytes from its type byte to the end of the records length. -/
  | truncatedRecord (bytes : List Byte)
  /-- LOAD_END (R180): the two check bytes as read. -/
  | loadEnd (checkHigh checkLow : Byte)
  /-- STORE_WRITE_ACKNOWLEDGED (R183). -/
  | storeWriteAcknowledged
  /-- ABT_SENT (R20). -/
  | abtSent (line : LineAt)
  /-- IGNORED_CHARACTER (R89): a good character other than SOF, met in HUNT or DISCARD. -/
  | ignoredCharacter (line : LineAt) (data : Byte)
deriving DecidableEq, Repr

end Sys2Proof
end

