-- ==== Sys2Proof/Machine/State.lean ====
section
/-! DEFINITION. The state of the LX-4: every piece of state the data book gives its ten blocks, the serial memory on
its port, the model's clock and counter of free values, and the queue of waiting commands. Plain data. -/

namespace Sys2Proof.Machine

/-! ### Frame buffer pool -/

/-- A HELD buffer (R21): the frame content it carries and the number of places that hold it. -/
structure Buffer where
  content : List Byte
  count : Nat
deriving DecidableEq, Repr

/-- The pool: each of the 40 buffers, FREE (`none`) or HELD, and the free list in order (R21, R23). -/
structure Pool where
  buffers : Vector (Option Buffer) 40
  free : List BufId
deriving DecidableEq, Repr

/-! ### Station table -/

/-- URGENT or ROUTINE. -/
inductive Class where
  | routine
  | urgent
deriving DecidableEq, Repr

/-- PRESENT, SILENT or DOWN (R38). -/
inductive Liveness where
  | present
  | silent
  | down
deriving DecidableEq, Repr

/-- One entry of the station table (R36). `noticePending` is also its membership in the notice set (R41). -/
structure Station where
  address : Byte
  drop : DropId
  aliasAddr : Option Byte
  cls : Class
  window : Nat
  retryLimit : Nat
  deferral : Bool
  fetchInterval : Nat
  fetchLimit : Nat
  miss : Nat
  liveness : Liveness
  probe : Nat
  noticePending : Bool
  done : Nat
  failed : Nat
deriving DecidableEq, Repr

/-! ### Exchange table -/

/-- The state of an open exchange (R99). -/
inductive ExState where
  | queued
  | sending
  | awaiting
  | deferred
  | fetchDue
  | fetching
deriving DecidableEq, Repr

/-- A forced removal that waits for the EOF of the frame being sent (R29): none; taken; or taken while a disable was
already waiting for the same EOF, so that the disable gives the reason unless an enable withdraws it. -/
inductive Removal where
  | none
  | waiting
  | waitingAfterDisable
deriving DecidableEq, Repr

/-- An OPEN exchange record (R99). Its tag is its index. `limit` is the retry or fetch limit read at the start of
the window (R103, R113); `dueSince` is when its deadline expired, while FETCH DUE (R112). -/
structure Exchange where
  station : Byte
  drop : DropId
  seq : Byte
  cls : Class
  state : ExState
  attempts : Nat
  fetches : Nat
  deadline : Option Nat
  cancelPending : Bool
  buffer : BufId
  limit : Option Nat
  dueSince : Option Nat
  removal : Removal
deriving DecidableEq, Repr

/-! ### Receivers and transmitters -/

/-- HUNT, ASSEMBLE or DISCARD (The Receiver). -/
inductive RxState where
  | hunt
  | assemble
  | discard
deriving DecidableEq, Repr

/-- A line's receiver. `gap` is the time at which its gap timer ends, while it runs (R11). -/
structure Receiver where
  state : RxState
  slot : Option BufId
  count : Nat
  escape : Bool
  gap : Option Nat
deriving DecidableEq, Repr

/-- The three forms in which a frame comes to a transmitter (The Transmitter): a pool buffer, the notice buffer, or a
FETCH built from its record. -/
inductive TxSource where
  | pool (b : BufId)
  | notice
  | fetch (content : List Byte)
deriving DecidableEq, Repr

/-- A line's transmitter: idle, sending one frame since `began` at `rate` (R3, R17), or cut off by a restart: it
finishes the character `last`, which began at `began`, and sends ABT after it (R20). -/
inductive Transmitter where
  | idle
  | sending (source : TxSource) (rate : Rate) (began : Nat)
  | aborting (last : Byte) (rate : Rate) (began : Nat)
deriving DecidableEq, Repr

/-! ### Drop line units -/

/-- The administrative mode (R73). -/
inductive Mode where
  | disabled
  | enabled
deriving DecidableEq, Repr

/-- A drop's line state (R72). -/
inductive LineState where
  | disabled
  | idle
  | sending
  | listening
  | receiving
  | guard
  | fault
deriving DecidableEq, Repr

/-- The alternation flag: whether the last work taken was a queue head or a fetch (R77). -/
inductive Alternation where
  | queue
  | fetch
deriving DecidableEq, Repr

/-- What a queue item or the in-service item is: an exchange, or a notice to the network address given (0xFF for a
broadcast) (R74). -/
inductive Work where
  | exchange (t : Tag)
  | notice (dest : Byte)
deriving DecidableEq, Repr

/-- A drop-queue item or the in-service item, with the buffer it holds (R74). -/
structure Item where
  work : Work
  cls : Class
  buffer : BufId
deriving DecidableEq, Repr

/-- The marking measure (R92): stopped, at 0 with the line at space, or counting mark since a time. -/
inductive Marking where
  | stopped
  | atSpace
  | since (t : Nat)
deriving DecidableEq, Repr

/-- The six counters of a drop (R95). -/
structure DropCounters where
  sent : Nat
  answers : Nat
  timeouts : Nat
  badFrames : Nat
  strays : Nat
  droppedNotices : Nat
deriving DecidableEq, Repr

/-- A drop line unit (Drop Line Service). `lastChar` is the time of the last character sent or received, from which
the guard time is measured (R89); `rxSpace` is the receive line's level; `breakSince` is the beginning of a running
break measure (R90). -/
structure Drop where
  mode : Mode
  line : LineState
  queue : List Item
  service : Option Item
  rate : Rate
  pendingRate : Option Rate
  alternation : Alternation
  rx : Receiver
  tx : Transmitter
  expiryHeld : Bool
  lastChar : Nat
  rxSpace : Bool
  breakSince : Option Nat
  marking : Marking
  counters : DropCounters
deriving DecidableEq, Repr

/-! ### Trunk and upstream transmitter -/

/-- The eight trunk counters (R70). -/
structure TrunkCounters where
  framesTaken : Nat
  badFrames : Nat
  broken : Nat
  poolEmpty : Nat
  foreign : Nat
  invalid : Nat
  unknown : Nat
  refusalsSent : Nat
deriving DecidableEq, Repr

/-- The trunk: its rate, receiver, transmitter and trunk arrival's counters. `keptRate` is the rate in force at a restart,
kept for the restart's RESULT until that is given (R141, R162). -/
structure Trunk where
  rate : Rate
  keptRate : Option Rate
  rx : Receiver
  tx : Transmitter
  counters : TrunkCounters
deriving DecidableEq, Repr

/-- The upstream transmitter (Toward the Line Controller). `notice` is the notice buffer: free (`none`) or holding
one STATE frame (R31). -/
structure Upstream where
  urgent : List BufId
  routine : List BufId
  notice : Option (List Byte)
  run : Nat
  report : Byte
deriving DecidableEq, Repr

/-! ### Settings, management, image -/

/-- The settings in force, but for the trunk rate, which is the trunk's. -/
structure Settings where
  ownAddress : Byte
  refuseUnknown : Bool
  downThreshold : Nat
  probeRatio : Nat
  urgentLimit : Nat
deriving DecidableEq, Repr

/-- The replay slot (R144). In IN FLIGHT, `storing` says that the slot holds a STORE IMAGE request whose RESULT is
still to be written (R163). -/
inductive ReplaySlot where
  | empty
  | inFlight (seq : Byte) (buffer : BufId) (storing : Bool)
  | held (seq : Byte) (buffer : BufId)
deriving DecidableEq, Repr

/-- The store state (R163). -/
inductive StoreState where
  | none
  | running
  | done
  | failed
deriving DecidableEq, Repr

/-- The management unit (In-Band Management). -/
structure Management where
  slot : ReplaySlot
  pendingAddress : Option Byte
  pendingRate : Option Rate
  store : StoreState
deriving DecidableEq, Repr

/-- The configuration state (R171). -/
inductive ConfigState where
  | loading
  | ready
  | storing
deriving DecidableEq, Repr

/-- The load result (R172). -/
inductive LoadResult where
  | none
  | loaded
  | noImage
  | badImage
deriving DecidableEq, Repr

/-- What a load reads next: the header, records, or the check (R174 to R176). -/
inductive LoadPhase where
  | header
  | records
  | check
deriving DecidableEq, Repr

/-- The staged settings of a load (R177). -/
structure Staged where
  ownAddress : Option Byte
  trunkRate : Option Rate
  refuseUnknown : Option Bool
  downThreshold : Option Nat
  probeRatio : Option Nat
  urgentLimit : Option Nat
deriving DecidableEq, Repr

/-- A load in progress: its phase, the next image byte to be read, the record bytes still to be read of the records
length, the check register over the bytes read, and the staged settings. -/
structure Load where
  phase : LoadPhase
  position : Nat
  left : Nat
  check : Word16
  staged : Staged
deriving DecidableEq, Repr

/-- A store in progress: the store image and the number of the write under way (R182, R183). -/
structure Store where
  image : List Byte
  position : Nat
deriving DecidableEq, Repr

/-- The image unit (The Configuration Image). -/
structure ImageUnit where
  config : ConfigState
  result : LoadResult
  skipped : Nat
  load : Option Load
  store : Option Store
deriving DecidableEq, Repr

/-! ### The whole -/

/-- The state of the LX-4. `now` is the time of the last event in units of 1/576 ms (log entry 3), `memory` the
serial memory as the LX-4's writes leave it, `chance` how many free values have been used (log entry 6), `pending`
the commands that wait, front first. -/
structure State where
  now : Nat
  pool : Pool
  stations : List Station
  exchanges : Vector (Option Exchange) 16
  drops : Vector Drop 4
  trunk : Trunk
  upstream : Upstream
  settings : Settings
  mgmt : Management
  image : ImageUnit
  memory : List Host.Cell
  chance : Nat
  pending : List Instr
deriving DecidableEq, Repr

/-- Why the machine stops with a fault. The LX-4 has none: the data book gives every event an effect, and a broken
cable is a line state (R90), not a stop. No constructor, so no claim can lean on one. Safe. -/
inductive Fault where
deriving DecidableEq, Repr

/-- Why a command has no meaning. No meaning of this model refuses. -/
inductive Refusal where
  /-- Raised only by an arm of exec whose command has no meaning yet; there is none. Safe. -/
  | notModelled (mnemonic : String)
deriving DecidableEq, Repr

/-! ### The state after a cold reset -/

/-- A receiver in HUNT with its slot empty, its count 0, its escape flag clear and its gap timer stopped (R16). -/
def Receiver.idle : Receiver :=
  { state := .hunt, slot := none, count := 0, escape := false, gap := none }

/-- All six drop counters at 0 (R95). -/
def DropCounters.zero : DropCounters :=
  { sent := 0, answers := 0, timeouts := 0, badFrames := 0, strays := 0, droppedNotices := 0 }

/-- All eight trunk counters at 0 (R70). -/
def TrunkCounters.zero : TrunkCounters :=
  { framesTaken := 0, badFrames := 0, broken := 0, poolEmpty := 0, foreign := 0, invalid := 0, unknown := 0,
    refusalsSent := 0 }

/-- A drop after a cold reset (R2, R96). `lastChar` and `rxSpace` are log entries 3 and 4. -/
def Drop.cold : Drop :=
  { mode := .disabled, line := .disabled, queue := [], service := none, rate := 3, pendingRate := none,
    alternation := .queue, rx := Receiver.idle, tx := .idle, expiryHeld := false, lastChar := 0, rxSpace := false,
    breakSince := none, marking := .stopped, counters := DropCounters.zero }

/-- The pool after a cold reset: all FREE, the free list 0 to 39 (R23, R34). -/
def Pool.cold : Pool := { buffers := Vector.replicate 40 none, free := List.finRange 40 }

/-- The settings after a cold reset (R174). -/
def Settings.cold : Settings :=
  { ownAddress := 0xEF#8, refuseUnknown := true, downThreshold := 3, probeRatio := 8, urgentLimit := 4 }

/-- The upstream transmitter after a cold reset (R139). -/
def Upstream.cold : Upstream := { urgent := [], routine := [], notice := none, run := 0, report := 0#8 }

/-- The management unit after a cold reset (R168). -/
def Management.cold : Management := { slot := .empty, pendingAddress := none, pendingRate := none, store := .none }

/-- Nothing staged (R174). -/
def Staged.none : Staged :=
  { ownAddress := .none, trunkRate := .none, refuseUnknown := .none, downThreshold := .none, probeRatio := .none,
    urgentLimit := .none }

/-- The beginning of a load (R174): the header is read next, from address 0; the check register is preset (R5). -/
def Load.start : Load :=
  { phase := .header, position := 0, left := 0, check := 0xFFFF#16, staged := Staged.none }

/-- The image unit at the beginning of a load (R172, R174). -/
def ImageUnit.cold : ImageUnit :=
  { config := .loading, result := .none, skipped := 0, load := some Load.start, store := none }

/-- The LX-4 right after a cold reset, its straps all at 0 (log entry 2), with nothing commanded yet. -/
def State.reset : State :=
  { now := 0, pool := Pool.cold, stations := [], exchanges := Vector.replicate 16 none,
    drops := Vector.replicate 4 Drop.cold,
    trunk := { rate := 0, keptRate := none, rx := Receiver.idle, tx := .idle, counters := TrunkCounters.zero },
    upstream := Upstream.cold, settings := Settings.cold, mgmt := Management.cold, image := ImageUnit.cold,
    memory := [], chance := 0, pending := [] }

end Sys2Proof.Machine
end

