-- ==== Sys2Proof/Machine/Memory.lean ====
section
/-! DEFINITION. The serial memory on the 2-wire port (R169): 2048 bytes, held as a list of (address, byte) with
rising addresses and no entry equal to what an unlisted address reads as. -/

namespace Sys2Proof.Machine

/-- What a byte that no entry lists reads as: erased memory. DESIGN CHOICE, log entry 5. -/
def erased : Byte := 0xFF#8

/-- The byte at an address. -/
def readCell : List Host.Cell → Nat → Byte
  | [], _ => erased
  | (k, v) :: m, a => if k = a then v else readCell m a

/-- The memory without an entry for `a`. -/
def eraseCell (m : List Host.Cell) (a : Nat) : List Host.Cell := m.filter (fun c => c.1 ≠ a)

/-- An entry put at its place by address, into a memory that has none for it. -/
def insertCell : List Host.Cell → Nat → Byte → List Host.Cell
  | [], a, v => [(a, v)]
  | (k, w) :: m, a, v => if a < k then (a, v) :: (k, w) :: m else (k, w) :: insertCell m a v

/-- One byte written; writing what an unlisted address reads as removes the entry. -/
def writeCell (m : List Host.Cell) (a : Nat) (v : Byte) : List Host.Cell :=
  if v = erased then eraseCell m a else insertCell (eraseCell m a) a v

/-- Consecutive bytes written from an address on. -/
def writeCells : List Host.Cell → Nat → List Byte → List Host.Cell
  | m, _, [] => m
  | m, a, v :: vs => writeCells (writeCell m a v) (a + 1) vs

/-- The canonical form: addresses strictly rising, no erased byte listed. -/
def Memory.wf (m : List Host.Cell) : Bool :=
  decide (m.Pairwise (fun x y => x.1 < y.1)) && m.all (fun c => c.2 ≠ erased)

end Sys2Proof.Machine
end

