-- ==== Sys2Proof/Config.lean ====
section
/-! DEFINITION. The sizes the LX-4 fixes, and the free values: what its data book leaves open. A free value has
no body, so no proof can see what it is. -/

namespace Sys2Proof.Config

/-- The trunk receiver is given a buffer only while MORE than this many are free (R8, R24). -/
def dropReserve : Nat := 4

/-- The longest frame content, in bytes (R4, R12). -/
def maxContent : Nat := 247

/-- Items in a drop queue (R74). -/
def queueRoom : Nat := 4

/-- Entries in the station table (R35). -/
def tableRoom : Nat := 64

/-- Counters stop here (R45, R70, R95). -/
def counterMax : Nat := 65535

/-- The addresses LIST STATIONS returns at most (R151). -/
def listRoom : Nat := 32

/-- The longest records length an image may have (R175). -/
def maxRecords : Nat := 2038

/-- FREE VALUE. How many bytes of a failed write the serial memory took (R184: "whatever part of the write it
took"), for the n-th free value used. Log entry 6. -/
opaque bytesTaken : Nat → Nat

/-- FREE VALUE. Whether the write under way at a cold reset had already reached its stop (R186), for the n-th
free value used. Log entry 6. -/
opaque writeReachedStop : Nat → Bool

end Sys2Proof.Config
end

