-- ==== Sys2Proof/Machine/Flags.lean ====
section
/-! DEFINITION. The flags, counters and pins: how a counter rises, how a station's liveness is derived and crosses
DOWN, and what the status pins show. -/

namespace Sys2Proof.Machine

/-- A counter one higher, stopping at 65535 (R45, R70, R95). -/
def bump (n : Nat) : Nat := if n < Config.counterMax then n + 1 else n

/-- The skipped-record count one higher, stopping at 255 (R172). -/
def bumpSkipped (n : Nat) : Nat := if n < 255 then n + 1 else n

/-- The miss count one higher, stopping at 15 (R39). -/
def bumpMiss (n : Nat) : Nat := if n < 15 then n + 1 else n

/-- The run counter one higher, stopping at 8 (R133). -/
def bumpRun (n : Nat) : Nat := if n < 8 then n + 1 else n

/-- Liveness from the miss count and the down threshold (R38). -/
def livenessOf (threshold miss : Nat) : Liveness :=
  if miss = 0 then .present else if miss < threshold then .silent else .down

/-- A move from one liveness to another goes into or out of DOWN (R41). -/
def crossesDown (a b : Liveness) : Bool := (a = .down) != (b = .down)

/-- The liveness derived anew (R38): where it crosses DOWN, the probe count becomes 0 (R44) and the station joins the
notice set (R41). -/
def Station.rederive (st : Station) (threshold : Nat) : Station :=
  let l := livenessOf threshold st.miss
  if crossesDown st.liveness l then { st with liveness := l, probe := 0, noticePending := true }
  else { st with liveness := l }

/-- The miss count set, and the liveness derived anew in the same step (R38 to R40, R50). -/
def Station.setMiss (st : Station) (threshold miss : Nat) : Station :=
  Station.rederive { st with miss := miss } threshold

/-- RDY is high while the configuration state is READY or STORING (R171). -/
def State.rdy (s : State) : Bool := s.image.config ≠ .loading

/-- FLT is high unless a drop's line is in FAULT (R90, R92). -/
def State.flt (s : State) : Bool := s.drops.all (fun d => d.line ≠ .fault)

/-- DnDE is high from the start bit of SOF to the end of the last character sent, EOF or ABT (R17, R20). -/
def Drop.driverEnable (d : Drop) : Bool := d.tx ≠ .idle

/-- A load that has read nothing yet: a cold reset leaves the port at its idle levels, from which the first read begins
(R169, R174, R181). -/
def Load.unread (l : Load) : Bool := l.phase = .header && l.position = 0

/-- The memory port is idle, MSCL and MSDA high, after a cold reset and after every load and every store (R169). -/
def State.memoryPortIdle (s : State) : Bool := s.image.load.all Load.unread && s.image.store.isNone

end Sys2Proof.Machine
end

