-- ==== Sys2Proof/WellFormed.lean ====
section
/-! DEFINITION. Which commands can arrive at all: the bounds on their operands that the formats give. exec is total
and does not rely on them. -/

namespace Sys2Proof

/-- The four framing codes (Framing Codes and Escaping). -/
def codeSof : Byte := 0xD3#8
def codeEof : Byte := 0xD5#8
def codeEsc : Byte := 0xD7#8
def codeAbt : Byte := 0xD9#8

/-- The four record types (Image Layout). -/
def typeSettings : Byte := 0x51#8
def typeDrop : Byte := 0x52#8
def typeStation : Byte := 0x53#8
def typeEnd : Byte := 0x5E#8

/-- A record type the load knows (R190). -/
def knownType (t : Byte) : Bool :=
  t = typeSettings || t = typeDrop || t = typeStation || t = typeEnd

/-- A length byte counts at most 255 field bytes (R173). -/
def fieldsFit (fields : List Byte) : Bool := fields.length ≤ 255

/-- The operands are values the event can carry. -/
def Instr.wellFormed : Instr → Bool
  | .contentCharacter _ b => b ≠ codeSof && b ≠ codeEof && b ≠ codeAbt
  | .ignoredCharacter _ b => b ≠ codeSof
  | .settingsRecord f => fieldsFit f
  | .dropRecord f => fieldsFit f
  | .stationRecord f => fieldsFit f
  | .endRecord r => r.length ≤ 2037
  | .unknownRecord t f => !knownType t && fieldsFit f
  | .truncatedRecord bs => bs ≠ [] && bs.length ≤ 256
  | .coldReset _ => true
  | .sofReceived _ => true
  | .eofReceived _ => true
  | .abtReceived _ => true
  | .framingError _ => true
  | .breakRecognised _ => true
  | .breakEnd _ => true
  | .lineFallsToSpace _ => true
  | .gapExpiry _ => true
  | .dropEofSent _ => true
  | .windowExpiry _ => true
  | .guardEnd _ => true
  | .deadlineExpiry _ => true
  | .dropFault _ => true
  | .dropRecovery _ => true
  | .trunkEofSent => true
  | .memoryPollTimeout => true
  | .memoryByteNotAcknowledged => true
  | .loadHeaderRead _ _ _ _ _ => true
  | .loadEnd _ _ => true
  | .storeWriteAcknowledged => true
  | .abtSent _ => true

end Sys2Proof
end

