-- ==== Sys2Proof/Machine/Frame.lean ====
section
/-! DEFINITION. Frame content: the check of R5, the header fields, the rewriting of addresses (R18), the frames the
LX-4 writes, escaping (R4) and validity (R14). -/

namespace Sys2Proof.Machine

/-! ### The check (R5) -/

/-- One bit through the check register. -/
def checkBit (r : Word16) : Word16 := if r.msb then (r <<< 1) ^^^ 0x1021#16 else r <<< 1

/-- One byte into the check register, most significant bit first. -/
def checkByte (r : Word16) (b : Byte) : Word16 :=
  checkBit (checkBit (checkBit (checkBit (checkBit (checkBit (checkBit (checkBit
    (r ^^^ (b.setWidth 16 <<< 8)))))))))

/-- The bytes taken into the register in order. -/
def checkBytes (r : Word16) (bs : List Byte) : Word16 := bs.foldl checkByte r

/-- The check of a run of bytes, from the preset 0xFFFF. -/
def check (bs : List Byte) : Word16 := checkBytes 0xFFFF#16 bs

/-- The bytes with their check after them, high byte first. -/
def withCheck (bs : List Byte) : List Byte := bs ++ [(check bs).high, (check bs).low]

/-! ### Header fields -/

/-- The byte at an offset of a frame content; valid frames have every header field. -/
def byteAt (c : List Byte) (i : Nat) : Byte := c.getD i 0#8

def destOf (c : List Byte) : Byte := byteAt c 0
def srcOf (c : List Byte) : Byte := byteAt c 1
def kindOf (c : List Byte) : Byte := byteAt c 2
def seqOf (c : List Byte) : Byte := byteAt c 3
def lenOf (c : List Byte) : Byte := byteAt c 4

/-- The bytes DEST through BODY. -/
def checked (c : List Byte) : List Byte := c.take (c.length - 2)

/-- The BODY. -/
def bodyOf (c : List Byte) : List Byte := (checked c).drop 5

/-- A frame content is valid (R14): at least 7 bytes, LEN equal to the count minus 7, the check right. -/
def validFrame (c : List Byte) : Bool :=
  7 ≤ c.length && (lenOf c).toNat = c.length - 7 && withCheck (checked c) = c

/-! ### Kinds and special addresses (Format Reference) -/

def kindRequest : Byte := 0x10#8
def kindNotice : Byte := 0x11#8
def kindFetch : Byte := 0x12#8
def kindAnswer : Byte := 0x20#8
def kindDefer : Byte := 0x21#8
def kindRefusal : Byte := 0x30#8
def kindClosure : Byte := 0x31#8
def kindState : Byte := 0x32#8
def kindResult : Byte := 0x33#8

/-- The line controller's address. -/
def addrController : Byte := 0x00#8

/-- Broadcast. -/
def addrBroadcast : Byte := 0xFF#8

/-- A station address, 0x01 to 0xEF (Addresses and Kinds). -/
def stationAddress (a : Byte) : Bool := 1 ≤ a.toNat && a.toNat ≤ 0xEF

/-! ### Writing frames (R18) -/

/-- A frame content from its fields, LEN and CHECK computed. -/
def frame (dest src kind seq : Byte) (body : List Byte) : List Byte :=
  withCheck (dest :: src :: kind :: seq :: Byte.ofNat body.length :: body)

/-- DEST changed and CHECK computed anew (R79, R81). -/
def rewriteDest (c : List Byte) (dest : Byte) : List Byte := withCheck ((checked c).set 0 dest)

/-- SRC changed and CHECK computed anew (R121). -/
def rewriteSrc (c : List Byte) (src : Byte) : List Byte := withCheck ((checked c).set 1 src)

/-- Refusal reasons (R65, Report Bodies). -/
inductive RefusalReason where
  | notReady
  | dropDisabled
  | dropFault
  | stationBusy
  | tableExhausted
  | queueFull
  | unknownStation
deriving DecidableEq, Repr

def RefusalReason.code : RefusalReason → Byte
  | .notReady => 0x01#8
  | .dropDisabled => 0x02#8
  | .dropFault => 0x03#8
  | .stationBusy => 0x04#8
  | .tableExhausted => 0x05#8
  | .queueFull => 0x06#8
  | .unknownStation => 0x07#8

/-- Closure reasons (R122, Report Bodies); a closure by answer writes none. -/
inductive ClosureReason where
  | silent
  | fetchLimit
  | stationDown
  | cancelled
  | removed
  | dropDisabled
  | dropFault
deriving DecidableEq, Repr

def ClosureReason.code : ClosureReason → Byte
  | .silent => 0x01#8
  | .fetchLimit => 0x02#8
  | .stationDown => 0x03#8
  | .cancelled => 0x04#8
  | .removed => 0x05#8
  | .dropDisabled => 0x06#8
  | .dropFault => 0x07#8

/-- A REFUSAL for a request to `station` (R65). -/
def refusalFrame (station seq : Byte) (r : RefusalReason) : List Byte :=
  frame addrController station kindRefusal seq [r.code]

/-- A CLOSURE (R66, R122). -/
def closureFrame (station seq : Byte) (r : ClosureReason) (attempts fetches : Nat) : List Byte :=
  frame addrController station kindClosure seq [r.code, Byte.ofNat attempts, Byte.ofNat fetches]

/-- A FETCH (R80): seven content bytes. -/
def fetchFrame (lineAddress seq : Byte) : List Byte := frame lineAddress addrController kindFetch seq []

/-- A STATE report (R134). -/
def stateFrame (own report station liveness miss : Byte) : List Byte :=
  frame addrController own kindState report [station, liveness, miss]

/-- A RESULT (R143). -/
def resultFrame (own seq code op : Byte) (data : List Byte) : List Byte :=
  frame addrController own kindResult seq (code :: op :: data)

/-! ### Escaping (R4, R9) -/

/-- A content byte that is sent as ESC and the byte XOR 0x20. -/
def isCode (b : Byte) : Bool := b = codeSof || b = codeEof || b = codeEsc || b = codeAbt

/-- The characters a content byte is sent as. -/
def escapeByte (b : Byte) : List Byte := if isCode b then [codeEsc, b ^^^ 0x20#8] else [b]

/-- The characters of a whole frame: SOF, the content escaped, EOF (R4). -/
def lineCharacters (c : List Byte) : List Byte := codeSof :: c.flatMap escapeByte ++ [codeEof]

/-- What the character after ESC stands for, if it is one of the four inverted codes (R9). -/
def unescape (b : Byte) : Option Byte := if isCode (b ^^^ 0x20#8) then some (b ^^^ 0x20#8) else none

end Sys2Proof.Machine
end

