-- ==== Sys2Proof/Machine/Operands.lean ====
section
/-! DEFINITION. The operand forms: the value codes of the Format Reference, the field masks of WRITE STATION,
WRITE SETTINGS and the image records, the byte ranges of R189, and the arguments of the thirteen management
operations with the length and coded-value tests of R148 and R187. -/

namespace Sys2Proof.Machine

/-! ### Value codes -/

def boolCode (b : Bool) : Byte := if b then 0x01#8 else 0x00#8

def Class.code : Class → Byte
  | .routine => 0x00#8
  | .urgent => 0x01#8

def Liveness.code : Liveness → Byte
  | .present => 0x00#8
  | .silent => 0x01#8
  | .down => 0x02#8

def Mode.code : Mode → Byte
  | .disabled => 0x00#8
  | .enabled => 0x01#8

def LineState.code : LineState → Byte
  | .disabled => 0x00#8
  | .idle => 0x01#8
  | .sending => 0x02#8
  | .listening => 0x03#8
  | .receiving => 0x04#8
  | .guard => 0x05#8
  | .fault => 0x06#8

def ExState.code : ExState → Byte
  | .queued => 0x00#8
  | .sending => 0x01#8
  | .awaiting => 0x02#8
  | .deferred => 0x03#8
  | .fetchDue => 0x04#8
  | .fetching => 0x05#8

def Alternation.code : Alternation → Byte
  | .queue => 0x00#8
  | .fetch => 0x01#8

def ConfigState.code : ConfigState → Byte
  | .loading => 0x00#8
  | .ready => 0x01#8
  | .storing => 0x02#8

def LoadResult.code : LoadResult → Byte
  | .none => 0x00#8
  | .loaded => 0x01#8
  | .noImage => 0x02#8
  | .badImage => 0x03#8

def StoreState.code : StoreState → Byte
  | .none => 0x00#8
  | .running => 0x01#8
  | .done => 0x02#8
  | .failed => 0x03#8

/-- A rate code, or 0xFF for no pending rate (R188). -/
def rateCode (r : Rate) : Byte := Byte.ofNat r.val
def optRateCode (r : Option Rate) : Byte := (r.map rateCode).getD 0xFF#8

/-- An address, or 0x00 for absent (R188). -/
def optAddress (a : Option Byte) : Byte := a.getD 0x00#8

/-- A number in one byte, and in two bytes high byte first (R188). -/
def num8 (n : Nat) : Byte := Byte.ofNat n
def num16 (n : Nat) : List Byte := [Byte.ofNat (n / 256), Byte.ofNat n]

/-- The classes, modes, drops and rates that coded bytes stand for; each is read only after its byte was tested. -/
def classOf (b : Byte) : Class := if b = 0x01#8 then .urgent else .routine
def modeOf (b : Byte) : Mode := if b = 0x01#8 then .enabled else .disabled
def dropOf (b : Byte) : DropId := Fin.ofNat 4 b.toNat
def rateOf (b : Byte) : Rate := Fin.ofNat 8 b.toNat
def flagOf (b : Byte) : Bool := b = 0x01#8

/-- A flag byte is 0 or 1; a drop byte 0 to 3; a rate byte 0 to 7 (R187). -/
def isFlag (b : Byte) : Bool := b.toNat ≤ 1
def isDrop (b : Byte) : Bool := b.toNat ≤ 3
def isRate (b : Byte) : Bool := b.toNat ≤ 7

/-- A field that is absent passes any test of its value. -/
def ifGiven (o : Option Byte) (p : Byte → Bool) : Bool := o.all p

/-! ### Field masks: value bytes follow in ascending bit order -/

/-- How many of the mask bits below `k` are set. -/
def bitsBelow (mask : Nat) : Nat → Nat
  | 0 => 0
  | k + 1 => bitsBelow mask k + (if mask.testBit k then 1 else 0)

/-- The value byte of mask bit `k`, if the mask selects it. -/
def fieldAt (mask : Nat) (vals : List Byte) (k : Nat) : Option Byte :=
  if mask.testBit k then vals[bitsBelow mask k]? else none

/-- The station fields a mask selects (Format Reference: bits 0 to 10 of WRITE STATION, bits 0 to 7 of a STATION
record), as bytes. -/
structure StationFields where
  drop : Option Byte
  aliasAddr : Option Byte
  cls : Option Byte
  window : Option Byte
  retryLimit : Option Byte
  deferral : Option Byte
  fetchInterval : Option Byte
  fetchLimit : Option Byte
  miss : Option Byte
  done : Option Byte
  failed : Option Byte
deriving DecidableEq, Repr

def stationFields (mask : Nat) (vals : List Byte) : StationFields :=
  { drop := fieldAt mask vals 0, aliasAddr := fieldAt mask vals 1, cls := fieldAt mask vals 2,
    window := fieldAt mask vals 3, retryLimit := fieldAt mask vals 4, deferral := fieldAt mask vals 5,
    fetchInterval := fieldAt mask vals 6, fetchLimit := fieldAt mask vals 7, miss := fieldAt mask vals 8,
    done := fieldAt mask vals 9, failed := fieldAt mask vals 10 }

/-- The settings fields a mask selects (bits 0 to 5 of WRITE SETTINGS and of a SETTINGS record), as bytes. -/
structure SettingsFields where
  ownAddress : Option Byte
  trunkRate : Option Byte
  refuseUnknown : Option Byte
  downThreshold : Option Byte
  probeRatio : Option Byte
  urgentLimit : Option Byte
deriving DecidableEq, Repr

def settingsFields (mask : Nat) (vals : List Byte) : SettingsFields :=
  { ownAddress := fieldAt mask vals 0, trunkRate := fieldAt mask vals 1, refuseUnknown := fieldAt mask vals 2,
    downThreshold := fieldAt mask vals 3, probeRatio := fieldAt mask vals 4, urgentLimit := fieldAt mask vals 5 }

/-! ### Ranges (R189) -/

/-- The coded fields of WRITE STATION hold codes (R187). -/
def StationFields.codesGood (f : StationFields) : Bool :=
  ifGiven f.drop isDrop && ifGiven f.cls isFlag && ifGiven f.deferral isFlag

/-- The quantities shared by a request and a record lie in the ranges of R36. -/
def StationFields.quantitiesGood (f : StationFields) : Bool :=
  ifGiven f.window (fun b => 2 ≤ b.toNat) && ifGiven f.retryLimit (fun b => b.toNat ≤ 3)
    && ifGiven f.fetchInterval (fun b => 1 ≤ b.toNat) && ifGiven f.fetchLimit (fun b => 1 ≤ b.toNat)

/-- The values of a WRITE STATION are in range (R47, R48, R189): an alias of 0x00 means absent, and the counts may
only be 0 (R50). -/
def StationFields.requestGood (f : StationFields) : Bool :=
  f.quantitiesGood && ifGiven f.aliasAddr (fun b => b = 0x00#8 || stationAddress b)
    && ifGiven f.miss (fun b => b = 0x00#8) && ifGiven f.done (fun b => b = 0x00#8)
    && ifGiven f.failed (fun b => b = 0x00#8)

/-- The values of a STATION record are in range (R178, R189): an alias of 0x00 is out of range. -/
def StationFields.recordGood (f : StationFields) : Bool :=
  f.codesGood && f.quantitiesGood && ifGiven f.aliasAddr stationAddress

/-- The coded fields of WRITE SETTINGS hold codes (R187). -/
def SettingsFields.codesGood (f : SettingsFields) : Bool :=
  ifGiven f.trunkRate isRate && ifGiven f.refuseUnknown isFlag

/-- The quantities of the settings are in range (R160, R189). -/
def SettingsFields.quantitiesGood (f : SettingsFields) : Bool :=
  ifGiven f.ownAddress stationAddress && ifGiven f.downThreshold (fun b => 1 ≤ b.toNat && b.toNat ≤ 15)
    && ifGiven f.probeRatio (fun b => 1 ≤ b.toNat && b.toNat ≤ 16)
    && ifGiven f.urgentLimit (fun b => 1 ≤ b.toNat && b.toNat ≤ 8)

/-- The configuration fields given put into an entry. An alias of 0x00, or equal to the entry's own address, is
stored as absent (R37). -/
def StationFields.applyTo (f : StationFields) (st : Station) : Station :=
  { st with
    drop := (f.drop.map dropOf).getD st.drop
    aliasAddr := match f.aliasAddr with
      | none => st.aliasAddr
      | some a => if a = 0x00#8 ∨ a = st.address then none else some a
    cls := (f.cls.map classOf).getD st.cls
    window := (f.window.map BitVec.toNat).getD st.window
    retryLimit := (f.retryLimit.map BitVec.toNat).getD st.retryLimit
    deferral := (f.deferral.map flagOf).getD st.deferral
    fetchInterval := (f.fetchInterval.map BitVec.toNat).getD st.fetchInterval
    fetchLimit := (f.fetchLimit.map BitVec.toNat).getD st.fetchLimit }

/-! ### Management requests (R187) -/

/-- WARM or RELOAD. -/
inductive RestartKind where
  | warm
  | reload
deriving DecidableEq, Repr

def RestartKind.code : RestartKind → Byte
  | .warm => 0x01#8
  | .reload => 0x02#8

/-- A counter group: a drop or the trunk. -/
inductive CounterGroup where
  | drop (d : DropId)
  | trunk
deriving DecidableEq, Repr

/-- A management operation with its arguments, which have passed R148's length and coded-value tests. -/
inductive MgmtRequest where
  | readStatus
  | listStations (start : Byte)
  | readStation (address : Byte)
  | writeStation (address : Byte) (fields : StationFields)
  | removeStation (address : Byte) (force : Bool)
  | readExchanges
  | cancelExchange (address : Byte)
  | readDrop (d : DropId)
  | setDrop (d : DropId) (mode : Option Mode) (rate : Option Rate)
  | readCounters (group : CounterGroup) (clear : Bool)
  | writeSettings (fields : SettingsFields)
  | storeImage
  | restart (kind : RestartKind)
deriving DecidableEq, Repr

/-- The operation codes. -/
def opReadStatus : Byte := 0x01#8
def opListStations : Byte := 0x02#8
def opReadStation : Byte := 0x03#8
def opWriteStation : Byte := 0x04#8
def opRemoveStation : Byte := 0x05#8
def opReadExchanges : Byte := 0x06#8
def opCancelExchange : Byte := 0x07#8
def opReadDrop : Byte := 0x08#8
def opSetDrop : Byte := 0x09#8
def opReadCounters : Byte := 0x0A#8
def opWriteSettings : Byte := 0x0B#8
def opStoreImage : Byte := 0x0C#8
def opRestart : Byte := 0x0D#8

/-- An operation code the LX-4 knows. -/
def knownOp (op : Byte) : Bool := 0x01 ≤ op.toNat && op.toNat ≤ 0x0D

/-- The operations that run while a store runs (R148). -/
def runsInStoring (op : Byte) : Bool :=
  op = opReadStatus || op = opListStations || op = opReadStation || op = opReadExchanges || op = opReadDrop
    || op = opReadCounters || op = opCancelExchange

/-- The arguments of a WRITE STATION: exact length, no undefined mask bit, every coded field a code. -/
def parseWriteStation (args : List Byte) : Option MgmtRequest :=
  match args with
  | address :: maskHigh :: maskLow :: vals =>
    let mask := maskHigh.toNat * 256 + maskLow.toNat
    let f := stationFields mask vals
    if vals.length = bitsBelow mask 11 ∧ mask < 2048 ∧ f.codesGood then some (.writeStation address f) else none
  | _ => none

/-- The arguments of a WRITE SETTINGS, likewise. -/
def parseWriteSettings (args : List Byte) : Option MgmtRequest :=
  match args with
  | mask :: vals =>
    let f := settingsFields mask.toNat vals
    if vals.length = bitsBelow mask.toNat 6 ∧ mask.toNat < 64 ∧ f.codesGood then some (.writeSettings f) else none
  | [] => none

/-- The arguments of a SET DROP: 0xFF leaves the mode or the rate unchanged. -/
def parseSetDrop (drop mode rate : Byte) : Option MgmtRequest :=
  if isDrop drop ∧ (isFlag mode ∨ mode = 0xFF#8) ∧ (isRate rate ∨ rate = 0xFF#8) then
    some (.setDrop (dropOf drop) (if mode = 0xFF#8 then none else some (modeOf mode))
      (if rate = 0xFF#8 then none else some (rateOf rate)))
  else none

/-- A request BODY whose operation code is known, read as R148 and R187 require; `none` is BAD ARGUMENT. -/
def parseRequest (op : Byte) (args : List Byte) : Option MgmtRequest :=
  if op = opWriteStation then parseWriteStation args
  else if op = opWriteSettings then parseWriteSettings args
  else match args with
  | [] =>
    if op = opReadStatus then some .readStatus
    else if op = opReadExchanges then some .readExchanges
    else if op = opStoreImage then some .storeImage
    else none
  | [a] =>
    if op = opListStations then some (.listStations a)
    else if op = opReadStation then some (.readStation a)
    else if op = opCancelExchange then some (.cancelExchange a)
    else if op = opReadDrop ∧ isDrop a then some (.readDrop (dropOf a))
    else if op = opRestart ∧ a = RestartKind.warm.code then some (.restart .warm)
    else if op = opRestart ∧ a = RestartKind.reload.code then some (.restart .reload)
    else none
  | [a, b] =>
    if op = opRemoveStation ∧ isFlag b then some (.removeStation a (flagOf b))
    else if op = opReadCounters ∧ a = 0x04#8 ∧ isFlag b then some (.readCounters .trunk (flagOf b))
    else if op = opReadCounters ∧ isDrop a ∧ isFlag b then some (.readCounters (.drop (dropOf a)) (flagOf b))
    else none
  | [a, b, c] => if op = opSetDrop then parseSetDrop a b c else none
  | _ => none

/-- Result codes (R149). -/
inductive ResultCode where
  | done
  | cancelPending
  | notReady
  | busy
  | noSuchStation
  | tableFull
  | inUse
  | noExchange
  | badArgument
  | unknownOperation
  | storeFailed
deriving DecidableEq, Repr

def ResultCode.code : ResultCode → Byte
  | .done => 0x00#8
  | .cancelPending => 0x01#8
  | .notReady => 0x02#8
  | .busy => 0x03#8
  | .noSuchStation => 0x04#8
  | .tableFull => 0x05#8
  | .inUse => 0x06#8
  | .noExchange => 0x07#8
  | .badArgument => 0x08#8
  | .unknownOperation => 0x09#8
  | .storeFailed => 0x0A#8

end Sys2Proof.Machine
end

