-- ==== Sys2Proof/Machine/Timing.lean ====
section
/-! DEFINITION. The timer base: the length of one character at each rate and of each measure the data book states,
in units of 1/576 ms, in which all of them and every bit time are whole numbers (log entry 3). -/

namespace Sys2Proof.Machine

/-- One millisecond. -/
def unitsPerMs : Nat := 576

/-- One character time, ten bit times, at a rate code (R1, R2): 1200 baud is 8.333 ms, 115200 baud 0.087 ms. -/
def charTime (r : Rate) : Nat :=
  match r with
  | 0 => 4800
  | 1 => 2400
  | 2 => 1200
  | 3 => 600
  | 4 => 300
  | 5 => 150
  | 6 => 100
  | 7 => 50

/-- One bit time (R1). -/
def bitTime (r : Rate) : Nat := charTime r / 10

/-- The gap limit: 20 character times (R11). -/
def gapLimit (r : Rate) : Nat := 20 * charTime r

/-- The guard time: 4 character times (R89). -/
def guardTime (r : Rate) : Nat := 4 * charTime r

/-- The break that puts a drop in FAULT: 64 character times (R90). -/
def faultLimit (r : Rate) : Nat := 64 * charTime r

/-- The marking that recovers a drop: 256 character times (R92). -/
def recoveryLimit (r : Rate) : Nat := 256 * charTime r

/-- A window of `w` milliseconds (R36, R79). -/
def windowTime (w : Nat) : Nat := unitsPerMs * w

/-- A fetch interval of `n` units of 10 ms (R36, R110). -/
def fetchTime (n : Nat) : Nat := unitsPerMs * 10 * n

/-- Time moves up to `t`, and never back: the event now taken reports that `t` has come (log entry 3). -/
def State.advance (s : State) (t : Nat) : State := { s with now := max s.now t }

end Sys2Proof.Machine
end

