-- ==== Sys2Proof/Machine/Ops.lean ====
section
/-! DEFINITION. The operations the blocks share: the pool's takes, holds and releases (R21 to R25), access to drops,
lines, records and entries, and the upstream queues with their arbiter (R128 to R134). -/

namespace Sys2Proof.Machine

/-! ### The pool (R21 to R24) -/

/-- The head of the free list taken: HELD with count 1 and nothing in it (R23, R24). -/
def Pool.take (p : Pool) : Option (BufId × Pool) :=
  match p.free with
  | [] => none
  | b :: rest => some (b, { buffers := p.buffers.set b (some { content := [], count := 1 }), free := rest })

/-- One more place holds the buffer (R22). -/
def Pool.hold (p : Pool) (b : BufId) : Pool :=
  match p.buffers[b] with
  | none => p
  | some buf => { p with buffers := p.buffers.set b (some { buf with count := buf.count + 1 }) }

/-- One place releases the buffer; at 0 it becomes FREE and goes to the tail of the free list (R22, R23). -/
def Pool.release (p : Pool) (b : BufId) : Pool :=
  match p.buffers[b] with
  | none => p
  | some buf =>
    if buf.count ≤ 1 then { buffers := p.buffers.set b none, free := p.free ++ [b] }
    else { p with buffers := p.buffers.set b (some { buf with count := buf.count - 1 }) }

/-- A held buffer's content written in place; its holds stay (R21). -/
def Pool.write (p : Pool) (b : BufId) (c : List Byte) : Pool :=
  match p.buffers[b] with
  | none => p
  | some buf => { p with buffers := p.buffers.set b (some { buf with content := c }) }

/-- The content of a buffer; a FREE buffer's has no meaning (R21) and reads as empty. -/
def Pool.content (p : Pool) (b : BufId) : List Byte := (p.buffers[b].map Buffer.content).getD []

/-- The reference count of a buffer, 0 when FREE. -/
def Pool.count (p : Pool) (b : BufId) : Nat := (p.buffers[b].map Buffer.count).getD 0

def State.hold (s : State) (b : BufId) : State := { s with pool := s.pool.hold b }
def State.release (s : State) (b : BufId) : State := { s with pool := s.pool.release b }
def State.write (s : State) (b : BufId) (c : List Byte) : State := { s with pool := s.pool.write b c }
def State.content (s : State) (b : BufId) : List Byte := s.pool.content b

/-! ### Drops, records, entries -/

/-- One drop unit. -/
def State.dropUnit (s : State) (d : DropId) : Drop := s.drops[d]

/-- One drop unit changed. -/
def State.mapDrop (s : State) (d : DropId) (f : Drop → Drop) : State :=
  { s with drops := s.drops.set d (f s.drops[d]) }

/-- One exchange record: `none` when FREE. -/
def State.exchange (s : State) (t : Tag) : Option Exchange := s.exchanges[t]

/-- One exchange record put or freed. -/
def State.putExchange (s : State) (t : Tag) (e : Option Exchange) : State :=
  { s with exchanges := s.exchanges.set t e }

/-- One open record changed; a FREE one stays FREE. -/
def State.mapExchange (s : State) (t : Tag) (f : Exchange → Exchange) : State :=
  s.putExchange t ((s.exchange t).map f)

/-- The entry for a network address. -/
def State.station (s : State) (a : Byte) : Option Station := s.stations.find? (fun st => st.address = a)

/-- The entry for an address changed; with no entry, nothing. -/
def State.mapStation (s : State) (a : Byte) (f : Station → Station) : State :=
  { s with stations := s.stations.map (fun st => if st.address = a then f st else st) }

/-- A station's line address: its alias when it has one, its address otherwise (R37). -/
def Station.lineAddress (st : Station) : Byte := st.aliasAddr.getD st.address

/-- The line address a frame to a network address is sent to. -/
def State.lineAddressOf (s : State) (a : Byte) : Byte := ((s.station a).map Station.lineAddress).getD a

/-- The tag of the OPEN record that names a station, if there is one. -/
def State.openFor (s : State) (a : Byte) : Option Tag :=
  (List.finRange 16).find? (fun t => (s.exchange t).any (fun e => e.station = a))

/-- The lowest FREE tag (R67). -/
def State.freeTag (s : State) : Option Tag := (List.finRange 16).find? (fun t => (s.exchange t).isNone)

/-- The tags of a drop's exchanges in DEFERRED or FETCH DUE, ascending (R91). -/
def State.offLine (s : State) (d : DropId) : List Tag :=
  (List.finRange 16).filter
    (fun t => (s.exchange t).any (fun e => e.drop = d && (e.state = .deferred || e.state = .fetchDue)))

/-- The number of OPEN records (R100). -/
def State.openCount (s : State) : Nat := ((List.finRange 16).filter (fun t => (s.exchange t).isSome)).length

/-! ### Lines -/

/-- A line's receiver. -/
def State.rx (s : State) : Line → Receiver
  | .trunk => s.trunk.rx
  | .drop d => (s.dropUnit d).rx

/-- A line's transmitter. -/
def State.tx (s : State) : Line → Transmitter
  | .trunk => s.trunk.tx
  | .drop d => (s.dropUnit d).tx

def State.setRx (s : State) (l : Line) (r : Receiver) : State :=
  match l with
  | .trunk => { s with trunk := { s.trunk with rx := r } }
  | .drop d => s.mapDrop d (fun x => { x with rx := r })

/-- A line's rate in force. -/
def State.rate (s : State) : Line → Rate
  | .trunk => s.trunk.rate
  | .drop d => (s.dropUnit d).rate

def State.mapTrunkCounters (s : State) (f : TrunkCounters → TrunkCounters) : State :=
  { s with trunk := { s.trunk with counters := f s.trunk.counters } }

def State.mapDropCounters (s : State) (d : DropId) (f : DropCounters → DropCounters) : State :=
  s.mapDrop d (fun x => { x with counters := f x.counters })

/-- A frame counted broken on the trunk, bad frames on a drop (Counters Moved by the Receivers). -/
def State.countBroken (s : State) : Line → State
  | .trunk => s.mapTrunkCounters (fun c => { c with broken := bump c.broken })
  | .drop d => s.mapDropCounters d (fun c => { c with badFrames := bump c.badFrames })

/-- A frame bad at its EOF: bad frames on every line (R14). -/
def State.countBad (s : State) : Line → State
  | .trunk => s.mapTrunkCounters (fun c => { c with badFrames := bump c.badFrames })
  | .drop d => s.mapDropCounters d (fun c => { c with badFrames := bump c.badFrames })

/-- The receiver's slot emptied, its buffer released, the receiver left in the state given (R10 to R14). -/
def State.dropFrame (s : State) (l : Line) (next : RxState) : State :=
  let s' := s.setRx l { Receiver.idle with state := next }
  match (s.rx l).slot with
  | none => s'
  | some b => s'.release b

/-! ### The upstream queues (R128) -/

/-- A frame put at the tail of the upstream queue of a class; its hold is the queue position's. -/
def State.queueUp (s : State) (c : Class) (b : BufId) : State :=
  match c with
  | .urgent => { s with upstream := { s.upstream with urgent := s.upstream.urgent ++ [b] } }
  | .routine => { s with upstream := { s.upstream with routine := s.upstream.routine ++ [b] } }

/-- The content a transmitter sends. -/
def State.sourceContent (s : State) : TxSource → List Byte
  | .pool b => s.content b
  | .notice => s.upstream.notice.getD []
  | .fetch c => c

/-- How long a frame takes: (n + e + 2) character times (R17). -/
def State.sendingTime (s : State) (src : TxSource) (r : Rate) : Nat :=
  (lineCharacters (s.sourceContent src)).length * charTime r

/-- A frame given to the trunk transmitter, which begins at once at the trunk rate (R17, R135); the RESULT of a restart,
the first frame after it, at the rate in force before the restart (R141, R162). -/
def State.giveTrunk (s : State) (src : TxSource) : State :=
  { s with trunk := { s.trunk with tx := .sending src (s.trunk.keptRate.getD s.trunk.rate) s.now, keptRate := none } }

/-- The lowest address in the notice set (R130): entries stand in ascending order. -/
def State.noticeHead (s : State) : Option Station := s.stations.find? (fun st => st.noticePending)

/-- The routine head given; the run starts again (R133). -/
def State.giveRoutine (s : State) (b : BufId) (rest : List BufId) : State :=
  State.giveTrunk { s with upstream := { s.upstream with routine := rest, run := 0 } } (.pool b)

/-- The urgent head given (R133). -/
def State.giveUrgent (s : State) (b : BufId) (rest : List BufId) : State :=
  State.giveTrunk { s with upstream := { s.upstream with urgent := rest, run := bumpRun s.upstream.run } } (.pool b)

/-- A STATE report built for a station and given (R134). -/
def State.giveState (s : State) (st : Station) : State :=
  let content := stateFrame s.settings.ownAddress s.upstream.report st.address st.liveness.code (num8 st.miss)
  let s := s.mapStation st.address (fun x => { x with noticePending := false })
  State.giveTrunk
    { s with
      upstream := { s.upstream with
        notice := some content, report := s.upstream.report + 1, run := bumpRun s.upstream.run } } .notice

/-- The arbiter's choice (R131, R132), made only while the trunk transmitter is idle. -/
def State.arbitrate (s : State) : State :=
  if s.trunk.tx ≠ .idle then s else
  match s.upstream.routine, s.upstream.urgent, s.noticeHead with
  | r :: rest, u :: us, _ => if s.settings.urgentLimit ≤ s.upstream.run then s.giveRoutine r rest else s.giveUrgent u us
  | r :: rest, [], some st => if s.settings.urgentLimit ≤ s.upstream.run then s.giveRoutine r rest else s.giveState st
  | r :: rest, [], none => s.giveRoutine r rest
  | [], u :: us, _ => s.giveUrgent u us
  | [], [], some st => s.giveState st
  | [], [], none => s

end Sys2Proof.Machine
end

