-- ==== Sys2Proof/Machine/Exchanges.lean ====
section
/-! DEFINITION. The ends of an exchange (R120 to R123), with or without an answer; its entry to DEFERRED (R110); and
the closing of all of a drop's work at a fault or a disable (R91). -/

namespace Sys2Proof.Machine

/-- The exchange stands in its drop's in-service slot (R72). -/
def Exchange.inService (e : Exchange) : Bool := e.state = .sending || e.state = .awaiting || e.state = .fetching

/-- Attempts used, as a CLOSURE reports them (R122). -/
def Exchange.attemptsUsed (e : Exchange) : Nat := if e.state = .queued then 0 else e.attempts

/-- The in-service slot emptied and its hold released (R28). -/
def State.leaveService (s : State) (d : DropId) (b : BufId) : State :=
  (s.mapDrop d (fun x => { x with service := none, expiryHeld := false })).release b

/-- The exchange's item taken out of its drop's queue and its hold released; the items that stay keep their order
(R75). -/
def State.leaveQueue (s : State) (d : DropId) (t : Tag) (b : BufId) : State :=
  (s.mapDrop d (fun x => { x with queue := x.queue.filter (fun it => it.work ≠ .exchange t) })).release b

/-- The hold an open exchange has beside its request slot given up (R28). -/
def State.endDropHold (s : State) (t : Tag) (e : Exchange) : State :=
  match e.state with
  | .queued => s.leaveQueue e.drop t e.buffer
  | .sending => s.leaveService e.drop e.buffer
  | .awaiting => s.leaveService e.drop e.buffer
  | .fetching => s.leaveService e.drop e.buffer
  | .deferred => s
  | .fetchDue => s

/-- The running fields a closure without answer moves (R45, R123). -/
def Station.closed (st : Station) (threshold : Nat) (r : ClosureReason) : Station :=
  match r with
  | .silent => { st.setMiss threshold (bumpMiss st.miss) with failed := bump st.failed }
  | .fetchLimit => { st.setMiss threshold (bumpMiss st.miss) with failed := bump st.failed }
  | .dropDisabled => { st with failed := bump st.failed }
  | .dropFault => { st with failed := bump st.failed }
  | .stationDown => st
  | .cancelled => st
  | .removed => st

/-- Closure without answer (R120, R122): the request buffer becomes a CLOSURE held by its upstream queue position
alone, the counts move, the record is freed. -/
def State.closeExchange (s : State) (t : Tag) (r : ClosureReason) : State :=
  match s.exchange t with
  | none => s
  | some e =>
    let s := s.write e.buffer (closureFrame e.station e.seq r e.attemptsUsed e.fetches)
    let s := (s.hold e.buffer).queueUp e.cls e.buffer
    let s := (s.release e.buffer).endDropHold t e
    let s := s.mapStation e.station (fun st => st.closed s.settings.downThreshold r)
    s.putExchange t none

/-- Closure by answer (R121): the ANSWER in `b` goes upstream with its SRC the network address, the request buffer is
released by every place, the done count rises, the record is freed. -/
def State.closeByAnswer (s : State) (t : Tag) (b : BufId) : State :=
  match s.exchange t with
  | none => s
  | some e =>
    let s := s.write b (rewriteSrc (s.content b) e.station)
    let s := (s.release e.buffer).endDropHold t e
    let s := s.queueUp e.cls b
    let s := s.mapStation e.station (fun st => { st with done := bump st.done })
    s.putExchange t none

/-- Entry to DEFERRED (R110): the deadline is the fetch interval from now, the in-service slot lets the buffer go. -/
def State.deferExchange (s : State) (t : Tag) : State :=
  match s.exchange t with
  | none => s
  | some e =>
    let interval := ((s.station e.station).map Station.fetchInterval).getD 0
    let s := s.putExchange t
      (some { e with state := .deferred, deadline := some (s.now + fetchTime interval), limit := none })
    s.leaveService e.drop e.buffer

/-- The exchange in service on a drop, if any: its tag. -/
def Drop.serving (x : Drop) : Option Tag :=
  match x.service with
  | some { work := .exchange t, .. } => some t
  | some { work := .notice _, .. } => none
  | none => none

/-- One queue item closed or discarded at a fault or disable (R91). -/
def State.clearItem (r : ClosureReason) (s : State) (it : Item) : State :=
  match it.work with
  | .exchange t => s.closeExchange t r
  | .notice _ => s.release it.buffer

/-- Every exchange of a drop closed and every notice of it discarded, in the order of R91; the exchange in service may
close with a reason of its own (R29). -/
def State.closeWork (s : State) (d : DropId) (inService rest : ClosureReason) : State :=
  let s := match (s.dropUnit d).serving with
    | some t => s.closeExchange t inService
    | none => s
  let s := (s.dropUnit d).queue.foldl (State.clearItem rest) s
  let s := s.mapDrop d (fun x => { x with queue := [] })
  (s.offLine d).foldl (fun s t => s.closeExchange t rest) s

end Sys2Proof.Machine
end

