-- ==== Sys2Proof/Machine/DropUnit.lean ====
section
/-! DEFINITION. The drop line unit (Drop Line Service): its choice of work, its sending, its windows and guard, its
fault, disable and enable. -/

namespace Sys2Proof.Machine

/-- The receiver held in HUNT (R15): a frame being assembled is abandoned, counted only on entry to SENDING. -/
def State.holdReceiver (s : State) (d : DropId) (counted : Bool) : State :=
  if (s.dropUnit d).rx.state = .assemble then
    (if counted then s.countBroken (.drop d) else s).dropFrame (.drop d) .hunt
  else s.setRx (.drop d) Receiver.idle

/-- SENDING entered with a frame for the transmitter: the receiver is held, the break measure stops (R15, R17, R90). -/
def State.startSending (s : State) (d : DropId) (src : TxSource) : State :=
  (s.holdReceiver d true).mapDrop d
    (fun x => { x with line := .sending, tx := .sending src x.rate s.now, breakSince := none })

/-! ### Choosing work (R76 to R81) -/

/-- The older of two FETCH DUE exchanges; of two that expired at one moment, the first given (R77, R112). -/
def State.older (s : State) (d : DropId) (best : Option Tag) (t : Tag) : Option Tag :=
  match s.exchange t with
  | none => best
  | some e =>
    if e.drop = d ∧ e.state = .fetchDue then
      match best.bind s.exchange with
      | none => some t
      | some b => if e.dueSince.getD 0 < b.dueSince.getD 0 then some t else best
    else best

/-- The fetch candidate: the oldest FETCH DUE exchange of the drop, the lower tag of two that expired together (R77). -/
def State.fetchCandidate (s : State) (d : DropId) : Option Tag := (List.finRange 16).foldl (s.older d) none

/-- A fetch candidate taken into service and its FETCH sent (R80, R113). -/
def State.startFetch (s : State) (d : DropId) (t : Tag) : State :=
  match s.exchange t with
  | none => s
  | some e =>
    let s := s.putExchange t (some { e with state := .fetching, deadline := none, dueSince := none })
    let s := s.hold e.buffer
    let s := s.mapDrop d
      (fun x => { x with service := some { work := .exchange t, cls := e.cls, buffer := e.buffer }, alternation := .fetch })
    s.startSending d (.fetch (fetchFrame (s.lineAddressOf e.station) e.seq))

/-- The frame in a buffer readdressed to the line address of a station (R79, R81). -/
def State.readdress (s : State) (b : BufId) (a : Byte) : State :=
  s.write b (rewriteDest (s.content b) (s.lineAddressOf a))

/-- The queue head taken into service and its request or notice sent (R77, R79, R81); a broadcast goes unchanged. -/
def State.startItem (s : State) (d : DropId) (it : Item) (rest : List Item) : State :=
  let s := s.mapDrop d (fun x => { x with queue := rest, service := some it, alternation := .queue })
  let s := match it.work with
    | .exchange t =>
      match s.exchange t with
      | none => s
      | some e => (s.putExchange t (some { e with state := .sending })).readdress it.buffer e.station
    | .notice dest => if dest = addrBroadcast then s else s.readdress it.buffer dest
  s.startSending d (.pool it.buffer)

/-- An IDLE drop's choice (R76, R77). A transmitter still sending the ABT of a restart delays it (log entry 10). -/
def State.chooseWork (s : State) (d : DropId) : State :=
  if (s.dropUnit d).line = .idle ∧ (s.dropUnit d).tx = .idle then
    match s.fetchCandidate d, (s.dropUnit d).queue with
    | none, [] => s
    | some t, [] => s.startFetch d t
    | none, it :: rest => s.startItem d it rest
    | some t, it :: rest =>
      match (s.dropUnit d).alternation with
      | .queue => s.startFetch d t
      | .fetch => s.startItem d it rest
  else s

/-- The pending rate applied (R78): the change falls due on the receiver and the measures (R3). -/
def State.applyRate (s : State) (d : DropId) : State :=
  match (s.dropUnit d).pendingRate with
  | none => s
  | some r =>
    if r = (s.dropUnit d).rate then s.mapDrop d (fun x => { x with pendingRate := none })
    else
      (s.holdReceiver d true).mapDrop d
        (fun x => { x with
          rate := r, pendingRate := none, lastChar := s.now, breakSince := x.breakSince.map (fun _ => s.now) })

/-- IDLE entered: the pending rate is applied, then the drop chooses (R76). -/
def State.enterIdle (s : State) (d : DropId) : State :=
  ((s.mapDrop d (fun x => { x with line := .idle })).applyRate d).chooseWork d

/-! ### Guard (R82, R89, R109) -/

/-- The request sent once more, as it stands in its buffer (R82, R109). -/
def State.retry (s : State) (d : DropId) (t : Tag) (e : Exchange) : State :=
  (s.putExchange t (some { e with state := .sending, attempts := e.attempts + 1, deadline := none })).startSending d
    (.pool e.buffer)

/-- The guard time ends (R89): a retry, a cancelled retry's closure, or IDLE. -/
def State.endGuard (s : State) (d : DropId) : State :=
  match (s.dropUnit d).serving with
  | none => s.enterIdle d
  | some t =>
    match s.exchange t with
    | none => s.enterIdle d
    | some e => if e.cancelPending then (s.closeExchange t .cancelled).enterIdle d else s.retry d t e

/-- A guard time entered with 4 character times already passed since the last character ends at once (R89). -/
def State.settleGuard (s : State) (d : DropId) : State :=
  if (s.dropUnit d).line = .guard ∧ (s.dropUnit d).lastChar + guardTime (s.dropUnit d).rate ≤ s.now then s.endGuard d
  else s

/-! ### The window (R79, R87, R103, R107, R113, R114) -/

/-- The window started at the EOF of a request or FETCH, its length and the limit read from the entry now. -/
def State.startWindow (s : State) (d : DropId) (t : Tag) (e : Exchange) : State :=
  let st := s.station e.station
  let deadline := s.now + windowTime ((st.map Station.window).getD 0)
  let e := match e.state with
    | .fetching => { e with deadline := some deadline, limit := st.map Station.fetchLimit }
    | _ => { e with state := .awaiting, deadline := some deadline, limit := st.map Station.retryLimit }
  (s.putExchange t (some e)).mapDrop d (fun x => { x with line := .listening, expiryHeld := false })

/-- What the expiry of its window makes of the exchange in service (R107, R114). -/
def State.expireExchange (s : State) (t : Tag) : State :=
  match s.exchange t with
  | none => s
  | some e =>
    if e.cancelPending then s.closeExchange t .cancelled
    else if e.state = .fetching then
      (if e.limit.getD 0 ≤ e.fetches then s.closeExchange t .fetchLimit else s.deferExchange t)
    else if e.attempts ≤ e.limit.getD 0 then s.putExchange t (some { e with deadline := none, limit := none })
    else s.closeExchange t .silent

/-- The expiry taken (R87): counted, the window stops, GUARD; then the exchange goes on, and the arbiter may choose. -/
def State.takeExpiry (s : State) (d : DropId) : State :=
  let s := s.mapDropCounters d (fun c => { c with timeouts := bump c.timeouts })
  let s := s.mapDrop d (fun x => { x with line := .guard, expiryHeld := false })
  let s := match (s.dropUnit d).serving with
    | some t => s.expireExchange t
    | none => s
  (s.settleGuard d).arbitrate

/-- A frame assembled in RECEIVING ended without a match (R83, R86, R87): LISTENING again, or the held expiry. -/
def State.afterFrame (s : State) (d : DropId) : State :=
  if (s.dropUnit d).line = .receiving then
    if (s.dropUnit d).expiryHeld then s.takeExpiry d else s.mapDrop d (fun x => { x with line := .listening })
  else s

/-! ### Matching (R84 to R86, R106) -/

/-- The four tests of the matching rule (R84). -/
def matchesReply (c : List Byte) (e : Exchange) (st : Station) : Bool :=
  srcOf c = st.lineAddress && destOf c = addrController && seqOf c = e.seq
    && (kindOf c = kindAnswer || (kindOf c = kindDefer && st.deferral))

/-- A stray counted and its buffer released (R86). -/
def State.stray (s : State) (d : DropId) (b : BufId) : State :=
  let s := (s.mapDropCounters d (fun c => { c with strays := bump c.strays })).release b
  s.afterFrame d

/-- What a matching DEFER makes of the exchange (R106). -/
def State.deferDecided (s : State) (t : Tag) : State :=
  match s.exchange t with
  | none => s
  | some e =>
    if e.cancelPending then s.closeExchange t .cancelled
    else if e.state = .fetching ∧ e.limit.getD 0 ≤ e.fetches then s.closeExchange t .fetchLimit
    else s.deferExchange t

/-- A match taken (R85): the miss count becomes 0, the window stops, the drop enters GUARD, and the reply decides. -/
def State.takeMatch (s : State) (d : DropId) (t : Tag) (e : Exchange) (b : BufId) : State :=
  let answer := kindOf (s.content b) = kindAnswer
  let s := s.mapStation e.station (fun st => st.setMiss s.settings.downThreshold 0)
  let s := s.mapDrop d (fun x => { x with line := .guard, expiryHeld := false })
  if answer then
    (s.mapDropCounters d (fun c => { c with answers := bump c.answers })).closeByAnswer t b
  else (s.release b).deferDecided t

/-- The exchange and entry a frame ending now on a drop would be matched against (R84): only in RECEIVING. -/
def State.awaited (s : State) (d : DropId) : Option (Tag × Exchange × Station) :=
  if (s.dropUnit d).line = .receiving then do
    let t ← (s.dropUnit d).serving
    let e ← s.exchange t
    let st ← s.station e.station
    return (t, e, st)
  else none

/-- The matching rule over a valid frame in buffer `b` (R84). -/
def State.matchFrame (s : State) (d : DropId) (b : BufId) : State :=
  match s.awaited d with
  | none => s.stray d b
  | some (t, e, st) =>
    if matchesReply (s.content b) e st then (s.takeMatch d t e b).arbitrate else s.stray d b

/-! ### Fault, disable, enable (R90 to R94) -/

/-- Entry to FAULT (R90): the work closes DROP FAULT, the marking measure starts at 0 with the line at space. -/
def State.enterFault (s : State) (d : DropId) : State :=
  let s := (s.holdReceiver d false).mapDrop d
    (fun x => { x with line := .fault, expiryHeld := false, breakSince := none, marking := .atSpace })
  s.closeWork d .dropFault .dropFault

/-- Entry to DISABLED (R93): the work closes DROP DISABLED, the exchange in service perhaps with a reason taken before
(R29). -/
def State.enterDisabled (s : State) (d : DropId) (inService : ClosureReason) : State :=
  let s := (s.holdReceiver d false).mapDrop d (fun x => { x with line := .disabled, expiryHeld := false })
  s.closeWork d inService .dropDisabled

/-- SET DROP with mode DISABLED (R93). -/
def State.disableDrop (s : State) (d : DropId) : State :=
  let s := s.mapDrop d (fun x => { x with mode := .disabled })
  match (s.dropUnit d).line with
  | .disabled => s
  | .fault => s
  | .sending => s
  | .idle => s.enterDisabled d .dropDisabled
  | .guard => s.enterDisabled d .dropDisabled
  | .listening => s.enterDisabled d .dropDisabled
  | .receiving => s.enterDisabled d .dropDisabled

/-- A removal taken after a disable is the first claim again once an enable withdraws the disable (R29, R94). -/
def Exchange.disableWithdrawn (e : Exchange) : Exchange :=
  match e.removal with
  | .waitingAfterDisable => { e with removal := .waiting }
  | .waiting => e
  | .none => e

/-- SET DROP with mode ENABLED (R94). -/
def State.enableDrop (s : State) (d : DropId) : State :=
  let s := s.mapDrop d (fun x => { x with mode := .enabled })
  match (s.dropUnit d).line with
  | .disabled => s.enterIdle d
  | .sending =>
    match (s.dropUnit d).serving with
    | some t => s.mapExchange t Exchange.disableWithdrawn
    | none => s
  | .fault => s
  | .idle => s
  | .guard => s
  | .listening => s
  | .receiving => s

/-- A rate from SET DROP (R78, R159): pending, and applied at once when the drop is IDLE. -/
def State.setPendingRate (s : State) (d : DropId) (r : Rate) : State :=
  let s := s.mapDrop d (fun x => { x with pendingRate := some r })
  if (s.dropUnit d).line = .idle then s.enterIdle d else s

/-! ### The end of a frame sent (R79 to R81, R88, R93, R103, R113) -/

/-- The reason with which the exchange in service closes at a disable's EOF: the claim taken first (R29). -/
def Exchange.eofReason (e : Exchange) : ClosureReason :=
  match e.removal with
  | .waiting => .removed
  | .waitingAfterDisable => .dropDisabled
  | .none => .dropDisabled

/-- The FETCH's EOF counts among the fetches (R113). -/
def Exchange.frameSent (e : Exchange) : Exchange :=
  if e.state = .fetching then { e with fetches := e.fetches + 1 } else e

/-- After the EOF of an exchange's frame: a waiting disable, then a waiting removal, then the window. -/
def State.exchangeSent (s : State) (d : DropId) (t : Tag) (e : Exchange) : State :=
  let e := e.frameSent
  let s := s.putExchange t (some e)
  if (s.dropUnit d).mode = .disabled then s.enterDisabled d e.eofReason
  else if e.removal ≠ .none then (s.closeExchange t .removed).mapDrop d (fun x => { x with line := .guard })
  else s.startWindow d t e

/-- After the EOF of a notice: its hold is released, and the drop enters GUARD or the waiting disable's DISABLED. -/
def State.noticeSent (s : State) (d : DropId) (b : BufId) : State :=
  let s := s.leaveService d b
  if (s.dropUnit d).mode = .disabled then s.enterDisabled d .dropDisabled
  else s.mapDrop d (fun x => { x with line := .guard })

/-- The EOF sent on a drop: counted, the transmitter idle, the break measure running if the line is at space. -/
def State.dropFrameSent (s : State) (d : DropId) : State :=
  let measured := s.image.config ≠ .loading
  let s := s.mapDropCounters d (fun c => { c with sent := bump c.sent })
  let s := s.mapDrop d (fun x => { x with
    tx := .idle, lastChar := s.now, breakSince := if x.rxSpace && measured then some s.now else none })
  match (s.dropUnit d).service with
  | none => s.mapDrop d (fun x => { x with line := .guard })
  | some it =>
    match it.work with
    | .notice _ => s.noticeSent d it.buffer
    | .exchange t =>
      match s.exchange t with
      | none => s.noticeSent d it.buffer
      | some e => s.exchangeSent d t e

end Sys2Proof.Machine
end

