-- ==== Sys2Proof/Machine/Stations.lean ====
section
/-! DEFINITION. Claims on the station table (R35 to R54): creating, changing and removing entries, the liveness test of
admission, and a change of the down threshold. -/

namespace Sys2Proof.Machine

/-- A new entry: the defaults of R36 and the running fields at their initial values (R47). -/
def Station.fresh (a : Byte) (d : DropId) : Station :=
  { address := a, drop := d, aliasAddr := none, cls := .routine, window := 20, retryLimit := 1, deferral := false,
    fetchInterval := 10, fetchLimit := 20, miss := 0, liveness := .present, probe := 0, noticePending := false,
    done := 0, failed := 0 }

/-- An entry put at its place in address order, in the place of an earlier one with the same address (R35, R178). -/
def insertStation (st : Station) : List Station → List Station
  | [] => [st]
  | x :: xs =>
    if st.address.toNat < x.address.toNat then st :: x :: xs
    else if st.address = x.address then st :: xs
    else x :: insertStation st xs

/-- The table with an entry put in. -/
def State.putStation (s : State) (st : Station) : State := { s with stations := insertStation st s.stations }

/-- Another entry on the entry's drop has its line address (R37). -/
def State.lineAddressTaken (s : State) (st : Station) : Bool :=
  s.stations.any (fun x => x.address ≠ st.address && x.drop = st.drop && x.lineAddress = st.lineAddress)

/-- A notice to the address stands in a drop queue. -/
def State.noticeQueued (s : State) (a : Byte) : Bool :=
  s.drops.any (fun x => x.queue.any (fun it => it.work = .notice a))

/-- The station is in use (R49): an exchange is open for it, or a notice to it stands in a drop queue. -/
def State.inUse (s : State) (a : Byte) : Bool := (s.openFor a).isSome || s.noticeQueued a

/-- Every entry's liveness derived anew under a threshold, in one step (R38). -/
def State.rederiveAll (s : State) (threshold : Nat) : State :=
  { s with stations := s.stations.map (fun st => st.rederive threshold) }

/-- WRITE STATION naming an address with no entry (R47). -/
def State.createStation (s : State) (a : Byte) (f : StationFields) : State × ResultCode :=
  if !stationAddress a || a = s.settings.ownAddress || s.mgmt.pendingAddress = some a then (s, .badArgument)
  else if Config.tableRoom ≤ s.stations.length then (s, .tableFull)
  else if f.drop.isNone || !f.requestGood then (s, .badArgument)
  else
    let st := f.applyTo (Station.fresh a 0)
    if s.lineAddressTaken st then (s, .badArgument)
    else if (s.openFor a).isSome then (s, .inUse)
    else (s.putStation st, .done)

/-- The counts a WRITE STATION sets to 0 (R50); a miss count set derives the liveness anew. -/
def StationFields.clearCounts (f : StationFields) (threshold : Nat) (st : Station) : Station :=
  let st := if f.miss.isSome then st.setMiss threshold 0 else st
  let st := if f.done.isSome then { st with done := 0 } else st
  if f.failed.isSome then { st with failed := 0 } else st

/-- WRITE STATION naming an address with an entry (R48, R49). -/
def State.changeStation (s : State) (old : Station) (f : StationFields) : State × ResultCode :=
  let st := f.applyTo old
  if !f.requestGood then (s, .badArgument)
  else if s.lineAddressTaken st then (s, .badArgument)
  else if (st.drop ≠ old.drop || st.lineAddress ≠ old.lineAddress) && s.inUse old.address then (s, .inUse)
  else (s.mapStation old.address (fun x => f.clearCounts s.settings.downThreshold (f.applyTo x)), .done)

/-- WRITE STATION (R156). -/
def State.writeStation (s : State) (a : Byte) (f : StationFields) : State × ResultCode :=
  match s.station a with
  | none => s.createStation a f
  | some old => s.changeStation old f

/-- The station's exchange closed REMOVED, at once or at the EOF of the frame being sent (R88, R118). -/
def State.forceClose (s : State) (t : Tag) (e : Exchange) : State :=
  if e.inService = false then s.closeExchange t .removed
  else if (s.dropUnit e.drop).line = .sending then
    let r := match e.removal with
      | .none => if (s.dropUnit e.drop).mode = .disabled then .waitingAfterDisable else .waiting
      | r => r
    s.putExchange t (some { e with removal := r })
  else (s.closeExchange t .removed).mapDrop e.drop (fun x => { x with line := .guard })

/-- The notice items to an address taken out of one drop's queue, their holds released in queue order (R157). -/
def State.dropNotices (a : Byte) (s : State) (d : DropId) : State :=
  let out := (s.dropUnit d).queue.filter (fun it => it.work = .notice a)
  let s := s.mapDrop d (fun x => { x with queue := x.queue.filter (fun it => it.work ≠ .notice a) })
  out.foldl (fun s it => s.release it.buffer) s

/-- An entry taken out of the table (R51). -/
def State.eraseStation (s : State) (a : Byte) : State :=
  { s with stations := s.stations.filter (fun st => st.address ≠ a) }

/-- REMOVE STATION (R51, R157). A GUARD that the closure newly enters with the line already quiet ends at the end of the
step, after the entry has gone (R89; log entry 13). -/
def State.removeStation (s : State) (a : Byte) (force : Bool) : State × ResultCode :=
  match s.station a with
  | none => (s, .noSuchStation)
  | some st =>
    if force then
      let inGuard := (s.dropUnit st.drop).line = .guard
      let s := match s.openFor a with
        | none => s
        | some t =>
          match s.exchange t with
          | none => s
          | some e => s.forceClose t e
      let s := (List.finRange 4).foldl (State.dropNotices a) s
      let s := s.eraseStation a
      (if inGuard then s else s.settleGuard st.drop, .done)
    else if s.inUse a then (s, .inUse)
    else (s.eraseStation a, .done)

/-- What the liveness test decides (R43). -/
inductive LivenessTest where
  | passes
  | probe
  | fastFail
deriving DecidableEq, Repr

/-- The table's decision for a REQUEST that reaches the liveness test (R43). -/
def Station.livenessTest (st : Station) (ratio : Nat) : LivenessTest :=
  if st.liveness = .down then (if ratio - 1 ≤ st.probe then .probe else .fastFail) else .passes

/-- The probe count after the test (R43). -/
def Station.probed (st : Station) (ratio : Nat) : Station :=
  match st.livenessTest ratio with
  | .passes => st
  | .probe => { st with probe := 0 }
  | .fastFail => { st with probe := st.probe + 1 }

end Sys2Proof.Machine
end

