-- ==== Sys2Proof/Machine/Image.lean ====
section
/-! DEFINITION. The image unit (R169 to R190): the load, record by record, and the store, write by write. -/

namespace Sys2Proof.Machine

/-! ### Rates falling due on the trunk (R3, R161, R180) -/

/-- A trunk rate falls due: the trunk receiver abandons a frame being assembled; the transmitter finishes its frame at
the rate it began (R3). A rate equal to the one in force is no change (log entry 12). -/
def State.trunkRateDue (s : State) (r : Rate) : State :=
  if r = s.trunk.rate then s
  else
    let s := if s.trunk.rx.state = .assemble then (s.countBroken .trunk).dropFrame .trunk .hunt
      else s.setRx .trunk Receiver.idle
    { s with trunk := { s.trunk with rate := r } }

/-! ### The records (R176 to R179) -/

/-- The image unit's load changed. -/
def State.putLoad (s : State) (l : Load) : State := { s with image := { s.image with load := some l } }

/-- A record skipped (R172). -/
def State.skipRecord (s : State) : State :=
  { s with image := { s.image with skipped := bumpSkipped s.image.skipped } }

/-- Bytes of the image read: the position moves on and they enter the check (R176). -/
def Load.read (l : Load) (bs : List Byte) : Load :=
  { l with position := l.position + bs.length, left := l.left - bs.length, check := checkBytes l.check bs }

/-- A load reading records, if one is. -/
def State.recordLoad (s : State) : Option Load :=
  match s.image.config, s.image.load with
  | .loading, some l => if l.phase = .records then some l else none
  | .loading, none => none
  | .ready, _ => none
  | .storing, _ => none

/-- The rest of the records length read for the check, and the records stopped (R176). -/
def State.stopRecords (s : State) (l : Load) (bs : List Byte) : State :=
  s.putLoad { l.read (bs.take l.left) with phase := .check }

/-- A whole record read and acted on; one that would run beyond the records length is truncated instead (R176). With
the records length used up there is no record (log entry 8). -/
def State.takeRecord (s : State) (type : Byte) (fields : List Byte) (act : State → Load → State) : State :=
  match s.recordLoad with
  | none => s
  | some l =>
    let bytes := type :: Byte.ofNat fields.length :: fields
    if l.left = 0 then s
    else if l.left < bytes.length then s.skipRecord.stopRecords l bytes
    else
      let l := l.read bytes
      act (s.putLoad l) l

/-- The fields a SETTINGS record selects, staged over what was staged before (R177). -/
def Staged.merge (g : Staged) (f : SettingsFields) : Staged :=
  { ownAddress := f.ownAddress.or g.ownAddress
    trunkRate := (f.trunkRate.map rateOf).or g.trunkRate
    refuseUnknown := (f.refuseUnknown.map flagOf).or g.refuseUnknown
    downThreshold := (f.downThreshold.map BitVec.toNat).or g.downThreshold
    probeRatio := (f.probeRatio.map BitVec.toNat).or g.probeRatio
    urgentLimit := (f.urgentLimit.map BitVec.toNat).or g.urgentLimit }

/-- A SETTINGS record judged whole (R177): its fields, or `none` to skip it. -/
def State.judgeSettings (s : State) (fields : List Byte) : Option SettingsFields :=
  match fields with
  | [] => none
  | mask :: vals =>
    let f := settingsFields mask.toNat vals
    if mask.toNat < 64 ∧ vals.length = bitsBelow mask.toNat 6 ∧ f.codesGood ∧ f.quantitiesGood
        ∧ f.ownAddress.all (fun a => (s.station a).isNone) then some f
    else none

def State.actSettings (fields : List Byte) (s : State) (l : Load) : State :=
  match s.judgeSettings fields with
  | none => s.skipRecord
  | some f => s.putLoad { l with staged := l.staged.merge f }

/-- A DROP record (R179): its drop's mode and pending rate, or skipped. -/
def State.actDrop (fields : List Byte) (s : State) (_l : Load) : State :=
  match fields with
  | [drop, mode, rate] =>
    if isDrop drop ∧ isFlag mode ∧ isRate rate then
      s.mapDrop (dropOf drop) (fun x => { x with mode := modeOf mode, pendingRate := some (rateOf rate) })
    else s.skipRecord
  | _ => s.skipRecord

/-- A STATION record judged against the table as loaded so far (R178): the entry it makes, or `none` to skip it. -/
def State.judgeStation (s : State) (l : Load) (fields : List Byte) : Option Station :=
  match fields with
  | address :: mask :: vals =>
    let f := stationFields mask.toNat vals
    let st := f.applyTo (Station.fresh address 0)
    if vals.length = bitsBelow mask.toNat 8 ∧ stationAddress address ∧ address ≠ s.settings.ownAddress
        ∧ l.staged.ownAddress ≠ some address ∧ f.drop.isSome ∧ f.recordGood
        ∧ (s.stations.length < Config.tableRoom ∨ (s.station address).isSome) ∧ s.lineAddressTaken st = false
    then some st else none
  | _ => none

def State.actStation (fields : List Byte) (s : State) (l : Load) : State :=
  match s.judgeStation l fields with
  | none => s.skipRecord
  | some st => s.putStation st

/-! ### The end of the load (R180) -/

/-- READY entered from a load: each ENABLED drop enters IDLE, every drop's break measure starts (R98, R180). -/
def State.releaseDrop (s : State) (d : DropId) : State :=
  let s := s.mapDrop d (fun x => { x with breakSince := if x.rxSpace then some s.now else none })
  if (s.dropUnit d).mode = .enabled then s.enterIdle d else s

/-- The load ends with a result: the state becomes READY and the drops are released. -/
def State.finishLoad (s : State) (r : LoadResult) : State :=
  let s := { s with image := { s.image with config := .ready, result := r, load := none } }
  (List.finRange 4).foldl State.releaseDrop s

/-- A load that fails reverts what it applied (R180). -/
def State.failLoad (s : State) (r : LoadResult) : State :=
  let s := { s with
    stations := [], drops := s.drops.map (fun (x : Drop) => { x with mode := .disabled, pendingRate := none }) }
  s.finishLoad r

/-- The staged settings in force (R180). -/
def Staged.applyTo (g : Staged) (x : Settings) : Settings :=
  { ownAddress := g.ownAddress.getD x.ownAddress
    refuseUnknown := g.refuseUnknown.getD x.refuseUnknown
    downThreshold := g.downThreshold.getD x.downThreshold
    probeRatio := g.probeRatio.getD x.probeRatio
    urgentLimit := g.urgentLimit.getD x.urgentLimit }

/-- A load that ends LOADED: the staged settings take effect, then READY (R180). -/
def State.succeedLoad (s : State) (g : Staged) : State :=
  let s := { s with settings := g.applyTo s.settings }
  let s := s.rederiveAll s.settings.downThreshold
  let s := s.trunkRateDue (g.trunkRate.getD s.trunk.rate)
  s.finishLoad .loaded

/-- The header judged (R175, R190). -/
def State.judgeHeader (s : State) (l : Load) (bytes : List Byte) : State :=
  match bytes with
  | [m0, m1, version, lengthHigh, lengthLow] =>
    let n := lengthHigh.toNat * 256 + lengthLow.toNat
    if m0 = 0x57#8 ∧ m1 = 0x42#8 ∧ version = 0x01#8 ∧ n ≤ Config.maxRecords then
      s.putLoad { l.read bytes with phase := .records, left := n }
    else s.failLoad .badImage
  | _ => s

/-- The check read and compared (R176, R180). -/
def State.judgeCheck (s : State) (l : Load) (high low : Byte) : State :=
  if l.check.high = high ∧ l.check.low = low then s.succeedLoad l.staged else s.failLoad .badImage

/-! ### The store (R182 to R185) -/

/-- The SETTINGS record a store writes: all six fields (R182). -/
def State.settingsRecordBytes (s : State) : List Byte :=
  [typeSettings, 0x07#8, 0x3F#8, s.settings.ownAddress, rateCode s.trunk.rate, boolCode s.settings.refuseUnknown,
    num8 s.settings.downThreshold, num8 s.settings.probeRatio, num8 s.settings.urgentLimit]

/-- The DROP record of a drop: its pending rate if it has one, otherwise its rate (R182). -/
def State.dropRecordBytes (s : State) (d : DropId) : List Byte :=
  let x := s.dropUnit d
  [typeDrop, 0x03#8, Byte.ofNat d.val, x.mode.code, rateCode (x.pendingRate.getD x.rate)]

/-- The STATION record of an entry (R182): the alias only where it has one. -/
def Station.recordBytes (st : Station) : List Byte :=
  let rest := [st.cls.code, num8 st.window, num8 st.retryLimit, boolCode st.deferral, num8 st.fetchInterval,
    num8 st.fetchLimit]
  match st.aliasAddr with
  | none => [typeStation, 0x09#8, st.address, 0xFD#8, Byte.ofNat st.drop.val] ++ rest
  | some a => [typeStation, 0x0A#8, st.address, 0xFF#8, Byte.ofNat st.drop.val, a] ++ rest

/-- The END record a store writes. -/
def endRecordBytes : List Byte := [typeEnd, 0x00#8]

/-- The records of the store image, in order (R182). -/
def State.imageRecords (s : State) : List Byte :=
  s.settingsRecordBytes ++ (List.finRange 4).flatMap s.dropRecordBytes ++ s.stations.flatMap Station.recordBytes
    ++ endRecordBytes

/-- The whole image: header, records, check (The Image, R182). -/
def State.storeImage (s : State) : List Byte :=
  let records := s.imageRecords
  withCheck ([0x57#8, 0x42#8, 0x01#8] ++ num16 records.length ++ records)

/-- The page write of page `n`: the bytes of addresses 16n to 16n + 15, from address 2 on (R183). -/
def pageWrite (image : List Byte) (n : Nat) : Nat × List Byte :=
  let first := max 2 (16 * n)
  (first, (image.drop first).take (16 * n + 16 - first))

/-- The writes of a store in order: the invalid magic, the pages, the true magic (R183). -/
def storeWrites (image : List Byte) : List (Nat × List Byte) :=
  (0, [0x00#8, 0x00#8]) :: (List.range ((image.length + 15) / 16)).map (pageWrite image)
    ++ [(0, [0x57#8, 0x42#8])]

/-- The write under way. -/
def Store.current (x : Store) : Nat × List Byte := ((storeWrites x.image)[x.position]?).getD (0, [])

/-- The bytes of a write as the memory takes them. -/
def State.takeWrite (s : State) (w : Nat × List Byte) : State := { s with memory := writeCells s.memory w.1 w.2 }

/-- How a transfer on the memory port fails (R170): its device select stays unacknowledged for 10 ms of polling, or an
address or data byte is not acknowledged. -/
inductive PortFailure where
  | polling
  | byte
deriving DecidableEq, Repr

/-- The most bytes of a failed write that the memory can have taken (R184): all of them where the polling after the
write failed, and not all of them where one of its own bytes was not acknowledged. -/
def PortFailure.most (f : PortFailure) (data : List Byte) : Nat :=
  match f with
  | .polling => data.length
  | .byte => data.length - 1

/-- A failed write: the memory took a leading part of it that the data book leaves open (R184). FREE VALUE, log entry
6. -/
def State.takePart (s : State) (f : PortFailure) (w : Nat × List Byte) : State :=
  let s := s.takeWrite (w.1, w.2.take (min (Config.bytesTaken s.chance) (f.most w.2)))
  { s with chance := s.chance + 1 }

/-- A RESULT written in the replay slot's buffer and handed to the urgent queue (R143). -/
def State.handResult (s : State) (seq : Byte) (b : BufId) (code : ResultCode) (op : Byte) (data : List Byte) : State :=
  ((s.write b (resultFrame s.settings.ownAddress seq code.code op data)).hold b).queueUp .urgent b

/-- The store ends (R163, R185): READY, the store state, and the RESULT if the slot still holds the request. -/
def State.endStore (s : State) (ok : Bool) : State :=
  let s := { s with
    image := { s.image with config := .ready, store := none },
    mgmt := { s.mgmt with store := if ok then .done else .failed } }
  match s.mgmt.slot with
  | .inFlight seq b true =>
    let s := { s with mgmt := { s.mgmt with slot := .inFlight seq b false } }
    s.handResult seq b (if ok then .done else .storeFailed) opStoreImage []
  | .inFlight _ _ false => s
  | .held _ _ => s
  | .empty => s

/-- The operation on the memory port fails (R170, R175, R180, R184). -/
def State.portFails (s : State) (f : PortFailure) : State :=
  match s.image.config, s.image.load, s.image.store with
  | .loading, some l, _ => s.failLoad (if l.phase = .header then .noImage else .badImage)
  | .storing, _, some x => (s.takePart f x.current).endStore false
  | .loading, none, _ => s
  | .storing, _, none => s
  | .ready, _, _ => s

end Sys2Proof.Machine
end

