-- ==== Sys2Proof/Machine/Restart.lean ====
section
/-! DEFINITION. The three restarts: cold reset (R16, R34, R53, R96, R139, R168, R171, R174), warm restart (R165) and
reload (R166). -/

namespace Sys2Proof.Machine

/-- A transmitter at a restart (R20): one that is sending finishes the character in progress, the one under way at `now`,
and then sends ABT. DESIGN CHOICE, log entry 21: a transmitter that still sends the ABT of an earlier restart goes on and
sends no second one, and where the EOF is in progress it is finished and followed by ABT. -/
def State.cutOff (s : State) : Transmitter → Transmitter
  | .idle => .idle
  | .sending src r began =>
    let chars := lineCharacters (s.sourceContent src)
    let k := min ((s.now - began) / charTime r) (chars.length - 1)
    .aborting (chars.getD k codeEof) r (began + k * charTime r)
  | .aborting last r began => .aborting last r began

/-- A drop at a warm restart (R97), its transmitter cut off already and its rate not yet settled. -/
def Drop.warm (now : Nat) (x : Drop) : Drop :=
  { x with
    queue := [], service := none, rx := Receiver.idle, expiryHeld := false,
    alternation := .queue,
    line := match x.line with
      | .fault => .fault
      | _ => if x.mode = .enabled then .idle else .disabled
    breakSince := if x.line = .fault then none else if x.rxSpace then some now else none }

/-- A drop at a reload (R98), its transmitter cut off already. -/
def Drop.reloaded (x : Drop) : Drop :=
  { x with
    mode := .disabled, line := .disabled, queue := [], service := none, pendingRate := none, alternation := .queue,
    rx := Receiver.idle, expiryHeld := false, breakSince := none, marking := .stopped }

/-- The station whose STATE report is being sent, if the trunk transmitter sends one. -/
def State.stateInFlight (s : State) : Option Byte :=
  match s.trunk.tx with
  | .sending .notice _ _ => s.upstream.notice.map (fun c => byteAt c 5)
  | .sending (.pool _) _ _ => none
  | .sending (.fetch _) _ _ => none
  | .idle => none
  | .aborting _ _ _ => none

/-- Steps 1 to 4 of R165, which both restarts take: the frames being sent cut off, the trunk's receiver in HUNT, the exchanges
discarded (R126), the upstream queues and the notice buffer emptied (R140), the slot emptied, the pending settings
discarded and the trunk rate in force kept for the RESULT (R141, R162), the pool rebuilt (R34). -/
def State.restartCore (s : State) : State :=
  { s with
    pool := Pool.cold
    exchanges := Vector.replicate 16 none
    trunk := { s.trunk with keptRate := some s.trunk.rate, rx := Receiver.idle, tx := s.cutOff s.trunk.tx }
    drops := s.drops.map (fun (x : Drop) => { x with tx := s.cutOff x.tx })
    upstream := { s.upstream with urgent := [], routine := [], notice := none, run := 0 }
    mgmt := { s.mgmt with slot := .empty, pendingAddress := none, pendingRate := none } }

/-- The head of the rebuilt pool taken for the restart's RESULT (R34): held by the urgent queue position. -/
def State.restartResult (s : State) (seq : Byte) (kind : RestartKind) : State :=
  match s.pool.take with
  | none => s
  | some (b, p) =>
    let s := { s with pool := p }
    (s.write b (resultFrame s.settings.ownAddress seq ResultCode.done.code opRestart [kind.code])).queueUp .urgent b

/-- An IDLE drop applies its pending rate at a warm restart (R97); it finds nothing to choose. -/
def State.warmDrop (s : State) (d : DropId) : State :=
  let s := s.mapDrop d (Drop.warm s.now)
  if (s.dropUnit d).line = .idle then s.applyRate d else s

/-- RESTART WARM (R165): a STATE report cut off puts its station back in the notice set (R140), and the RESULT in
buffer 0 is held by its queue position and by the replay slot. -/
def State.restartWarm (s : State) (seq : Byte) : State :=
  let s := match s.stateInFlight with
    | some a => s.mapStation a (fun st => { st with noticePending := true })
    | none => s
  let s := (List.finRange 4).foldl State.warmDrop s.restartCore
  let s := (s.restartResult seq .warm).hold 0
  { s with mgmt := { s.mgmt with slot := .inFlight seq 0 false } }

/-- RESTART RELOAD (R166): the table emptied, the drops DISABLED, the settings at their defaults but for the own
address and trunk rate (R174), LOADING, and the RESULT held by its queue position alone. -/
def State.restartReload (s : State) (seq : Byte) : State :=
  let s := s.restartCore
  let s := { s with
    stations := []
    drops := s.drops.map Drop.reloaded
    upstream := { s.upstream with report := 0#8 }
    settings := { Settings.cold with ownAddress := s.settings.ownAddress }
    image := ImageUnit.cold }
  s.restartResult seq .reload

/-- RESTART of a kind. -/
def State.restart (s : State) (seq : Byte) : RestartKind → State
  | .warm => s.restartWarm seq
  | .reload => s.restartReload seq

/-- What a cold reset leaves of a write under way (R186): taken whole if it had reached its stop, otherwise not at all.
FREE VALUE, log entry 6. -/
def State.cutOffWrite (s : State) : State :=
  match s.image.store with
  | none => s
  | some x =>
    let s' := if Config.writeReachedStop s.chance then s.takeWrite x.current else s
    { s' with chance := s.chance + 1 }

/-- A drop after a cold reset keeps only its line's level, which is outside the part. -/
def Drop.coldReset (x : Drop) : Drop := { Drop.cold with rxSpace := x.rxSpace }

/-- COLD RESET with the straps as sampled (R2, R171): every block in its cold state. The serial memory, the lines'
levels and the time are not the part's to reset. -/
def State.coldReset (s : State) (straps : Rate) : State :=
  let s := s.cutOffWrite
  { s with
    pool := Pool.cold
    stations := []
    exchanges := Vector.replicate 16 none
    drops := s.drops.map Drop.coldReset
    trunk := { rate := straps, keptRate := none, rx := Receiver.idle, tx := .idle, counters := TrunkCounters.zero }
    upstream := Upstream.cold
    settings := Settings.cold
    mgmt := Management.cold
    image := ImageUnit.cold }

end Sys2Proof.Machine
end

