-- ==== Sys2Proof/Machine/MemoryPort.lean ====
section
/-! DEFINITION. The memory-port family of commands and the cold reset (R169 to R186). A command of the port is taken
only while the load or store it belongs to runs and has come to that point (log entry 8). -/

namespace Sys2Proof.Machine

/-- COLD_RESET (R171). -/
def execColdReset (straps : Rate) (s : State) : Host.Outcome State Fault Refusal := .next (s.coldReset straps)

/-- MEMORY_POLL_TIMEOUT (R170). -/
def execMemoryPollTimeout (s : State) : Host.Outcome State Fault Refusal :=
  .next (s.portFails .polling).arbitrate

/-- MEMORY_BYTE_NOT_ACKNOWLEDGED (R170): it ends the operation in the same way as a polling failure, but that the write
it belongs to is not taken whole (R184). -/
def execMemoryByteNotAcknowledged (s : State) : Host.Outcome State Fault Refusal :=
  .next (s.portFails .byte).arbitrate

/-- LOAD_HEADER_READ (R175). -/
def execLoadHeaderRead (m0 m1 version lengthHigh lengthLow : Byte) (s : State) : Host.Outcome State Fault Refusal :=
  .next (match s.image.config, s.image.load with
    | .loading, some l =>
      if l.phase = .header then s.judgeHeader l [m0, m1, version, lengthHigh, lengthLow] else s
    | _, _ => s)

/-- SETTINGS_RECORD (R177). -/
def execSettingsRecord (fields : List Byte) (s : State) : Host.Outcome State Fault Refusal :=
  .next (s.takeRecord typeSettings fields (State.actSettings fields))

/-- DROP_RECORD (R179). -/
def execDropRecord (fields : List Byte) (s : State) : Host.Outcome State Fault Refusal :=
  .next (s.takeRecord typeDrop fields (State.actDrop fields))

/-- STATION_RECORD (R178). -/
def execStationRecord (fields : List Byte) (s : State) : Host.Outcome State Fault Refusal :=
  .next (s.takeRecord typeStation fields (State.actStation fields))

/-- UNKNOWN_RECORD (R176, R190): stepped over and counted skipped. -/
def execUnknownRecord (type : Byte) (fields : List Byte) (s : State) : Host.Outcome State Fault Refusal :=
  .next (s.takeRecord type fields (fun s _ => s.skipRecord))

/-- END_RECORD (R176): the records stop; the bytes after the END are read for the check alone. An END with no room left
for its length byte is truncated, and so counted skipped (log entry 15). DESIGN CHOICE, log entry 18: an END whose bytes do
not fill the bytes left is believed all the same, and the records stop with the rest unread. -/
def execEndRecord (rest : List Byte) (s : State) : Host.Outcome State Fault Refusal :=
  .next (match s.recordLoad with
    | none => s
    | some l => (if l.left = 1 then s.skipRecord else s).stopRecords l (typeEnd :: rest))

/-- TRUNCATED_RECORD (R176): skipped and counted, and the records stop. With the records length used up there is no
record (log entry 8). DESIGN CHOICE, log entry 18: the command is believed although its bytes do not fill the bytes left,
or make a whole record or an END. -/
def execTruncatedRecord (bytes : List Byte) (s : State) : Host.Outcome State Fault Refusal :=
  .next (match s.recordLoad with
    | none => s
    | some l => if l.left = 0 then s else s.skipRecord.stopRecords l bytes)

/-- LOAD_END (R176, R180): the check compared, once the records have stopped or the records length is used up. -/
def execLoadEnd (checkHigh checkLow : Byte) (s : State) : Host.Outcome State Fault Refusal :=
  .next (match s.image.config, s.image.load with
    | .loading, some l =>
      if l.phase = .check ∨ (l.phase = .records ∧ l.left = 0) then s.judgeCheck l checkHigh checkLow else s
    | _, _ => s)

/-- STORE_WRITE_ACKNOWLEDGED (R183): the memory has taken the write; the next begins, or the store ends DONE. -/
def execStoreWriteAcknowledged (s : State) : Host.Outcome State Fault Refusal :=
  .next (match s.image.config, s.image.store with
    | .storing, some x =>
      let s := s.takeWrite x.current
      if x.position + 1 < (storeWrites x.image).length then
        { s with image := { s.image with store := some { x with position := x.position + 1 } } }
      else (s.endStore true).arbitrate
    | _, _ => s)

end Sys2Proof.Machine
end

