-- ==== Sys2Proof/Machine/Management.lean ====
section
/-! DEFINITION. The management unit (R142 to R164): the replay slot, the judging of a request, and the operations that
end within their step. -/

namespace Sys2Proof.Machine

/-! ### RESULT data (R150 to R155, R188) -/

/-- READ STATUS (R150): 15 bytes. -/
def State.statusData (s : State) : List Byte :=
  [s.image.config.code, s.image.result.code, num8 s.image.skipped, s.settings.ownAddress,
    optAddress s.mgmt.pendingAddress, rateCode s.trunk.rate, optRateCode s.mgmt.pendingRate,
    boolCode s.settings.refuseUnknown, num8 s.settings.downThreshold, num8 s.settings.probeRatio,
    num8 s.settings.urgentLimit, num8 s.stations.length, num8 s.pool.free.length, num8 s.openCount, s.mgmt.store.code]

/-- LIST STATIONS (R151). DESIGN CHOICE, log entry 20: the more flag is 0x01 when set and 0x00 when not, as the flags in
the Value Codes are; the table there does not name it. -/
def State.listData (s : State) (start : Byte) : List Byte :=
  let above := (s.stations.map Station.address).filter (fun a => start.toNat ≤ a.toNat)
  let shown := above.take Config.listRoom
  num8 shown.length :: boolCode (Config.listRoom < above.length) :: shown

/-- READ STATION (R152): 17 bytes. -/
def Station.data (st : Station) : List Byte :=
  [st.address, Byte.ofNat st.drop.val, optAddress st.aliasAddr, st.cls.code, num8 st.window, num8 st.retryLimit,
    boolCode st.deferral, num8 st.fetchInterval, num8 st.fetchLimit, num8 st.miss, st.liveness.code, num8 st.probe,
    boolCode st.noticePending] ++ num16 st.done ++ num16 st.failed

/-- One record of READ EXCHANGES (R153): 9 bytes. -/
def Exchange.data (t : Tag) (e : Exchange) : List Byte :=
  [Byte.ofNat t.val, e.station, Byte.ofNat e.drop.val, e.seq, e.cls.code, e.state.code, num8 e.attempts,
    num8 e.fetches, boolCode e.cancelPending]

/-- READ EXCHANGES (R153). -/
def State.exchangesData (s : State) : List Byte :=
  num8 s.openCount :: (List.finRange 16).flatMap (fun t => ((s.exchange t).map (Exchange.data t)).getD [])

/-- An item record of READ DROP (R154): 5 bytes. -/
def State.itemData (s : State) (it : Item) : List Byte :=
  match it.work with
  | .notice dest => [0x01#8, it.cls.code, dest, 0xFF#8, 0xFF#8]
  | .exchange t =>
    [0x00#8, it.cls.code, ((s.exchange t).map Exchange.station).getD 0xFF#8, Byte.ofNat t.val,
      ((s.exchange t).map (fun e => e.state.code)).getD 0xFF#8]

/-- The six counters of a drop, in order (R95). -/
def DropCounters.data (c : DropCounters) : List Byte :=
  num16 c.sent ++ num16 c.answers ++ num16 c.timeouts ++ num16 c.badFrames ++ num16 c.strays ++ num16 c.droppedNotices

/-- The eight trunk counters, in order (R70). -/
def TrunkCounters.data (c : TrunkCounters) : List Byte :=
  num16 c.framesTaken ++ num16 c.badFrames ++ num16 c.broken ++ num16 c.poolEmpty ++ num16 c.foreign
    ++ num16 c.invalid ++ num16 c.unknown ++ num16 c.refusalsSent

/-- READ DROP (R154). -/
def State.readDropData (s : State) (d : DropId) : List Byte :=
  let x := s.dropUnit d
  let service := match x.service with
    | none => [0xFF#8, 0xFF#8, 0xFF#8, 0xFF#8, 0xFF#8]
    | some it => s.itemData it
  [x.mode.code, x.line.code, rateCode x.rate, optRateCode x.pendingRate, x.alternation.code] ++ x.counters.data
    ++ service ++ num8 x.queue.length :: x.queue.flatMap s.itemData

/-- READ COUNTERS of a group, cleared after the read where asked (R155). -/
def State.readCounters (s : State) (clear : Bool) : CounterGroup → State × List Byte
  | .trunk => (if clear then s.mapTrunkCounters (fun _ => TrunkCounters.zero) else s, s.trunk.counters.data)
  | .drop d =>
    (if clear then s.mapDropCounters d (fun _ => DropCounters.zero) else s, (s.dropUnit d).counters.data)

/-! ### Operations that change something (R156 to R162) -/

/-- CANCEL EXCHANGE (R115, R158). -/
def State.cancelExchange (s : State) (a : Byte) : State × ResultCode :=
  match s.openFor a with
  | none => (s, .noExchange)
  | some t =>
    if (s.exchange t).any Exchange.inService then
      (s.mapExchange t (fun e => { e with cancelPending := true }), .cancelPending)
    else (s.closeExchange t .cancelled, .done)

/-- SET DROP (R159): the mode first, then the rate. -/
def State.setDrop (s : State) (d : DropId) (mode : Option Mode) (rate : Option Rate) : State :=
  let s := match mode with
    | none => s
    | some .disabled => s.disableDrop d
    | some .enabled => s.enableDrop d
  match rate with
  | none => s
  | some r => s.setPendingRate d r

/-- A pending setting after a WRITE SETTINGS (R161): the value given replaces it, and one equal to the value in force
makes it absent. -/
def pendingAfter {α : Type} [DecidableEq α] (given pending : Option α) (inForce : α) : Option α :=
  match given with
  | none => pending
  | some v => if v = inForce then none else some v

/-- WRITE SETTINGS (R160, R161): judged together, applied whole or not at all. -/
def State.writeSettings (s : State) (f : SettingsFields) : State × ResultCode :=
  if f.quantitiesGood && f.ownAddress.all (fun a => (s.station a).isNone) then
    let x := s.settings
    let s := { s with
      settings := { x with
        refuseUnknown := (f.refuseUnknown.map flagOf).getD x.refuseUnknown
        downThreshold := (f.downThreshold.map BitVec.toNat).getD x.downThreshold
        probeRatio := (f.probeRatio.map BitVec.toNat).getD x.probeRatio
        urgentLimit := (f.urgentLimit.map BitVec.toNat).getD x.urgentLimit }
      mgmt := { s.mgmt with
        pendingAddress := pendingAfter f.ownAddress s.mgmt.pendingAddress x.ownAddress
        pendingRate := pendingAfter (f.trunkRate.map rateOf) s.mgmt.pendingRate s.trunk.rate } }
    ((match f.downThreshold with
      | none => s
      | some _ => s.rederiveAll s.settings.downThreshold), .done)
  else (s, .badArgument)

/-- STORE IMAGE (R163, R182): STORING, RUNNING, the store image built, the first write begun; the request's buffer
stays in the replay slot. -/
def State.beginStore (s : State) (seq : Byte) (b : BufId) : State :=
  { s with
    image := { s.image with config := .storing, store := some { image := s.storeImage, position := 0 } }
    mgmt := { s.mgmt with store := .running, slot := .inFlight seq b true } }

/-- A read's data after DONE. -/
def doneWith (s : State) (data : List Byte) : State × ResultCode × List Byte := (s, .done, data)

/-- An operation whose RESULT carries no data. -/
def noData (r : State × ResultCode) : State × ResultCode × List Byte := (r.1, r.2, [])

/-- An operation carried out within its step (R150 to R160). STORE IMAGE and RESTART, whose RESULTs come otherwise, are
not taken here. -/
def State.carryOut (s : State) : MgmtRequest → State × ResultCode × List Byte
  | .readStatus => doneWith s s.statusData
  | .listStations start => doneWith s (s.listData start)
  | .readStation a =>
    match s.station a with
    | none => (s, .noSuchStation, [])
    | some st => doneWith s st.data
  | .writeStation a f => noData (s.writeStation a f)
  | .removeStation a force => noData (s.removeStation a force)
  | .readExchanges => doneWith s s.exchangesData
  | .cancelExchange a => noData (s.cancelExchange a)
  | .readDrop d => doneWith s (s.readDropData d)
  | .setDrop d mode rate => (s.setDrop d mode rate, .done, [])
  | .readCounters group clear => ((s.readCounters clear group).1, .done, (s.readCounters clear group).2)
  | .writeSettings f => noData (s.writeSettings f)
  | .storeImage => (s, .done, [])
  | .restart _ => (s, .done, [])

/-! ### The replay slot (R144 to R147) -/

/-- The SEQ recorded in the slot. -/
def ReplaySlot.seq : ReplaySlot → Option Byte
  | .empty => none
  | .inFlight q _ _ => some q
  | .held q _ => some q

/-- The buffer the slot holds. -/
def ReplaySlot.buffer : ReplaySlot → Option BufId
  | .empty => none
  | .inFlight _ b _ => some b
  | .held _ b => some b

/-- The trunk transmitter is sending this pool buffer. -/
def Transmitter.sends (b : BufId) : Transmitter → Bool
  | .sending (.pool x) _ _ => x = b
  | .sending .notice _ _ => false
  | .sending (.fetch _) _ _ => false
  | .idle => false
  | .aborting _ _ _ => false

/-- A RESULT is upstream from the step in which it joins the urgent queue to the step of its EOF (R136). -/
def State.isUpstream (s : State) (b : BufId) : Bool := s.upstream.urgent.contains b || s.trunk.tx.sends b

/-- A duplicate (R145): its buffer is freed, and a HELD RESULT that is not upstream is queued again. -/
def State.duplicate (s : State) (b : BufId) : State :=
  let s := s.release b
  match s.mgmt.slot with
  | .held _ r => if s.isUpstream r then s else (s.hold r).queueUp .urgent r
  | .inFlight _ _ _ => s
  | .empty => s

/-- The slot turns over to a new request (R146). The pending settings stay, and so pass to it (R162). -/
def State.turnOver (s : State) (seq : Byte) (b : BufId) : State :=
  let s := match s.mgmt.slot.buffer with
    | none => s
    | some old => s.release old
  { s with mgmt := { s.mgmt with slot := .inFlight seq b false } }

/-- A new request, its slot turned over, judged in the order of R148 and executed. -/
def State.judge (s : State) (seq : Byte) (b : BufId) (body : List Byte) : State :=
  match body with
  | [] => s.handResult seq b .unknownOperation 0x00#8 []
  | op :: args =>
    if knownOp op = false then s.handResult seq b .unknownOperation op []
    else match s.image.config with
    | .loading => s.handResult seq b .notReady op (if op = opReadStatus then s.statusData else [])
    | .storing =>
      if runsInStoring op then
        match parseRequest op args with
        | none => s.handResult seq b .badArgument op []
        | some r => (s.carryOut r).1.handResult seq b (s.carryOut r).2.1 op (s.carryOut r).2.2
      else s.handResult seq b .busy op []
    | .ready =>
      match parseRequest op args with
      | none => s.handResult seq b .badArgument op []
      | some .storeImage => s.beginStore seq b
      | some (.restart kind) => s.restart seq kind
      | some r => (s.carryOut r).1.handResult seq b (s.carryOut r).2.1 op (s.carryOut r).2.2

/-- A management request in buffer `b`, passed on by trunk arrival (R58, R142). -/
def State.manage (s : State) (b : BufId) : State :=
  let seq := seqOf (s.content b)
  if s.mgmt.slot.seq = some seq then s.duplicate b
  else (s.turnOver seq b).judge seq b (bodyOf (s.content b))

/-- The pending settings fall due (R161), at the EOF of the RESULT the slot holds. -/
def State.settingsDue (s : State) : State :=
  let rate := s.mgmt.pendingRate
  let s := { s with
    settings := { s.settings with ownAddress := s.mgmt.pendingAddress.getD s.settings.ownAddress }
    mgmt := { s.mgmt with pendingAddress := none, pendingRate := none } }
  match rate with
  | none => s
  | some r => s.trunkRateDue r

/-- The management unit is told that a buffer's RESULT has been sent (R136, R147): only of the RESULT its slot holds. -/
def State.resultSent (s : State) (b : BufId) : State :=
  match s.mgmt.slot with
  | .empty => s
  | .inFlight q r _ =>
    if r = b then State.settingsDue { s with mgmt := { s.mgmt with slot := .held q r } } else s
  | .held _ r => if r = b then s.settingsDue else s

end Sys2Proof.Machine
end

