-- ==== Sys2Proof/Machine/Arrival.lean ====
section
/-! DEFINITION. Trunk arrival (R55 to R69): the classification of a valid trunk frame, notices and their fan-out,
admission, refusals, fast fails, and the opening of an exchange. -/

namespace Sys2Proof.Machine

/-! ### Discards (R56, R59, R60) -/

def State.discardForeign (s : State) (b : BufId) : State :=
  (s.mapTrunkCounters (fun c => { c with foreign := bump c.foreign })).release b

def State.discardInvalid (s : State) (b : BufId) : State :=
  (s.mapTrunkCounters (fun c => { c with invalid := bump c.invalid })).release b

def State.discardUnknown (s : State) (b : BufId) : State :=
  (s.mapTrunkCounters (fun c => { c with unknown := bump c.unknown })).release b

/-! ### Refusal and fast fail (R65, R66) -/

/-- The request in `b` rewritten as a REFUSAL and queued upstream in a class (R65). -/
def State.refuse (s : State) (b : BufId) (c : Class) (r : RefusalReason) : State :=
  let s := s.write b (refusalFrame (destOf (s.content b)) (seqOf (s.content b)) r)
  (s.mapTrunkCounters (fun x => { x with refusalsSent := bump x.refusalsSent })).queueUp c b

/-- The request in `b` rewritten as CLOSURE STATION DOWN and queued upstream in the station's class (R66). -/
def State.fastFail (s : State) (b : BufId) (c : Class) : State :=
  (s.write b (closureFrame (destOf (s.content b)) (seqOf (s.content b)) .stationDown 0 0)).queueUp c b

/-! ### The drop queue (R74) -/

/-- An item at its place: an URGENT one behind the last URGENT, a ROUTINE one at the tail (R74). -/
def enqueue (it : Item) (q : List Item) : List Item :=
  match it.cls with
  | .routine => q ++ [it]
  | .urgent => q.takeWhile (fun x => x.cls = .urgent) ++ it :: q.dropWhile (fun x => x.cls = .urgent)

/-- An item joins a drop's queue (R74). -/
def State.joinQueue (s : State) (d : DropId) (it : Item) : State :=
  s.mapDrop d (fun x => { x with queue := enqueue it x.queue })

/-- A drop takes notices to its stations (R61): ENABLED and not in FAULT. -/
def Drop.takesNotices (x : Drop) : Bool := x.mode = .enabled && x.line ≠ .fault

/-- A drop is offered broadcasts (R62): as above, and not one that a DROP record has enabled during a load. -/
def Drop.takesBroadcasts (x : Drop) : Bool := x.takesNotices && x.line ≠ .disabled

/-- A drop's queue has room (R61, R62, R64). -/
def Drop.hasRoom (x : Drop) : Bool := x.queue.length < Config.queueRoom

def State.countDropped (s : State) (d : DropId) : State :=
  s.mapDropCounters d (fun c => { c with droppedNotices := bump c.droppedNotices })

/-- A NOTICE to a station with an entry (R61). -/
def State.stationNotice (s : State) (b : BufId) (st : Station) : State :=
  let x := s.dropUnit st.drop
  if x.takesNotices && x.hasRoom then
    (s.joinQueue st.drop { work := .notice st.address, cls := st.cls, buffer := b }).chooseWork st.drop
  else (s.countDropped st.drop).release b

/-- A broadcast offered to one drop (R62). -/
def State.offerBroadcast (b : BufId) (s : State) (d : DropId) : State :=
  let x := s.dropUnit d
  if x.takesBroadcasts then
    if x.hasRoom then
      (s.hold b).joinQueue d { work := .notice addrBroadcast, cls := .routine, buffer := b }
    else s.countDropped d
  else s

/-- A broadcast NOTICE (R27, R62): offered to the four drops, the hand-over hold released, and each IDLE drop then
chooses. DESIGN CHOICE, log entry 19: the drops choose in the order D0 to D3 after the hand-over release, so that the
buffers of frames abandoned on their entry to SENDING (R15) reach the free-list tail in that order, where R23 gives none. -/
def State.broadcast (s : State) (b : BufId) : State :=
  let s := (List.finRange 4).foldl (State.offerBroadcast b) s
  (List.finRange 4).foldl State.chooseWork (s.release b)

/-! ### Admission (R64, R67) -/

/-- An exchange opened in a record (R67): the buffer held by the request slot and by the queue item. -/
def State.openExchange (s : State) (b : BufId) (st : Station) (t : Tag) : State :=
  let e : Exchange :=
    { station := st.address, drop := st.drop, seq := seqOf (s.content b), cls := st.cls, state := .queued,
      attempts := 1, fetches := 0, deadline := none, cancelPending := false, buffer := b, limit := none,
      dueSince := none, removal := .none }
  let s := (s.putExchange t (some e)).hold b
  (s.joinQueue st.drop { work := .exchange t, cls := st.cls, buffer := b }).chooseWork st.drop

/-- The tests after the liveness test (R64): a free record, then room in the drop's queue. -/
def State.admitLate (s : State) (b : BufId) (st : Station) : State :=
  match s.freeTag with
  | none => s.refuse b st.cls .tableExhausted
  | some t => if (s.dropUnit st.drop).hasRoom then s.openExchange b st t else s.refuse b st.cls .queueFull

/-- Admission of a REQUEST to a station with an entry (R64). -/
def State.admitRequest (s : State) (b : BufId) (st : Station) : State :=
  let x := s.dropUnit st.drop
  if s.image.config = .loading then s.refuse b .routine .notReady
  else if x.mode = .disabled then s.refuse b st.cls .dropDisabled
  else if x.line = .fault then s.refuse b st.cls .dropFault
  else if (s.openFor st.address).isSome then s.refuse b st.cls .stationBusy
  else
    let s' := s.mapStation st.address (fun y => y.probed s.settings.probeRatio)
    match st.livenessTest s.settings.probeRatio with
    | .passes => s'.admitLate b st
    | .probe => s'.admitLate b st
    | .fastFail => s'.fastFail b st.cls

/-! ### Classification (R55) -/

/-- While LOADING (R63): a REQUEST is refused NOT READY, a NOTICE discarded, the table not read. -/
def State.loadingDisposal (s : State) (b : BufId) : State :=
  if kindOf (s.content b) = kindRequest then s.refuse b .routine .notReady else s.release b

/-- An unknown destination (R60). -/
def State.unknownDestination (s : State) (b : BufId) : State :=
  if kindOf (s.content b) = kindRequest ∧ s.settings.refuseUnknown then s.refuse b .routine .unknownStation
  else s.discardUnknown b

/-- A valid trunk frame in buffer `b` classified and disposed of (R55). -/
def State.classify (s : State) (b : BufId) : State :=
  let c := s.content b
  let request := kindOf c = kindRequest
  if srcOf c ≠ addrController ∨ (kindOf c ≠ kindRequest ∧ kindOf c ≠ kindNotice) then s.discardForeign b
  else if destOf c = s.settings.ownAddress then (if request then s.manage b else s.discardForeign b)
  else if destOf c = addrBroadcast then (if request then s.discardForeign b else s.broadcast b)
  else if stationAddress (destOf c) = false then s.discardInvalid b
  else if s.image.config = .loading then s.loadingDisposal b
  else match s.station (destOf c) with
  | some st => if request then s.admitRequest b st else s.stationNotice b st
  | none => s.unknownDestination b

/-- A frame handed to trunk arrival (R14, R26): counted, classified; then the upstream arbiter may choose (R131). -/
def State.trunkArrival (s : State) (b : BufId) : State :=
  ((s.mapTrunkCounters (fun c => { c with framesTaken := bump c.framesTaken })).classify b).arbitrate

end Sys2Proof.Machine
end

