-- ==== Sys2Proof/Machine/Characters.lean ====
section
/-! DEFINITION. The characters on the lines bit by bit (R1): the ten bit times of a character, what a receiver makes of
the levels it samples and which command reports it, and the levels of TTXD and DnTXD. A line is given as one level for
each bit time; the moments of the edges inside a bit are left out (log entry 1). -/

namespace Sys2Proof.Machine

/-- The level of a line (R1). -/
inductive Level where
  | space
  | mark
deriving DecidableEq, Repr

/-- A data bit 1 is at mark, as a line at rest is. PRESUMED, log entry 22: R1 gives no level of a data bit. -/
def Level.ofBit (b : Bool) : Level := if b then .mark else .space

/-- A character (R1): a start bit, the eight data bits least significant first, a stop bit. -/
def characterLevels (v : Byte) : List Level :=
  .space :: (List.range 8).map (fun i => Level.ofBit (v.getLsbD i)) ++ [.mark]

/-- How many bit times a line has been at mark when a character ends: its stop bit, and before it the data bits at mark
that no space follows (R1). -/
def marksAtEnd (v : Byte) : Nat := ((characterLevels v).reverse.takeWhile (· = .mark)).length

/-! ### Receiving -/

/-- The byte of eight data bits, least significant first. -/
def dataByte (bits : List Level) : Byte :=
  Byte.ofNat (bits.foldr (fun l n => 2 * n + if l = .mark then 1 else 0) 0)

/-- What a receiver finds on its line (R1). -/
inductive Heard where
  | character (v : Byte)
  | framingError
  | lineBreak
  | breakEnd
deriving DecidableEq, Repr

/-- Where a receiver is in its line's bits: at mark, in a character with the data bits so far, after a stop bit found at
space, or in a break. -/
inductive Hearing where
  | rest
  | within (bits : List Level)
  | stopAtSpace
  | inBreak
deriving DecidableEq, Repr

/-- One bit time (R1). A fall from mark starts a character. Its stop bit at mark ends a good one. With the stop bit at
space, the level one character time after the fall decides between a break and a framing error. A break lasts until mark. -/
def Hearing.sample : Hearing → Level → Hearing × Option Heard
  | .rest, .mark => (.rest, none)
  | .rest, .space => (.within [], none)
  | .within bits, l =>
    if bits.length < 8 then (.within (bits ++ [l]), none)
    else
      match l with
      | .mark => (.rest, some (.character (dataByte bits)))
      | .space => (.stopAtSpace, none)
  | .stopAtSpace, .mark => (.rest, some .framingError)
  | .stopAtSpace, .space => (.inBreak, some .lineBreak)
  | .inBreak, .mark => (.rest, some .breakEnd)
  | .inBreak, .space => (.inBreak, none)

/-- All that a run of bit times brings. -/
def Hearing.hear : Hearing → List Level → List Heard
  | _, [] => []
  | h, l :: ls => (h.sample l).2.toList ++ (h.sample l).1.hear ls

/-- The command that reports it, the line and the time given. -/
def Heard.command (l : LineAt) : Heard → Instr
  | .character v =>
    if v = codeSof then .sofReceived l
    else if v = codeEof then .eofReceived l
    else if v = codeAbt then .abtReceived l
    else .contentCharacter l v
  | .framingError => .framingError l
  | .lineBreak => .breakRecognised l
  | .breakEnd => .breakEnd l

/-! ### Sending -/

/-- The level at a time of a line on which characters follow each other without gaps from `began` on (R17): mark before
the first and after the last (R1). -/
def levelOf (chars : List Byte) (r : Rate) (began time : Nat) : Level :=
  if time < began then .mark
  else ((chars.flatMap characterLevels)[(time - began) * 10 / charTime r]?).getD .mark

/-- TTXD or DnTXD at a time, as the transmitter stands: mark while it is idle, in FAULT and DISABLED too; the frame's
characters while it sends; the character finished and the ABT after a cut-off (R1, R17, R19, R20). -/
def State.txd (s : State) (l : Line) (time : Nat) : Level :=
  match s.tx l with
  | .idle => .mark
  | .sending src r began => levelOf (lineCharacters (s.sourceContent src)) r began time
  | .aborting last r began => levelOf [last, codeAbt] r began time

end Sys2Proof.Machine
end

