-- ==== Sys2Proof/Machine/Receivers.lean ====
section
/-! DEFINITION. The receivers (R7 to R15) and the line family of commands: characters, framing errors, breaks, falls to
space and gaps. -/

namespace Sys2Proof.Machine

/-! ### What a line event means to a drop unit, whatever its receiver does (R89, R90, R92) -/

/-- A character received on a drop (R89): a good one, a framing error or the end of a break. The line is at mark and the
break measure stopped (R90); it restarts the guard time, and takes an IDLE drop into GUARD. -/
def Drop.heard (now : Nat) (x : Drop) : Drop :=
  { x with
    rxSpace := false, breakSince := none, lastChar := now, line := if x.line = .idle then .guard else x.line }

/-- In FAULT the marking measure counts from the moment the line came to mark (R92). -/
def Drop.atMark (since : Nat) (x : Drop) : Drop :=
  { x with marking := if x.line = .fault then .since since else x.marking }

/-- A character received on any line, the line at mark for so many bit times now; the trunk has no drop unit. -/
def State.heard (s : State) (marks : Nat) : Line → State
  | .trunk => s
  | .drop d => s.mapDrop d (fun x => (x.atMark (s.now - marks * bitTime x.rate)).heard s.now)

/-- The line state holds the receiver in HUNT (R15). -/
def Drop.holdsReceiver (x : Drop) : Bool := x.line = .sending || x.line = .disabled || x.line = .fault

def State.rxHeld (s : State) : Line → Bool
  | .trunk => false
  | .drop d => (s.dropUnit d).holdsReceiver

/-- The drop unit hears that a frame ended without being handed on (R83). -/
def State.frameLost (s : State) : Line → State
  | .trunk => s
  | .drop d => s.afterFrame d

/-- The gap timer restarted (R11). -/
def State.gapFrom (s : State) (l : Line) : Option Nat := some (s.now + gapLimit (s.rate l))

/-! ### Frames begun, abandoned, ended -/

/-- A frame abandoned and counted broken (R8, R10 to R12), its receiver left in the state given. -/
def State.abandon (s : State) (l : Line) (next : RxState) : State :=
  ((s.countBroken l).dropFrame l next).frameLost l

/-- A SOF taken as a frame start moves a LISTENING drop to RECEIVING (R83). -/
def Drop.sofTaken (x : Drop) : Drop := if x.line = .listening then { x with line := .receiving } else x

/-- A SOF met in HUNT or DISCARD with the pool's buffer given (R8). -/
def State.beginFrame (s : State) (l : Line) (b : BufId) : State :=
  let s := s.setRx l { state := .assemble, slot := some b, count := 0, escape := false, gap := s.gapFrom l }
  match l with
  | .trunk => s
  | .drop d => s.mapDrop d Drop.sofTaken

/-- The pool gives the claimant a buffer (R24): the trunk only while more than four are free. -/
def State.mayTake (s : State) : Line → Bool
  | .trunk => Config.dropReserve < s.pool.free.length
  | .drop _ => true

/-- A refused SOF (R8): the trunk receiver enters DISCARD and counts pool-empty; a drop is never refused (R25). -/
def State.refuseSof (s : State) : Line → State
  | .trunk =>
    (s.setRx .trunk { Receiver.idle with state := .discard }).mapTrunkCounters
      (fun c => { c with poolEmpty := bump c.poolEmpty })
  | .drop _ => s

/-- A SOF in HUNT or DISCARD (R8). -/
def State.acceptSof (s : State) (l : Line) : State :=
  if s.mayTake l then
    match s.pool.take with
    | some (b, p) => State.beginFrame { s with pool := p } l b
    | none => s.refuseSof l
  else s.refuseSof l

/-- A SOF in ASSEMBLE (R8): the frame so far is counted broken, a new one starts in the same buffer; on a drop in
RECEIVING the held expiry, if there is one, is taken (R87). -/
def State.restartFrame (s : State) (l : Line) : State :=
  let r := s.rx l
  let s := s.countBroken l
  let s := match r.slot with
    | some b => s.write b []
    | none => s
  let s := s.setRx l { r with count := 0, escape := false, gap := s.gapFrom l }
  match l with
  | .trunk => s
  | .drop d => if (s.dropUnit d).expiryHeld then s.afterFrame d else s

/-- A content byte stored at the content count (R9); the 248th makes the frame overlength (R12). -/
def State.storeByte (s : State) (l : Line) (v : Byte) : State :=
  let r := s.rx l
  match r.slot with
  | none => s
  | some b =>
    if Config.maxContent ≤ r.count then s.abandon l .discard
    else
      (s.write b ((s.content b).take r.count ++ [v])).setRx l
        { r with count := r.count + 1, escape := false, gap := s.gapFrom l }

/-- A valid frame handed to the owner of its line (R14). -/
def State.handOver (s : State) (l : Line) (b : BufId) : State :=
  let s := s.setRx l Receiver.idle
  match l with
  | .trunk => s.trunkArrival b
  | .drop d => s.matchFrame d b

/-- An EOF in ASSEMBLE (R14). -/
def State.endFrame (s : State) (l : Line) : State :=
  let r := s.rx l
  match r.slot with
  | none => s
  | some b =>
    if validFrame ((s.content b).take r.count) then s.handOver l b
    else ((s.countBad l).dropFrame l .hunt).frameLost l

/-- A good character in ASSEMBLE (R9). -/
def State.assembleChar (s : State) (l : Line) (v : Byte) : State :=
  let r := s.rx l
  if v = codeSof then s.restartFrame l
  else if v = codeAbt then s.abandon l .hunt
  else if r.escape then
    match unescape v with
    | some u => s.storeByte l u
    | none => s.abandon l .discard
  else if v = codeEof then s.endFrame l
  else if v = codeEsc then s.setRx l { r with escape := true, gap := s.gapFrom l }
  else s.storeByte l v

/-- A good character on a line (R1, R7, R9, R13, R15), taken by its value and the receiver's state. -/
def State.takeChar (s : State) (l : Line) (v : Byte) : State :=
  let s := s.heard (marksAtEnd v) l
  if s.rxHeld l then s
  else match (s.rx l).state with
  | .hunt => if v = codeSof then s.acceptSof l else s
  | .discard =>
    if v = codeSof then s.acceptSof l else if v = codeAbt then s.setRx l Receiver.idle else s
  | .assemble => s.assembleChar l v

/-! ### The line family: each event reports the time at which it comes (log entry 3) -/

/-- A good character, met at a time. -/
def State.charAt (s : State) (l : LineAt) (v : Byte) : State := (s.advance l.time).takeChar l.line v

/-- SOF_RECEIVED (R8). -/
def execSofReceived (l : LineAt) (s : State) : Host.Outcome State Fault Refusal := .next (s.charAt l codeSof)

/-- CONTENT_CHARACTER (R9). -/
def execContentCharacter (l : LineAt) (v : Byte) (s : State) : Host.Outcome State Fault Refusal :=
  .next (s.charAt l v)

/-- EOF_RECEIVED (R14). -/
def execEofReceived (l : LineAt) (s : State) : Host.Outcome State Fault Refusal := .next (s.charAt l codeEof)

/-- ABT_RECEIVED (R10). -/
def execAbtReceived (l : LineAt) (s : State) : Host.Outcome State Fault Refusal := .next (s.charAt l codeAbt)

/-- IGNORED_CHARACTER (R7, R13, R89). -/
def execIgnoredCharacter (l : LineAt) (v : Byte) (s : State) : Host.Outcome State Fault Refusal :=
  .next (s.charAt l v)

/-- FRAMING_ERROR (R1, R10, R12), which comes as the line returns to mark: malformed in ASSEMBLE, ignored elsewhere; a
character received for the guard time. -/
def execFramingError (l : LineAt) (s : State) : Host.Outcome State Fault Refusal :=
  let s := (s.advance l.time).heard 0 l.line
  .next (if (s.rx l.line).state = .assemble ∧ s.rxHeld l.line = false then s.abandon l.line .discard else s)

/-- The drop's line found at space one character time after its fall (R1, R90): where no fall was reported, the break
measure counts from that fall (log entry 4). -/
def Drop.breakFound (measured : Bool) (fall : Nat) (x : Drop) : Drop :=
  if x.rxSpace then x
  else
    { x with
      rxSpace := true
      breakSince := if measured && x.line ≠ .sending && x.line ≠ .fault then some fall else none
      marking := if x.line = .fault then .atSpace else x.marking }

def State.breakFound (s : State) : Line → State
  | .trunk => s
  | .drop d =>
    s.mapDrop d (Drop.breakFound (s.image.config ≠ .loading) (s.now - charTime (s.dropUnit d).rate))

/-- BREAK_RECOGNISED (R1, R10): a frame being assembled is abandoned, a receiver in DISCARD returns to HUNT. -/
def execBreakRecognised (l : LineAt) (s : State) : Host.Outcome State Fault Refusal :=
  let s := (s.advance l.time).breakFound l.line
  .next (match (s.rx l.line).state with
    | .hunt => s
    | .discard => s.setRx l.line Receiver.idle
    | .assemble => s.abandon l.line .hunt)

/-- BREAK_END (R1, R89), which comes as the line returns to mark: a character received for the guard time. -/
def execBreakEnd (l : LineAt) (s : State) : Host.Outcome State Fault Refusal :=
  .next ((s.advance l.time).heard 0 l.line)

/-- The drop's line falls to space (R90, R92), from mark: a fall inside a character starts the break measure anew. -/
def Drop.fallen (measured : Bool) (now : Nat) (x : Drop) : Drop :=
  { x with
    rxSpace := true
    breakSince :=
      if measured && x.line ≠ .sending && x.line ≠ .fault then some now else none
    marking := if x.line = .fault then .atSpace else x.marking }

/-- LINE_FALLS_TO_SPACE (R90, R92): the break measure starts; in FAULT the marking measure is set back to 0. -/
def execLineFallsToSpace (d : DropAt) (s : State) : Host.Outcome State Fault Refusal :=
  let s := s.advance d.time
  .next (s.mapDrop d.drop (Drop.fallen (s.image.config ≠ .loading) s.now))

/-- GAP_EXPIRY (R11): taken while the gap timer runs, and not otherwise (log entry 8). -/
def execGapExpiry (l : Line) (s : State) : Host.Outcome State Fault Refusal :=
  .next (match (s.rx l).gap with
    | none => s
    | some t => (s.advance t).abandon l .hunt)

end Sys2Proof.Machine
end

