-- ==== Sys2Proof/Machine/Timers.lean ====
section
/-! DEFINITION. The timer family of commands: window, guard, deadline, fault and recovery. Each is taken only while its
measure runs; a measure that does not run cannot end (log entry 8). -/

namespace Sys2Proof.Machine

/-- The deadline of the window running for the exchange in service on a drop. -/
def State.windowOf (s : State) (d : DropId) : Option Nat := do
  let t ← (s.dropUnit d).serving
  let e ← s.exchange t
  e.deadline

/-- WINDOW_EXPIRY (R87): taken at once in LISTENING, held in RECEIVING. -/
def execWindowExpiry (d : DropId) (s : State) : Host.Outcome State Fault Refusal :=
  .next (match s.windowOf d with
    | none => s
    | some t =>
      match (s.dropUnit d).line with
      | .listening => (s.advance t).takeExpiry d
      | .receiving => (s.advance t).mapDrop d (fun x => { x with expiryHeld := true })
      | .disabled => s
      | .idle => s
      | .sending => s
      | .guard => s
      | .fault => s)

/-- GUARD_END (R89): the guard time counts from the last character sent or received. -/
def execGuardEnd (d : DropId) (s : State) : Host.Outcome State Fault Refusal :=
  let x := s.dropUnit d
  .next (if x.line = .guard then ((s.advance (x.lastChar + guardTime x.rate)).endGuard d).arbitrate else s)

/-- DEADLINE_EXPIRY (R111, R112): a DEFERRED exchange becomes FETCH DUE, due since its deadline's own time whenever the
command comes (log entry 17), and an IDLE drop chooses. -/
def execDeadlineExpiry (t : Tag) (s : State) : Host.Outcome State Fault Refusal :=
  .next (match s.exchange t with
    | none => s
    | some e =>
      if e.state = .deferred then
        let due := e.deadline.getD s.now
        ((s.advance due).putExchange t
          (some { e with state := .fetchDue, deadline := none, dueSince := some due })).chooseWork e.drop
      else s)

/-- DROP_FAULT (R90, R91): the break measure, running in every line state but SENDING and FAULT, reaches 64 character
times. -/
def execDropFault (d : DropId) (s : State) : Host.Outcome State Fault Refusal :=
  let x := s.dropUnit d
  .next (match x.breakSince with
    | none => s
    | some t =>
      if x.line = .sending ∨ x.line = .fault ∨ s.image.config = .loading then s
      else ((s.advance (t + faultLimit x.rate)).enterFault d).arbitrate)

/-- FAULT left (R92): the measures start anew. -/
def Drop.recovered (now : Nat) (x : Drop) : Drop :=
  { x with marking := .stopped, breakSince := if x.rxSpace then some now else none, line := .disabled }

/-- DROP_RECOVERY (R92): the marking measure reaches 256 character times; IDLE or DISABLED by the mode. -/
def execDropRecovery (d : DropId) (s : State) : Host.Outcome State Fault Refusal :=
  let x := s.dropUnit d
  .next (match x.line, x.marking with
    | .fault, .since t =>
      let s := s.advance (t + recoveryLimit x.rate)
      let s := s.mapDrop d (Drop.recovered s.now)
      if x.mode = .enabled then s.enterIdle d else s
    | _, _ => s)

end Sys2Proof.Machine
end

