-- ==== Sys2Proof/Machine/Transmit.lean ====
section
/-! DEFINITION. The transmitter family of commands: the EOF of a frame sent on a drop or on the trunk, and the ABT of
a restart. -/

namespace Sys2Proof.Machine

/-- DROP_EOF_SENT (R17, R79 to R81): taken while the drop is SENDING a frame. -/
def execDropEofSent (d : DropId) (s : State) : Host.Outcome State Fault Refusal :=
  let x := s.dropUnit d
  .next (match x.tx with
    | .sending src r began =>
      if x.line = .sending then ((s.advance (began + s.sendingTime src r)).dropFrameSent d).arbitrate else s
    | .idle => s
    | .aborting _ _ _ => s)

/-- The holds of a frame sent on the trunk are dealt with (R136). -/
def State.trunkFrameSent (s : State) : TxSource → State
  | .pool b => (s.release b).resultSent b
  | .notice => { s with upstream := { s.upstream with notice := none } }
  | .fetch _ => s

/-- TRUNK_EOF_SENT (R136): the transmitter is idle, the frame's holds are dealt with, and the next choice follows. -/
def execTrunkEofSent (s : State) : Host.Outcome State Fault Refusal :=
  .next (match s.trunk.tx with
    | .sending src r began =>
      let s := s.advance (began + s.sendingTime src r)
      let s := { s with trunk := { s.trunk with tx := .idle } }
      (s.trunkFrameSent src).arbitrate
    | .idle => s
    | .aborting _ _ _ => s)

/-- ABT_SENT (R20), no earlier than the character finished and the ABT after it take: the transmitter is idle; the
trunk's arbiter chooses, and a drop that has work by now chooses (log entry 10). -/
def execAbtSent (l : LineAt) (s : State) : Host.Outcome State Fault Refusal :=
  let s := s.advance l.time
  .next (match s.tx l.line with
    | .aborting _ r began =>
      let s := s.advance (began + 2 * charTime r)
      match l.line with
      | .trunk => State.arbitrate { s with trunk := { s.trunk with tx := .idle } }
      | .drop d => (s.mapDrop d (fun x => { x with tx := .idle, lastChar := s.now })).chooseWork d
    | .idle => s
    | .sending _ _ _ => s)

end Sys2Proof.Machine
end

