-- ==== Sys2Proof/Machine/Dispatch.lean ====
section
/-! DEFINITION. One arm per command, each a direct call of its meaning. -/

namespace Sys2Proof.Machine

def exec (i : Instr) (s : State) : Host.Outcome State Fault Refusal :=
  match i with
  | .coldReset straps => Sys2Proof.Machine.execColdReset straps s
  | .sofReceived line => Sys2Proof.Machine.execSofReceived line s
  | .contentCharacter line data => Sys2Proof.Machine.execContentCharacter line data s
  | .eofReceived line => Sys2Proof.Machine.execEofReceived line s
  | .abtReceived line => Sys2Proof.Machine.execAbtReceived line s
  | .framingError line => Sys2Proof.Machine.execFramingError line s
  | .breakRecognised line => Sys2Proof.Machine.execBreakRecognised line s
  | .breakEnd line => Sys2Proof.Machine.execBreakEnd line s
  | .lineFallsToSpace drop => Sys2Proof.Machine.execLineFallsToSpace drop s
  | .gapExpiry line => Sys2Proof.Machine.execGapExpiry line s
  | .dropEofSent drop => Sys2Proof.Machine.execDropEofSent drop s
  | .windowExpiry drop => Sys2Proof.Machine.execWindowExpiry drop s
  | .guardEnd drop => Sys2Proof.Machine.execGuardEnd drop s
  | .deadlineExpiry tag => Sys2Proof.Machine.execDeadlineExpiry tag s
  | .dropFault drop => Sys2Proof.Machine.execDropFault drop s
  | .dropRecovery drop => Sys2Proof.Machine.execDropRecovery drop s
  | .trunkEofSent => Sys2Proof.Machine.execTrunkEofSent s
  | .memoryPollTimeout => Sys2Proof.Machine.execMemoryPollTimeout s
  | .memoryByteNotAcknowledged => Sys2Proof.Machine.execMemoryByteNotAcknowledged s
  | .loadHeaderRead m0 m1 version lengthHigh lengthLow => Sys2Proof.Machine.execLoadHeaderRead m0 m1 version lengthHigh lengthLow s
  | .settingsRecord fields => Sys2Proof.Machine.execSettingsRecord fields s
  | .dropRecord fields => Sys2Proof.Machine.execDropRecord fields s
  | .stationRecord fields => Sys2Proof.Machine.execStationRecord fields s
  | .endRecord rest => Sys2Proof.Machine.execEndRecord rest s
  | .unknownRecord type fields => Sys2Proof.Machine.execUnknownRecord type fields s
  | .truncatedRecord bytes => Sys2Proof.Machine.execTruncatedRecord bytes s
  | .loadEnd checkHigh checkLow => Sys2Proof.Machine.execLoadEnd checkHigh checkLow s
  | .storeWriteAcknowledged => Sys2Proof.Machine.execStoreWriteAcknowledged s
  | .abtSent line => Sys2Proof.Machine.execAbtSent line s
  | .ignoredCharacter line data => Sys2Proof.Machine.execIgnoredCharacter line data s

end Sys2Proof.Machine
end

