-- ==== Sys2Proof/Machine/Port.lean ====
section
/-! DEFINITION. The transfers on the 2-wire memory port (R169, R170): what the LX-4 sends and reads in one, the levels of
MSCL and MSDA bit by bit, the check of MSDA before each start, the polling of a device select for either direction, a
transfer to its end over a memory that acknowledges or not, the command that reports its failure (R184), and the
transfers of which a load and a store consist (R174, R176, R183). The moments of the edges are left out (log entry
1). -/

namespace Sys2Proof.Machine

/-! ### Addresses on the port -/

/-- The block bits of an address: its upper three bits. -/
def blockBits (a : Nat) : Nat := a / 256 % 8

/-- The address byte: its lower eight bits. -/
def addressByte (a : Nat) : Byte := Byte.ofNat (a % 256)

/-- The device select byte: 1010, the block bits, and the direction bit, 1 for a read. -/
def deviceSelect (a : Nat) (reading : Bool) : Byte := Byte.ofNat (0xA0 + 2 * blockBits a + if reading then 1 else 0)

/-! ### Transfers -/

/-- A write of bytes from an address on, or a read of a number of bytes from an address on. -/
inductive Transfer where
  | write (address : Nat) (data : List Byte)
  | read (address count : Nat)
deriving DecidableEq, Repr

/-- What passes on the port, in order: a start, a byte the LX-4 sends and the memory acknowledges or not, a byte it reads
and acknowledges or not, a stop. Before a start, a clock pulse with MSDA released, and the level MSDA has after it.
`heldStop` is a stop sent while the memory holds MSDA low. -/
inductive PortSignal where
  | pulse (msda : Bool)
  | start
  | sent (b : Byte) (acknowledged : Bool)
  | taken (b : Byte) (acknowledged : Bool)
  | stop
  | heldStop
deriving DecidableEq, Repr

/-- A transfer signal by signal (R169), over a memory that acknowledges and holds `mem`: a read addresses the memory by a
write and a repeated start, and leaves its last byte unacknowledged. -/
def Transfer.signals (mem : Nat → Byte) : Transfer → List PortSignal
  | .write a data =>
    [.start, .sent (deviceSelect a false) true, .sent (addressByte a) true]
      ++ data.map (fun b => .sent b true) ++ [.stop]
  | .read a n =>
    [.start, .sent (deviceSelect a false) true, .sent (addressByte a) true, .start, .sent (deviceSelect a true) true]
      ++ (List.range n).map (fun k => .taken (mem (a + k)) (k + 1 < n)) ++ [.stop]

/-- An attempt whose device select, for a write or for a read, the memory does not acknowledge (R170). -/
def refusedAttempt (a : Nat) (reading : Bool) : List PortSignal := [.start, .sent (deviceSelect a reading) false, .stop]

/-- The address of the first byte, and the number of bytes. -/
def Transfer.address : Transfer → Nat
  | .write a _ => a
  | .read a _ => a

def Transfer.count : Transfer → Nat
  | .write _ data => data.length
  | .read _ n => n

/-- All of a transfer's bytes lie in one block. -/
def Transfer.inBlock (t : Transfer) : Bool := t.address / 256 = (t.address + t.count - 1) / 256

/-! ### The wires -/

/-- MSCL and MSDA, `true` for high. -/
structure PortLevels where
  mscl : Bool
  msda : Bool
deriving DecidableEq, Repr

/-- One clock: MSDA stands while MSCL is high, and changes only while it is low. -/
def clockLevels (msda : Bool) : List PortLevels := [⟨false, msda⟩, ⟨true, msda⟩, ⟨false, msda⟩]

/-- A byte (R169): eight bits, most significant first, and the ninth clock, in which MSDA is low for an acknowledge. MSDA
is then released. -/
def byteLevels (b : Byte) (acknowledged : Bool) : List PortLevels :=
  ((List.range 8).map (fun i => b.getMsbD i) ++ [!acknowledged]).flatMap clockLevels ++ [⟨false, true⟩]

/-- The levels of a signal, one after another (R169): in a start MSDA falls while MSCL is high, in a stop it rises.
In a pulse MSDA is as the memory leaves it. DEDUCED from MSDA being open drain, log entry 23: a memory that holds MSDA
low keeps it low through a stop. -/
def PortSignal.levels : PortSignal → List PortLevels
  | .pulse msda => [⟨false, msda⟩, ⟨true, msda⟩]
  | .start => [⟨true, true⟩, ⟨true, false⟩, ⟨false, false⟩]
  | .sent b acknowledged => byteLevels b acknowledged
  | .taken b acknowledged => byteLevels b acknowledged
  | .stop => [⟨false, false⟩, ⟨true, false⟩, ⟨true, true⟩]
  | .heldStop => [⟨false, false⟩, ⟨true, false⟩]

/-- The clock periods of a signal (R169, R170). -/
def PortSignal.clocks : PortSignal → Nat
  | .pulse _ => 1
  | .start => 1
  | .sent _ _ => 9
  | .taken _ _ => 9
  | .stop => 1
  | .heldStop => 1

/-- The clock periods of a run of signals. -/
def clocksOf (xs : List PortSignal) : Nat := (xs.map PortSignal.clocks).sum

/-! ### Before the start, and polling -/

/-- The check before each start (R169): `msda k` is the level of MSDA after `k` clock pulses. Answered is the number of
pulses after which the transfer begins, at most nine; `none` is a device select that was not acknowledged (R170). -/
def startAfter (msda : Nat → Bool) : Option Nat := (List.range 10).find? msda

/-- The memory is addressed by an attempt: the transfer can begin, and its device select is acknowledged. -/
def selected (msda : Nat → Bool) (acknowledged : Bool) : Bool := (startAfter msda).isSome && acknowledged

/-- The polling of R170: attempts, each with its time after the first in clock periods of 10 µs and whether the memory was
addressed by it. It fails if none within 10 ms did. -/
def pollFails (attempts : List (Nat × Bool)) : Bool := attempts.all (fun x => !(x.2 && x.1 ≤ 1000))

/-- The command that reports how an operation on the port failed (R170). -/
def PortFailure.command : PortFailure → Instr
  | .polling => .memoryPollTimeout
  | .byte => .memoryByteNotAcknowledged

/-- The command that reports polling: MEMORY_POLL_TIMEOUT where it failed, and none where the transfer goes on. -/
def pollReport (attempts : List (Nat × Bool)) : Option Instr :=
  if pollFails attempts then some PortFailure.polling.command else none

/-- An attempt at a device select (R169, R170): its time after the first in clock periods, the number of pulses after which
MSDA is high, 0 where it is high at once, and whether the memory acknowledges the device select that then is sent. -/
structure Attempt where
  time : Nat
  held : Nat
  acknowledged : Bool
deriving DecidableEq, Repr

/-- The level of MSDA after a number of pulses, up to the first at which it is high. -/
def Attempt.msda (x : Attempt) (k : Nat) : Bool := x.held ≤ k

/-- The attempt addressed the memory. -/
def Attempt.addresses (x : Attempt) : Bool := selected x.msda x.acknowledged

/-- The signals of an attempt at the device select byte `b`: the pulses that MSDA needs, then start and device select, and
a stop where the memory does not acknowledge. With MSDA still low after nine pulses there is no start, and the attempt
counts as not acknowledged (R169). -/
def Attempt.signals (b : Byte) (x : Attempt) : List PortSignal :=
  match startAfter x.msda with
  | some k => (List.range k).map (fun j => .pulse (x.msda (j + 1)))
      ++ [.start, .sent b x.acknowledged] ++ if x.acknowledged then [] else [.stop]
  | none => List.replicate 9 (.pulse false) ++ [.heldStop]

/-- Polling (R170): the same device select in attempt after attempt, until one addresses the memory or 10 ms have passed
since the first. Answered are the signals, and whether the memory was addressed. -/
def poll (b : Byte) : List Attempt → List PortSignal × Bool
  | [] => ([], false)
  | x :: xs =>
    if 1000 < x.time then poll b xs
    else if x.addresses then (x.signals b, true)
    else (x.signals b ++ (poll b xs).1, (poll b xs).2)

/-! ### A transfer to its end -/

/-- What the LX-4 does in a transfer: a start and a device select, polled; a byte it sends; a byte it reads. -/
inductive PortStep where
  | select (b : Byte)
  | send (b : Byte)
  | take (b : Byte) (acknowledged : Bool)
deriving DecidableEq, Repr

/-- The steps of a transfer up to its stop (R169), over a memory that holds `mem`. -/
def Transfer.steps (mem : Nat → Byte) : Transfer → List PortStep
  | .write a data => [.select (deviceSelect a false), .send (addressByte a)] ++ data.map .send
  | .read a n =>
    [.select (deviceSelect a false), .send (addressByte a), .select (deviceSelect a true)]
      ++ (List.range n).map (fun k => .take (mem (a + k)) (k + 1 < n))

/-- Steps to their end (R170, R184): `polls` are the attempts at each device select in turn, and `acks` whether the memory
acknowledges each byte sent after one, none listed being not acknowledged. A device select not acknowledged within 10 ms
ends them, its last attempt with a stop; an address or data byte not acknowledged ends them at once, with a stop.
Answered are the signals and the failure. -/
def runSteps : List PortStep → List (List Attempt) → List Bool → List PortSignal × Option PortFailure
  | [], _, _ => ([.stop], none)
  | .select b :: rest, polls, acks =>
    let p := poll b (polls.headD [])
    let r := runSteps rest polls.tail acks
    if p.2 then (p.1 ++ r.1, r.2) else (p.1, some .polling)
  | .send b :: rest, polls, acks =>
    let r := runSteps rest polls acks.tail
    if acks.headD false then (.sent b true :: r.1, r.2) else ([.sent b false, .stop], some .byte)
  | .take b acknowledged :: rest, polls, acks =>
    let r := runSteps rest polls acks
    (.taken b acknowledged :: r.1, r.2)

/-- A transfer to its end, over a memory that holds `mem` and answers so. -/
def Transfer.run (mem : Nat → Byte) (t : Transfer) (polls : List (List Attempt)) (acks : List Bool) :
    List PortSignal × Option PortFailure := runSteps (t.steps mem) polls acks

/-- The polling after the last write of a store, at address 0 (R183). DEDUCED from the idle port at the end of a store
(R185), log entry 23: where the memory acknowledges, the LX-4 sends a stop. -/
def lastPolling (attempts : List Attempt) : List PortSignal × Option PortFailure :=
  runSteps [.select (deviceSelect 0 false)] [attempts] []

/-! ### Loads and stores -/

/-- The reads that take the first `n` bytes of the memory: one for each block touched (R174, R176). -/
def blockReads (n : Nat) : List Transfer :=
  (List.range ((n + 255) / 256)).map (fun k => .read (256 * k) (min 256 (n - 256 * k)))

/-- The reads of a load (R175, R176): the five header bytes alone where the header ends it, and otherwise the image of
`recordsLength` record bytes, header and check with them. -/
def loadReads (headerGood : Bool) (recordsLength : Nat) : List Transfer :=
  blockReads (if headerGood then 7 + recordsLength else 5)

/-- How many image bytes a load knows it is to read: the header, and after it the records left and the check (R175,
R176). -/
def Load.due (l : Load) : Nat :=
  match l.phase with
  | .header => 5
  | .records => l.position + l.left + 2
  | .check => l.position + l.left + 2

/-- The transfer under way or next while a load or a store runs: of a load the read of the block that the load position
lies in, of a store its next write (R174, R176, R183). -/
def State.portTransfer (s : State) : Option Transfer :=
  match s.image.config, s.image.load, s.image.store with
  | .loading, some l, _ => (blockReads l.due)[l.position / 256]?
  | .storing, _, some x => some (.write x.current.1 x.current.2)
  | .loading, none, _ => none
  | .storing, _, none => none
  | .ready, _, _ => none

/-- The writes of a store (R183). -/
def storeTransfers (image : List Byte) : List Transfer := (storeWrites image).map (fun w => .write w.1 w.2)

end Sys2Proof.Machine
end

