-- ==== Sys2Proof/Safety.lean ====
section
/-! DEFINITION. The laws the data book states of the whole part, as predicates on State that every step is to keep, and
the words the statements use: a character's row, a frame about to end, a buffer freed or held. -/

namespace Sys2Proof.Machine

/-! ### Laws -/

/-- While LOADING the exchange table is empty and every drop is DISABLED (R171), with an empty queue and no frame being
assembled (R15, R98). -/
def LoadingLaw (s : State) : Prop :=
  s.image.config = .loading →
    (∀ t : Tag, s.exchange t = none)
      ∧ ∀ d : DropId, (s.dropUnit d).line = .disabled ∧ (s.dropUnit d).queue = []
          ∧ (s.dropUnit d).rx.state ≠ .assemble

/-- Liveness agrees with the miss count and the down threshold (R38), and the probe count is 0 unless DOWN (R44). -/
def LivenessLaw (s : State) : Prop :=
  ∀ st ∈ s.stations,
    st.liveness = livenessOf s.settings.downThreshold st.miss ∧ (st.liveness ≠ .down → st.probe = 0)

/-- The free list holds every FREE buffer once, and no HELD buffer has count 0 (R21, R23). -/
def PoolLaw (s : State) : Prop :=
  s.pool.free.Nodup ∧ (∀ b : BufId, b ∈ s.pool.free ↔ s.pool.buffers[b] = none)
    ∧ ∀ (b : BufId) (x : Buffer), s.pool.buffers[b] = some x → 1 ≤ x.count

/-- The table's own law (R35): at most 64 entries in ascending order, each a station address, no two of one drop
sharing a line address. -/
def TableShape (s : State) : Prop :=
  s.stations.length ≤ Config.tableRoom
    ∧ s.stations.Pairwise (fun x y => x.address.toNat < y.address.toNat)
    ∧ (∀ st ∈ s.stations, stationAddress st.address = true)
    ∧ s.stations.Pairwise (fun x y => x.drop = y.drop → x.lineAddress ≠ y.lineAddress)

/-- No entry has the own address in force, a pending own address, or one a running load has staged (R35, R52, R177); a load
runs with no pending own address (R162, R168). -/
def OwnAddressApart (s : State) : Prop :=
  (s.image.config = .loading → s.mgmt.pendingAddress = none)
    ∧ ∀ st ∈ s.stations,
      st.address ≠ s.settings.ownAddress ∧ s.mgmt.pendingAddress ≠ some st.address
        ∧ (s.image.config = .loading → ∀ l, s.image.load = some l → l.staged.ownAddress ≠ some st.address)

/-- The table law (R35). -/
def TableLaw (s : State) : Prop := TableShape s ∧ OwnAddressApart s

/-- A drop queue holds at most 4 items, every URGENT one before every ROUTINE one (R74). -/
def QueueLaw (s : State) : Prop :=
  ∀ d : DropId, (s.dropUnit d).queue.length ≤ Config.queueRoom
    ∧ (s.dropUnit d).queue.Pairwise (fun x y => x.cls = .routine → y.cls = .routine)

/-- No station address stands in more than one OPEN record (R67). -/
def ExchangeLaw (s : State) : Prop :=
  ∀ (t u : Tag) (e f : Exchange), s.exchange t = some e → s.exchange u = some f → e.station = f.station → t = u

/-- A drop's queue holds only exchanges that are QUEUED on that drop, each once; what is in service there is an exchange
of that drop in SENDING, AWAITING or FETCHING, or a notice (R72, R74). -/
def WorkLaw (s : State) : Prop :=
  ∀ d : DropId,
    (∀ it ∈ (s.dropUnit d).queue, ∀ t, it.work = .exchange t →
      ∃ e, s.exchange t = some e ∧ e.state = .queued ∧ e.drop = d)
    ∧ (s.dropUnit d).queue.Pairwise (fun x y => ∀ t, x.work = .exchange t → y.work ≠ .exchange t)
    ∧ ∀ t, (s.dropUnit d).serving = some t → ∃ e, s.exchange t = some e ∧ e.inService = true ∧ e.drop = d

/-! ### Holds (R21 to R28, R72) -/

/-- The pool buffer a transmitter sends from. -/
def Transmitter.pooled : Transmitter → Option BufId
  | .sending (.pool b) _ _ => some b
  | _ => none

/-- The buffers held by the places of one drop: its assembly slot, its queue items and its in-service slot (R22). -/
def Drop.places (x : Drop) : List BufId :=
  x.rx.slot.toList ++ x.queue.map Item.buffer ++ (x.service.map Item.buffer).toList

/-- The buffers held by all places (R22), each as often as places hold it. Between commands there is no hand-over hold. -/
def State.places (s : State) : List BufId :=
  s.trunk.rx.slot.toList ++ (List.finRange 4).flatMap (fun d => (s.dropUnit d).places)
    ++ (List.finRange 16).filterMap (fun t => (s.exchange t).map Exchange.buffer) ++ s.upstream.urgent
    ++ s.upstream.routine ++ s.trunk.tx.pooled.toList ++ s.mgmt.slot.buffer.toList

/-- Every buffer's reference count is the number of places that hold it, 0 for a FREE one (R21). -/
def HoldLaw (s : State) : Prop := ∀ b : BufId, s.pool.count b = s.places.count b

/-- While k drop receivers hold a buffer in their assembly slots, at least 4 − k buffers are free (R25). -/
def ReserveLaw (s : State) : Prop :=
  4 ≤ s.pool.free.length + ((List.finRange 4).filter (fun d => (s.dropUnit d).rx.slot.isSome)).length

/-- A receiver's slot holds a buffer while it is in ASSEMBLE, and only then, and no other place holds that buffer (R8,
R22). -/
def ReceiverLaw (s : State) : Prop :=
  ∀ l : Line, ((s.rx l).slot.isSome = true ↔ (s.rx l).state = .assemble)
    ∧ ∀ b, (s.rx l).slot = some b → s.pool.count b = 1

/-- A QUEUED exchange has its item in its drop's queue, one in service stands in its drop's in-service slot, each with
the request buffer; that buffer is held by the request slot and by the item, and in DEFERRED and FETCH DUE by the
request slot alone (R28, R74, R101). -/
def RequestLaw (s : State) : Prop :=
  ∀ (t : Tag) (e : Exchange), s.exchange t = some e →
    (e.state = .queued → ∃ it ∈ (s.dropUnit e.drop).queue, it.work = .exchange t ∧ it.buffer = e.buffer)
    ∧ (e.inService = true → ∃ it, (s.dropUnit e.drop).service = some it ∧ it.work = .exchange t ∧ it.buffer = e.buffer)
    ∧ s.pool.count e.buffer = if e.state = .deferred ∨ e.state = .fetchDue then 1 else 2

/-- What a drop's line state says of its work (R72, R73): nothing in service while DISABLED, IDLE or FAULT, and no queue
while DISABLED or FAULT; a notice in service only while SENDING; a DISABLED line has the mode DISABLED, but in a load; the
transmitter sends a frame in SENDING and in no other line state (R17, R19). -/
def ServiceLaw (s : State) : Prop :=
  ∀ d : DropId,
    ((s.dropUnit d).line = .disabled ∨ (s.dropUnit d).line = .idle ∨ (s.dropUnit d).line = .fault →
      (s.dropUnit d).service = none)
    ∧ ((s.dropUnit d).line = .disabled ∨ (s.dropUnit d).line = .fault → (s.dropUnit d).queue = [])
    ∧ (∀ it a, (s.dropUnit d).service = some it → it.work = .notice a → (s.dropUnit d).line = .sending)
    ∧ ((s.dropUnit d).line = .disabled → (s.dropUnit d).mode = .disabled ∨ s.image.config = .loading)
    ∧ ((s.dropUnit d).line = .sending ↔ ∃ src r began, (s.dropUnit d).tx = .sending src r began)

/-- The law of the pool with all that it rests on: holds counted by places, the drop reserve, and the items, slots and
line states that the holds follow (R21, R25, R28, R72). -/
def HoldingLaw (s : State) : Prop :=
  LoadingLaw s ∧ PoolLaw s ∧ HoldLaw s ∧ ReserveLaw s ∧ ReceiverLaw s ∧ WorkLaw s ∧ RequestLaw s ∧ ServiceLaw s

/-! ### Ranges -/

/-- A trunk counter group within its range (R70). -/
def TrunkCounters.bounded (c : TrunkCounters) : Prop :=
  c.framesTaken ≤ 65535 ∧ c.badFrames ≤ 65535 ∧ c.broken ≤ 65535 ∧ c.poolEmpty ≤ 65535 ∧ c.foreign ≤ 65535
    ∧ c.invalid ≤ 65535 ∧ c.unknown ≤ 65535 ∧ c.refusalsSent ≤ 65535

/-- A drop counter group within its range (R95). -/
def DropCounters.bounded (c : DropCounters) : Prop :=
  c.sent ≤ 65535 ∧ c.answers ≤ 65535 ∧ c.timeouts ≤ 65535 ∧ c.badFrames ≤ 65535 ∧ c.strays ≤ 65535
    ∧ c.droppedNotices ≤ 65535

/-- Every saturating count is within its range (R36, R45, R70, R95, R133, R172). -/
def CountLaw (s : State) : Prop :=
  s.trunk.counters.bounded ∧ (∀ d : DropId, (s.dropUnit d).counters.bounded)
    ∧ (∀ st ∈ s.stations, st.done ≤ 65535 ∧ st.failed ≤ 65535 ∧ st.miss ≤ 15)
    ∧ s.upstream.run ≤ 8 ∧ s.image.skipped ≤ 255

/-- The counts that do not saturate stay in their ranges: the probe count 0 to 15 (R36), the attempt count 1 to 4 and the
fetch count 0 to 255 (R99, R108, R113). What keeps them so: the limits read at a window's start (R103, R113), an attempt
left for a retry pending in GUARD (R107), a fetch left for a FETCH still to be counted (R114). -/
def TallyLaw (s : State) : Prop :=
  (∀ st ∈ s.stations, st.probe ≤ 15)
    ∧ ∀ (t : Tag) (e : Exchange), s.exchange t = some e →
      (1 ≤ e.attempts ∧ e.attempts ≤ 4 ∧ e.fetches ≤ 255)
      ∧ (e.state ≠ .fetching → e.fetches ≤ 254 ∧ e.limit.getD 0 ≤ 3) ∧ e.limit.getD 0 ≤ 255
      ∧ ((s.dropUnit e.drop).serving = some t →
        ((s.dropUnit e.drop).line = .guard → e.attempts ≤ 3 ∧ e.state ≠ .fetching)
        ∧ ((s.dropUnit e.drop).line = .sending → e.fetches ≤ 254))

/-- Staged settings in their ranges (R160, R177). -/
def Staged.inRange (g : Staged) : Prop :=
  (∀ a, g.ownAddress = some a → stationAddress a = true) ∧ (∀ n, g.downThreshold = some n → 1 ≤ n ∧ n ≤ 15)
    ∧ (∀ n, g.probeRatio = some n → 1 ≤ n ∧ n ≤ 16) ∧ ∀ n, g.urgentLimit = some n → 1 ≤ n ∧ n ≤ 8

/-- The settings, pending, staged and in force, and every entry's configuration lie in their ranges (R36, R37, R160). -/
def RangeLaw (s : State) : Prop :=
  (stationAddress s.settings.ownAddress = true ∧ 1 ≤ s.settings.downThreshold ∧ s.settings.downThreshold ≤ 15
      ∧ 1 ≤ s.settings.probeRatio ∧ s.settings.probeRatio ≤ 16 ∧ 1 ≤ s.settings.urgentLimit
      ∧ s.settings.urgentLimit ≤ 8)
    ∧ (∀ a, s.mgmt.pendingAddress = some a → stationAddress a = true)
    ∧ (∀ l, s.image.load = some l → l.staged.inRange)
    ∧ ∀ st ∈ s.stations,
        2 ≤ st.window ∧ st.window ≤ 255 ∧ st.retryLimit ≤ 3 ∧ 1 ≤ st.fetchInterval ∧ st.fetchInterval ≤ 255
          ∧ 1 ≤ st.fetchLimit ∧ st.fetchLimit ≤ 255
          ∧ ∀ a, st.aliasAddr = some a → stationAddress a = true ∧ a ≠ st.address

/-- The serial memory keeps its canonical form (log entry 5). -/
def MemoryLaw (s : State) : Prop := Memory.wf s.memory = true

/-! ### Words of the statements -/

/-- The line, the value and the time of the good character a command reports, for the five rows that report one. -/
def characterOf : Instr → Option (LineAt × Byte)
  | .sofReceived l => some (l, codeSof)
  | .contentCharacter l v => some (l, v)
  | .eofReceived l => some (l, codeEof)
  | .abtReceived l => some (l, codeAbt)
  | .ignoredCharacter l v => some (l, v)
  | _ => none

/-- A receiver with its slot empty, its count 0, its flag clear and its gap timer stopped. -/
def Receiver.emptied (st : RxState) : Receiver := { state := st, slot := none, count := 0, escape := false, gap := none }

/-- The pool with buffer `b`, held once, given back at the tail of the free list (R23). -/
def Pool.freed (p : Pool) (b : BufId) : Pool := { buffers := p.buffers.set b none, free := p.free ++ [b] }

/-- The pool with buffer `b` HELD, carrying `c`, by `n` places. -/
def Pool.held (p : Pool) (b : BufId) (c : List Byte) (n : Nat) : Pool :=
  { p with buffers := p.buffers.set b (some { content := c, count := n }) }

/-- The pool with the head `b` of its free list given out (R23, R24). -/
def Pool.taken (p : Pool) (b : BufId) (rest : List BufId) : Pool :=
  { buffers := p.buffers.set b (some { content := [], count := 1 }), free := rest }

/-- A frame joined the tail of the upstream queue of a class (R128). -/
def Upstream.joined (u : Upstream) : Class → BufId → Upstream
  | .urgent, b => { u with urgent := u.urgent ++ [b] }
  | .routine, b => { u with routine := u.routine ++ [b] }

/-- The trunk receiver is assembling in `b`. -/
def TrunkAssembles (s : State) (b : BufId) : Prop := s.trunk.rx.state = .assemble ∧ s.trunk.rx.slot = some b

/-- A drop's receiver is assembling in `b`, in a line state that releases it (R15). -/
def DropAssembles (s : State) (d : DropId) (b : BufId) : Prop :=
  (s.dropUnit d).rx.state = .assemble ∧ (s.dropUnit d).rx.slot = some b ∧ (s.dropUnit d).line ≠ .sending
    ∧ (s.dropUnit d).line ≠ .disabled ∧ (s.dropUnit d).line ≠ .fault

/-- A window expiry is held for the end of the drop's frame (R87). -/
def ExpiryWaits (s : State) (d : DropId) : Prop :=
  (s.dropUnit d).line = .receiving ∧ (s.dropUnit d).expiryHeld = true

/-- The character `v` stands for the content byte `u` in this receiver: itself, or the code whose escape is pending
(R9). -/
def StandsFor (r : Receiver) (v u : Byte) : Prop :=
  (r.escape = false ∧ isCode v = false ∧ u = v) ∨ (r.escape = true ∧ isCode u = true ∧ v = u ^^^ 0x20#8)

/-- The command makes the frame being assembled on the line overlength or malformed (R12). -/
def SpoilsFrame (i : Instr) (l : LineAt) (r : Receiver) : Prop :=
  i = .framingError l ∨ ∃ v, characterOf i = some (l, v) ∧
    ((r.escape = true ∧ v ≠ codeSof ∧ v ≠ codeAbt ∧ isCode (v ^^^ 0x20#8) = false)
      ∨ (247 ≤ r.count ∧ ∃ u, StandsFor r v u))

/-- The trunk receiver holds in `b` a valid frame content `c`, whole but for its EOF (R14). -/
def TrunkFrameEnds (s : State) (b : BufId) (c : List Byte) : Prop :=
  TrunkAssembles s b ∧ s.trunk.rx.escape = false ∧ s.trunk.rx.count = c.length
    ∧ s.pool.buffers[b] = some { content := c, count := 1 } ∧ validFrame c = true

/-- A drop's receiver holds in `b` a valid frame content `c`, whole but for its EOF (R14). -/
def DropFrameEnds (s : State) (d : DropId) (b : BufId) (c : List Byte) : Prop :=
  DropAssembles s d b ∧ (s.dropUnit d).rx.escape = false ∧ (s.dropUnit d).rx.count = c.length
    ∧ s.pool.buffers[b] = some { content := c, count := 1 } ∧ validFrame c = true

/-- The trunk's frame handed over and counted at a time (R14): the receiver in HUNT, frames taken one higher. -/
def trunkTaken (time : Nat) (s : State) : State :=
  { s with
    now := max s.now time
    trunk := { s.trunk with
      rx := Receiver.emptied .hunt
      counters := { s.trunk.counters with framesTaken := bump s.trunk.counters.framesTaken } } }

/-- A drop with its frame handed over. -/
def Drop.frameTaken (now : Nat) (x : Drop) : Drop := { Drop.heard now x with rx := Receiver.emptied .hunt }

/-- The request `c` in `b` refused with a reason code, upstream in a class (R65). -/
def refusedWith (s : State) (b : BufId) (c : List Byte) (cls : Class) (code : Byte) : State :=
  { s with
    pool := s.pool.held b (frame 0x00#8 (destOf c) 0x30#8 (seqOf c) [code]) 1
    upstream := s.upstream.joined cls b
    trunk := { s.trunk with
      counters := { s.trunk.counters with refusalsSent := bump s.trunk.counters.refusalsSent } } }

/-- A frame from the line controller for a station: SRC 0x00, DEST a station address other than the own address. -/
def StationFrame (s : State) (c : List Byte) (kind : Byte) : Prop :=
  srcOf c = 0x00#8 ∧ kindOf c = kind ∧ destOf c ≠ s.settings.ownAddress ∧ stationAddress (destOf c) = true

/-- A REQUEST for the station entered as `st`, in a state that admits (R64): READY or STORING, its drop ENABLED and not
in FAULT, no exchange open for it. -/
def MeetsLiveness (s : State) (c : List Byte) (st : Station) : Prop :=
  StationFrame s c 0x10#8 ∧ s.image.config ≠ .loading ∧ s.station (destOf c) = some st
    ∧ (s.dropUnit st.drop).mode = .enabled ∧ (s.dropUnit st.drop).line ≠ .fault
    ∧ ∀ t e, s.exchange t = some e → e.station ≠ destOf c

/-- One piece of a drop's work to be ended at a fault or a disable: an exchange to close with a reason, or a queued notice
whose hold is given up (R91). -/
inductive Ending where
  | close (t : Tag) (r : ClosureReason)
  | discard (b : BufId)
deriving DecidableEq, Repr

/-- One piece ended. -/
def State.endOne (s : State) : Ending → State
  | .close t r => s.closeExchange t r
  | .discard b => s.release b

/-- The pieces of a drop's work in the order of R91: the exchange in service, the queue head first, the exchanges in
DEFERRED and FETCH DUE by tag. -/
def State.endings (s : State) (d : DropId) (first rest : ClosureReason) : List Ending :=
  (s.dropUnit d).serving.toList.map (fun t => .close t first)
    ++ (s.dropUnit d).queue.map (fun it => match it.work with
      | .exchange t => .close t rest
      | .notice _ => .discard it.buffer)
    ++ ((List.finRange 16).filter (fun t => (s.exchange t).any (fun e =>
      decide (e.drop = d ∧ (e.state = .deferred ∨ e.state = .fetchDue))))).map (fun t => .close t rest)

/-- A frame `c` matches the exchange in service on a drop (R84). -/
def Matches (s : State) (d : DropId) (c : List Byte) (t : Tag) (e : Exchange) (st : Station) : Prop :=
  (s.dropUnit d).line = .receiving ∧ (s.dropUnit d).serving = some t ∧ s.exchange t = some e
    ∧ s.station e.station = some st ∧ srcOf c = st.lineAddress ∧ destOf c = 0x00#8 ∧ seqOf c = e.seq
    ∧ (kindOf c = 0x20#8 ∨ (kindOf c = 0x21#8 ∧ st.deferral = true))

/-- Commands run in order until one does not answer a next state. -/
def runAll : List Instr → State → Host.Outcome State Fault Refusal
  | [], s => .next s
  | c :: cs, s =>
    match exec c s with
    | .next t => runAll cs t
    | .fault r => .fault r
    | .refused r => .refused r

/-- The row that reports a good character of the inside of a frame on the trunk: CONTENT_CHARACTER, each character with
its time. -/
def contentRows (cs : List (Byte × Nat)) : List Instr := cs.map (fun c => .contentCharacter ⟨.trunk, c.2⟩ c.1)

end Sys2Proof.Machine
end

