-- ==== Sys2Proof/Certificates/Slice0/Obligations.lean ====
section
/-! DEFINITION. The statements for the provers. Each says which rules of spec/ it follows. Where the conclusion is an
equation of states, it states its own frame: every field not named is unchanged. A docstring that names a log entry says
that the clause is the model's choice. -/

open Sys2Proof Sys2Proof.Machine

/-! ### The queue of commands -/

/-- The command at the front of the queue is run on the state with the rest of the queue
(spec/95_what_each_step_holds.md: one step per command). -/
def Obligations.StepRunsFront : Prop :=
  ∀ (c : Instr) (rest : List Instr) (s : State), s.pending = c :: rest → step s = exec c { s with pending := rest }

/-- Commands complete. (1) Every command answers a next state from every state, leaves the queue alone, and never takes
the time back (log entry 3). (2) An empty queue idles. The model's choice, log entry 11. -/
def Obligations.EveryCommandCompletes : Prop :=
  (∀ (c : Instr) (s : State), ∃ t, exec c s = .next t ∧ t.pending = s.pending ∧ s.now ≤ t.now)
    ∧ (∀ s : State, s.pending = [] → step s = .next s)

/-! ### Frame format (R4, R5, R14, R18) -/

/-- Frame content and its characters. (1) The check of a run of bytes with its check after it is 0, and the check of
"123456789" is 0x29B1 (R5). (2) A frame is sent as SOF, its content escaped, EOF: one character for each content byte,
one more for each byte that is a code, and two; between them no bare SOF, EOF or ABT (R4). (3) A frame the LX-4 builds
is valid and carries its fields; a rewriting of DEST or SRC of a valid frame is valid and changes that field alone (R14,
R18). (4) The three tests of a valid frame: at least 7 bytes, LEN equal to the count minus 7, the check of all but the
last two bytes equal to those two, high byte first; and where the fields stand (R14). -/
def Obligations.FrameFormat : Prop :=
  ((∀ bs : List Byte, check (withCheck bs) = 0#16)
     ∧ check [0x31#8, 0x32#8, 0x33#8, 0x34#8, 0x35#8, 0x36#8, 0x37#8, 0x38#8, 0x39#8] = 0x29B1#16)
    ∧ (∀ c : List Byte,
         lineCharacters c = [0xD3#8] ++ c.flatMap escapeByte ++ [0xD5#8]
         ∧ (lineCharacters c).length
           = c.length + (c.filter (fun v => v ∈ [0xD3#8, 0xD5#8, 0xD7#8, 0xD9#8])).length + 2
         ∧ ∀ v ∈ c.flatMap escapeByte, v ≠ 0xD3#8 ∧ v ≠ 0xD5#8 ∧ v ≠ 0xD9#8)
    ∧ (∀ dest src kind seq v : Byte, ∀ body : List Byte, body.length ≤ 240 →
         validFrame (frame dest src kind seq body) = true
         ∧ destOf (frame dest src kind seq body) = dest ∧ srcOf (frame dest src kind seq body) = src
         ∧ kindOf (frame dest src kind seq body) = kind ∧ seqOf (frame dest src kind seq body) = seq
         ∧ bodyOf (frame dest src kind seq body) = body
         ∧ rewriteDest (frame dest src kind seq body) v = frame v src kind seq body
         ∧ rewriteSrc (frame dest src kind seq body) v = frame dest v kind seq body)
    ∧ (∀ c : List Byte,
         (validFrame c = true ↔ 7 ≤ c.length ∧ (c.getD 4 0#8).toNat = c.length - 7
           ∧ check (c.take (c.length - 2)) = c.getD (c.length - 2) 0#8 ++ c.getD (c.length - 1) 0#8)
         ∧ destOf c = c.getD 0 0#8 ∧ srcOf c = c.getD 1 0#8 ∧ kindOf c = c.getD 2 0#8 ∧ seqOf c = c.getD 3 0#8
         ∧ bodyOf c = (c.take (c.length - 2)).drop 5)

/-- Whatever content of at most 247 bytes is sent escaped after a SOF, each character at any time, the trunk receiver,
outside a frame and with a buffer to be had, holds exactly that content, and no counter has moved (R4, R8, R9). That a
character reported at a time that has passed counts as now is log entry 3. -/
def Obligations.TrunkRoundTrip : Prop :=
  ∀ (s : State) (c : List Byte) (b : BufId) (rest : List BufId) (time n : Nat) (rows : List (Byte × Nat)),
    s.trunk.rx.state ≠ .assemble → s.pool.free = b :: rest → 4 < s.pool.free.length → c.length ≤ 247 →
    rows.map Prod.fst = c.flatMap escapeByte → n = rows.foldl (fun m r => max m r.2) (max s.now time) →
    runAll (.sofReceived ⟨.trunk, time⟩ :: contentRows rows) s = .next { s with
      now := n
      pool := { buffers := s.pool.buffers.set b (some { content := c, count := 1 }), free := rest }
      trunk := { s.trunk with
        rx := { state := .assemble, slot := some b, count := c.length, escape := false
                gap := some (n + 20 * charTime s.trunk.rate) } } }

/-! ### The characters on the lines (R1, R17, R19, R20) -/

/-- Characters bit by bit (R1). (1) A character is ten bit times: a start bit at space, the eight data bits least
significant first, a stop bit at mark; that a data bit 1 is at mark and a 0 at space is presumed, log entry 22. (2) A
receiver at rest takes any run of characters, each after any rest at mark, as exactly those bytes. (3) A stop bit at
space: with mark one character time after the fall it is a framing error, with space then it is a break, which lasts
until mark; no byte is delivered, and the next fall from mark starts a character. (4) The command that reports each. -/
def Obligations.LineCharacters : Prop :=
  (∀ v : Byte, (characterLevels v).length = 10 ∧ (characterLevels v)[0]? = some .space
     ∧ (characterLevels v)[9]? = some .mark
     ∧ ∀ i, i < 8 → (characterLevels v)[i + 1]? = some (if v.getLsbD i = true then .mark else .space))
    ∧ (∀ run : List (Nat × Byte),
         Hearing.rest.hear (run.flatMap (fun x => List.replicate x.1 .mark ++ characterLevels x.2))
           = run.map (fun x => .character x.2))
    ∧ (∀ (data after : List Level) (n : Nat), data.length = 8 →
         Hearing.rest.hear (.space :: data ++ .space :: .mark :: after) = .framingError :: Hearing.rest.hear after
         ∧ Hearing.rest.hear (.space :: data ++ .space :: List.replicate (n + 1) .space ++ .mark :: after)
           = .lineBreak :: .breakEnd :: Hearing.rest.hear after)
    ∧ (∀ l : LineAt,
         (∀ v, characterOf ((Heard.character v).command l) = some (l, v))
         ∧ Heard.framingError.command l = .framingError l ∧ Heard.lineBreak.command l = .breakRecognised l
         ∧ Heard.breakEnd.command l = .breakEnd l)

/-- TTXD, DnTXD and DnDE. (1) An idle transmitter's line rests at mark (R1, R19). (2) A transmitter that sends, or has
been cut off, holds its line at mark until its first character begins, then sends its characters without gaps, bit by
bit (a data bit's level is presumed, log entry 22), and rests at mark after the last: the frame's characters, or the
character finished and ABT (R17, R20). (3) A transmitter cut off by a restart (R20): an idle one stays idle; one that
sends finishes the character in progress and sends ABT after it, its line going on in that character as it was. That one
which still sends an earlier restart's ABT sends no second, and that an EOF in progress is finished, are the model's
choice, log entry 21. (4) DnDE is high while the transmitter sends a frame or the ABT and low otherwise (R17, R20), so
that by the law of R72 it is high in another line state than SENDING only for the ABT of a restart. (5) At a cold reset
every line goes to mark and every DnDE is low (R20). -/
def Obligations.LineLevels : Prop :=
  (∀ (s : State) (l : Line) (time : Nat), s.tx l = .idle → s.txd l time = .mark)
    ∧ (∀ (s : State) (l : Line) (r : Rate) (began time : Nat) (chars : List Byte),
         ((∃ src, s.tx l = .sending src r began ∧ chars = lineCharacters (s.sourceContent src))
           ∨ ∃ last, s.tx l = .aborting last r began ∧ chars = [last, 0xD9#8]) →
         (time < began ∨ began + chars.length * charTime r ≤ time → s.txd l time = .mark)
         ∧ ∀ k i v, began ≤ time → (time - began) * 10 / charTime r = 10 * k + i → i < 10 → chars[k]? = some v →
           some (s.txd l time) = (characterLevels v)[i]?)
    ∧ (∀ s : State, s.cutOff .idle = .idle
         ∧ (∀ last r began, s.cutOff (.aborting last r began) = .aborting last r began)
         ∧ ∀ (src : TxSource) (r : Rate) (began k : Nat) (chars : List Byte) (v : Byte),
           chars = lineCharacters (s.sourceContent src) → k = min ((s.now - began) / charTime r) (chars.length - 1) →
           chars[k]? = some v →
           s.cutOff (.sending src r began) = .aborting v r (began + k * charTime r)
           ∧ ∀ (u : State) (l : Line) (time : Nat), s.tx l = .sending src r began → u.tx l = s.cutOff (s.tx l) →
             began + k * charTime r ≤ time → time < began + (k + 1) * charTime r → u.txd l time = s.txd l time)
    ∧ (∀ x : Drop,
         (x.driverEnable = true
           ↔ (∃ src r began, x.tx = .sending src r began) ∨ ∃ last r began, x.tx = .aborting last r began)
         ∧ (x.tx = .idle → x.driverEnable = false))
    ∧ (∀ (s : State) (d : DropId), ServiceLaw s → (s.dropUnit d).line ≠ .sending → (s.dropUnit d).driverEnable = true →
         ∃ last r began, (s.dropUnit d).tx = .aborting last r began)
    ∧ (∀ (s t : State) (straps : Rate), exec (.coldReset straps) s = .next t →
         (∀ (l : Line) (time : Nat), t.txd l time = .mark) ∧ ∀ d : DropId, (t.dropUnit d).driverEnable = false)

/-! ### Cold reset (R2, R16, R34, R53, R96, R99, R139, R168, R171, R174) -/

/-- What the data book says each block holds after a cold reset, of State.reset. The strap value is log entry 2. -/
def Obligations.ResetValues : Prop :=
  State.reset.image = { config := .loading, result := .none, skipped := 0, load := some Load.start, store := none }
    ∧ State.reset.settings
        = { ownAddress := 0xEF#8, refuseUnknown := true, downThreshold := 3, probeRatio := 8, urgentLimit := 4 }
    ∧ State.reset.stations = [] ∧ (∀ t : Tag, State.reset.exchange t = none)
    ∧ State.reset.pool.free = List.finRange 40 ∧ (∀ b : BufId, State.reset.pool.buffers[b] = none)
    ∧ State.reset.upstream = { urgent := [], routine := [], notice := none, run := 0, report := 0#8 }
    ∧ State.reset.mgmt = { slot := .empty, pendingAddress := none, pendingRate := none, store := .none }
    ∧ State.reset.trunk.rx = Receiver.emptied .hunt ∧ State.reset.trunk.tx = .idle ∧ State.reset.trunk.keptRate = none
    ∧ State.reset.trunk.counters.data = List.replicate 16 0#8
    ∧ (∀ d : DropId, (State.reset.dropUnit d).mode = .disabled ∧ (State.reset.dropUnit d).line = .disabled
        ∧ (State.reset.dropUnit d).queue = [] ∧ (State.reset.dropUnit d).service = none
        ∧ (State.reset.dropUnit d).rate = 3 ∧ (State.reset.dropUnit d).pendingRate = none
        ∧ (State.reset.dropUnit d).alternation = .queue ∧ (State.reset.dropUnit d).rx = Receiver.emptied .hunt
        ∧ (State.reset.dropUnit d).tx = .idle ∧ (State.reset.dropUnit d).breakSince = none
        ∧ (State.reset.dropUnit d).marking = .stopped
        ∧ (State.reset.dropUnit d).counters.data = List.replicate 12 0#8)
    ∧ State.reset.rdy = false ∧ State.reset.flt = true

/-- COLD_RESET puts every block in the state of State.reset, with the trunk rate from the straps (R2, R171). The serial
memory is not the part's to reset; that the clock goes on, with the last character at 0, is the model's choice, log
entry 3, and that the lines keep their levels is log entry 4. A write under way is taken whole or not at all (R186;
which, is the free value of log entry 6). -/
def Obligations.ColdResetState : Prop :=
  ∀ (straps : Rate) (s : State), ∃ t, exec (.coldReset straps) s = .next t
    ∧ t = { State.reset with
        now := s.now
        drops := s.drops.map (fun (x : Drop) => { Drop.cold with rxSpace := x.rxSpace })
        trunk := { State.reset.trunk with rate := straps }
        memory := t.memory
        chance := t.chance
        pending := s.pending }
    ∧ (s.image.store = none → t.memory = s.memory)
    ∧ ∀ x, s.image.store = some x → t.memory = s.memory ∨ t.memory = writeCells s.memory x.current.1 x.current.2

/-! ### The receivers (R7 to R15, R24, R83, R87, R89, R90, R92) -/

/-- Characters outside a frame. (1) What a character received means to a drop unit (R89, R90): the line is at mark and
the break measure stopped, the guard measure starts anew, an IDLE drop enters GUARD. How long a line has been at mark
when a good character ends: its stop bit and the data bits at mark that no space follows, by the levels of log entry 22.
(2) On the trunk: in HUNT every character but SOF, in DISCARD every character but SOF and ABT, and in both every framing
error changes nothing but the time (R7, R13); so does the end of a break. (3) On a drop, the same characters, and every
character while the line state holds the receiver (R15), are heard by the drop unit, in FAULT the marking measure counts
from the moment the line came to mark (R92), and nothing else is done. A time already passed counts as now, which is the
model's choice, log entry 3. -/
def Obligations.CharactersIgnored : Prop :=
  ((∀ (now : Nat) (x : Drop),
     Drop.heard now x = { x with
       rxSpace := false
       breakSince := none
       lastChar := now
       line := if x.line = .idle then .guard else x.line })
     ∧ ∀ (v : Byte) (k : Nat), marksAtEnd v = k ↔ k ≤ 9 ∧ (characterLevels v)[9 - k]? = some .space
         ∧ ∀ i, i < k → (characterLevels v)[9 - i]? = some .mark)
    ∧ (∀ (s u : State) (time : Nat), u = { s with now := max s.now time } →
         (∀ i v, characterOf i = some (⟨.trunk, time⟩, v) → v ≠ codeSof
           → (s.trunk.rx.state = .hunt ∨ (s.trunk.rx.state = .discard ∧ v ≠ codeAbt)) → exec i s = .next u)
         ∧ (s.trunk.rx.state ≠ .assemble → exec (.framingError ⟨.trunk, time⟩) s = .next u)
         ∧ (s.trunk.rx.state = .hunt → exec (.breakRecognised ⟨.trunk, time⟩) s = .next u)
         ∧ exec (.breakEnd ⟨.trunk, time⟩) s = .next u)
    ∧ (∀ (s : State) (d : DropId) (x : Drop) (u : Nat → State) (time n : Nat), s.dropUnit d = x → n = max s.now time →
         u = (fun since => { s with
           now := n
           drops := s.drops.set d { Drop.heard n x with
             marking := if x.line = .fault then .since since else x.marking } }) →
         (∀ i v, characterOf i = some (⟨.drop d, time⟩, v)
           → (x.line = .sending ∨ x.line = .disabled ∨ x.line = .fault
             ∨ (v ≠ codeSof ∧ (x.rx.state = .hunt ∨ (x.rx.state = .discard ∧ v ≠ codeAbt))))
           → exec i s = .next (u (n - marksAtEnd v * (charTime x.rate / 10))))
         ∧ ((x.line = .sending ∨ x.line = .disabled ∨ x.line = .fault ∨ x.rx.state ≠ .assemble)
           → exec (.framingError ⟨.drop d, time⟩) s = .next (u n))
         ∧ exec (.breakEnd ⟨.drop d, time⟩) s = .next (u n))

/-- The level of a drop's receive line. (1) The receive line of a drop falls to space (R90, R92), from mark: the break
measure starts anew, but in SENDING, in FAULT and while LOADING; in FAULT the marking measure is back at 0. (2) What a
break recognised means to a drop unit: nothing where the fall was reported; where it was not, the line is at space and
the break measure counts from the fall that R1 measures a break from, which is the model's choice, log entry 4. (3) A
break on a drop whose receiver assembles nothing: the receiver is in HUNT (R10), and nothing else changes but the time
and what (2) says. A time already passed counts as now, which is the model's choice, log entry 3. -/
def Obligations.DropLineLevel : Prop :=
  (∀ (s : State) (d : DropId) (x : Drop) (time n : Nat), s.dropUnit d = x → n = max s.now time →
     exec (.lineFallsToSpace ⟨d, time⟩) s = .next { s with
       now := n
       drops := s.drops.set d { x with
         rxSpace := true
         breakSince :=
           if s.image.config ≠ .loading ∧ x.line ≠ .sending ∧ x.line ≠ .fault then some n else none
         marking := if x.line = .fault then .atSpace else x.marking } })
    ∧ (∀ (measured : Bool) (fall : Nat) (x : Drop),
         (x.rxSpace = true → Drop.breakFound measured fall x = x)
         ∧ (x.rxSpace = false → Drop.breakFound measured fall x = { x with
             rxSpace := true
             breakSince := if measured = true ∧ x.line ≠ .sending ∧ x.line ≠ .fault then some fall else none
             marking := if x.line = .fault then .atSpace else x.marking }))
    ∧ (∀ (s : State) (d : DropId) (x y : Drop) (time n : Nat), s.dropUnit d = x → n = max s.now time →
         y = Drop.breakFound (decide (s.image.config ≠ .loading)) (n - charTime x.rate) x →
         (x.rx.state = .hunt → exec (.breakRecognised ⟨.drop d, time⟩) s
             = .next { s with now := n, drops := s.drops.set d y })
         ∧ (x.rx.state = .discard → exec (.breakRecognised ⟨.drop d, time⟩) s
             = .next { s with now := n, drops := s.drops.set d { y with rx := Receiver.emptied .hunt } }))

/-- SOF. (1) A SOF on the trunk in HUNT or DISCARD takes the head of the free list while more than four buffers are
free, and is otherwise refused into DISCARD and counted pool-empty (R8, R24, R33). (2) A SOF on a drop whose line state
releases the receiver takes any free buffer, and moves LISTENING to RECEIVING (R8, R24, R83); IDLE has become GUARD
(R89). (3) A SOF in ASSEMBLE counts the frame so far and starts a new one in the same buffer (R8); on a drop in
RECEIVING whose window expiry waits for the frame, the expiry is then taken (R87). A time already passed counts as now,
which is the model's choice, log entry 3. -/
def Obligations.SofReceived : Prop :=
  (∀ (s : State) (time n : Nat), s.trunk.rx.state ≠ .assemble → n = max s.now time →
     (∀ b rest, s.pool.free = b :: rest → 4 < s.pool.free.length →
       exec (.sofReceived ⟨.trunk, time⟩) s = .next { s with
         now := n
         pool := s.pool.taken b rest
         trunk := { s.trunk with
           rx := { state := .assemble, slot := some b, count := 0, escape := false,
                   gap := some (n + 20 * charTime s.trunk.rate) } } })
     ∧ (s.pool.free.length ≤ 4 →
       exec (.sofReceived ⟨.trunk, time⟩) s = .next { s with
         now := n
         trunk := { s.trunk with
           rx := Receiver.emptied .discard
           counters := { s.trunk.counters with poolEmpty := bump s.trunk.counters.poolEmpty } } }))
    ∧ (∀ (s : State) (d : DropId) (x : Drop) (b : BufId) (rest : List BufId) (time n : Nat), s.dropUnit d = x →
         x.rx.state ≠ .assemble → x.line ≠ .sending → x.line ≠ .disabled → x.line ≠ .fault → s.pool.free = b :: rest →
         n = max s.now time →
         exec (.sofReceived ⟨.drop d, time⟩) s = .next { s with
           now := n
           pool := s.pool.taken b rest
           drops := s.drops.set d { Drop.heard n x with
             rx := { state := .assemble, slot := some b, count := 0, escape := false,
                     gap := some (n + 20 * charTime x.rate) }
             line := if x.line = .listening then .receiving else (Drop.heard n x).line } })
    ∧ (∀ (s : State) (b : BufId) (time n : Nat), n = max s.now time →
         (TrunkAssembles s b → exec (.sofReceived ⟨.trunk, time⟩) s = .next { s with
           now := n
           pool := s.pool.write b []
           trunk := { s.trunk with
             rx := { s.trunk.rx with count := 0, escape := false, gap := some (n + 20 * charTime s.trunk.rate) }
             counters := { s.trunk.counters with broken := bump s.trunk.counters.broken } } })
         ∧ ∀ (d : DropId) (x : Drop) (u : State), s.dropUnit d = x → DropAssembles s d b →
           u = { s with
             now := n
             pool := s.pool.write b []
             drops := s.drops.set d { Drop.heard n x with
               rx := { x.rx with count := 0, escape := false, gap := some (n + 20 * charTime x.rate) }
               counters := { x.counters with badFrames := bump x.counters.badFrames } } } →
           (¬ ExpiryWaits s d → exec (.sofReceived ⟨.drop d, time⟩) s = .next u)
           ∧ (ExpiryWaits s d → exec (.sofReceived ⟨.drop d, time⟩) s = .next (u.takeExpiry d)))

/-- Characters inside a frame. (1) A content value, or the character after ESC that is an inverted code, is stored at
the content count while the count is below 247; the flag is cleared and the gap timer starts again (R9). (2) ESC with no
escape pending sets the flag and stores nothing (R9). A time already passed counts as now, which is the model's choice,
log entry 3. -/
def Obligations.FrameFilled : Prop :=
  (∀ (s : State) (i : Instr) (v u : Byte) (b : BufId) (time n : Nat), n = max s.now time →
     (characterOf i = some (⟨.trunk, time⟩, v) → TrunkAssembles s b → s.trunk.rx.count < 247 → StandsFor s.trunk.rx v u →
       exec i s = .next { s with
         now := n
         pool := s.pool.write b ((s.content b).take s.trunk.rx.count ++ [u])
         trunk := { s.trunk with
           rx := { s.trunk.rx with
             count := s.trunk.rx.count + 1, escape := false, gap := some (n + 20 * charTime s.trunk.rate) } } })
     ∧ ∀ (d : DropId) (x : Drop), s.dropUnit d = x → characterOf i = some (⟨.drop d, time⟩, v) → DropAssembles s d b →
       x.rx.count < 247 → StandsFor x.rx v u →
       exec i s = .next { s with
         now := n
         pool := s.pool.write b ((s.content b).take x.rx.count ++ [u])
         drops := s.drops.set d { Drop.heard n x with
           rx := { x.rx with count := x.rx.count + 1, escape := false, gap := some (n + 20 * charTime x.rate) } } })
    ∧ (∀ (s : State) (i : Instr) (b : BufId) (time n : Nat), n = max s.now time →
         (characterOf i = some (⟨.trunk, time⟩, codeEsc) → TrunkAssembles s b → s.trunk.rx.escape = false →
           exec i s = .next { s with
             now := n
             trunk := { s.trunk with
               rx := { s.trunk.rx with escape := true, gap := some (n + 20 * charTime s.trunk.rate) } } })
         ∧ ∀ (d : DropId) (x : Drop), s.dropUnit d = x → characterOf i = some (⟨.drop d, time⟩, codeEsc) →
           DropAssembles s d b → x.rx.escape = false →
           exec i s = .next { s with
             now := n
             drops := s.drops.set d { Drop.heard n x with
               rx := { x.rx with escape := true, gap := some (n + 20 * charTime x.rate) } } })

/-- An overlength or malformed frame, a framing error among the causes, is counted broken, on a drop bad frames, its
buffer is released and the receiver enters DISCARD (R12); on a drop RECEIVING goes back to LISTENING (R83), or the
window expiry that waits for the frame is taken (R87). A time already passed counts as now, which is the model's choice,
log entry 3. -/
def Obligations.FrameSpoiled : Prop :=
  ∀ (s : State) (i : Instr) (b : BufId) (time n : Nat), n = max s.now time →
    (SpoilsFrame i ⟨.trunk, time⟩ s.trunk.rx → TrunkAssembles s b → exec i s = .next { s with
      now := n
      pool := s.pool.release b
      trunk := { s.trunk with
        rx := Receiver.emptied .discard
        counters := { s.trunk.counters with broken := bump s.trunk.counters.broken } } })
    ∧ ∀ (d : DropId) (x u : Drop), s.dropUnit d = x → SpoilsFrame i ⟨.drop d, time⟩ x.rx → DropAssembles s d b →
      u = { Drop.heard n x with
        rx := Receiver.emptied .discard
        counters := { x.counters with badFrames := bump x.counters.badFrames } } →
      (¬ ExpiryWaits s d → exec i s = .next { s with
        now := n
        pool := s.pool.release b
        drops := s.drops.set d { u with line := if x.line = .receiving then .listening else u.line } })
      ∧ (ExpiryWaits s d → exec i s = .next (State.takeExpiry { s with
        now := n
        pool := s.pool.release b
        drops := s.drops.set d u } d))

/-- Frames abandoned. (1) The trunk frame is abandoned by an ABT, a break or the gap limit: counted broken, its buffer
released, HUNT; in DISCARD an ABT or a break returns to HUNT uncounted (R10, R11, R13). (2) The same on a drop: counted
in bad frames, and RECEIVING goes back to LISTENING (R10, R11, R83), or the window expiry that waits for the frame is
taken (R87). A character is heard by the drop unit (R89), a break is found by it (R1, R90; its fall not reported before
is log entry 4), and the gap limit is neither. (3) In DISCARD an ABT returns a drop's receiver to HUNT uncounted (R13).
A time already passed counts as now, which is the model's choice, log entry 3. -/
def Obligations.FrameAbandoned : Prop :=
  (∀ (s : State) (b : BufId) (time n : Nat), n = max s.now time →
     (TrunkAssembles s b → ∀ i, i = .abtReceived ⟨.trunk, time⟩ ∨ i = .breakRecognised ⟨.trunk, time⟩
         ∨ (i = .gapExpiry .trunk ∧ s.trunk.rx.gap = some time) →
       exec i s = .next { s with
         now := n
         pool := s.pool.release b
         trunk := { s.trunk with
           rx := Receiver.emptied .hunt
           counters := { s.trunk.counters with broken := bump s.trunk.counters.broken } } })
     ∧ (s.trunk.rx.state = .discard → ∀ i, i = .abtReceived ⟨.trunk, time⟩ ∨ i = .breakRecognised ⟨.trunk, time⟩ →
       exec i s = .next { s with now := n, trunk := { s.trunk with rx := Receiver.emptied .hunt } }))
    ∧ (∀ (s : State) (d : DropId) (x w v : Drop) (b : BufId) (i : Instr) (time n : Nat), s.dropUnit d = x →
         DropAssembles s d b → n = max s.now time →
         ((i = .abtReceived ⟨.drop d, time⟩ ∧ w = Drop.heard n x)
           ∨ (i = .breakRecognised ⟨.drop d, time⟩
             ∧ w = Drop.breakFound (decide (s.image.config ≠ .loading)) (n - charTime x.rate) x)
           ∨ (i = .gapExpiry (.drop d) ∧ x.rx.gap = some time ∧ w = x)) →
         v = { w with
           rx := Receiver.emptied .hunt
           counters := { x.counters with badFrames := bump x.counters.badFrames } } →
         (¬ ExpiryWaits s d → exec i s = .next { s with
           now := n
           pool := s.pool.release b
           drops := s.drops.set d { v with line := if x.line = .receiving then .listening else v.line } })
         ∧ (ExpiryWaits s d → exec i s = .next (State.takeExpiry { s with
           now := n
           pool := s.pool.release b
           drops := s.drops.set d v } d)))
    ∧ (∀ (s : State) (d : DropId) (x : Drop) (time n : Nat), s.dropUnit d = x → x.rx.state = .discard →
         x.line ≠ .sending → x.line ≠ .disabled → x.line ≠ .fault → n = max s.now time →
         exec (.abtReceived ⟨.drop d, time⟩) s = .next { s with
           now := n
           drops := s.drops.set d { Drop.heard n x with rx := Receiver.emptied .hunt } })

/-- A frame that fails a validity test at its EOF is counted a bad frame once, its buffer released, HUNT (R14); on a
drop RECEIVING goes back to LISTENING (R83), or the window expiry that waits for the frame is taken (R87). A time
already passed counts as now, which is the model's choice, log entry 3. -/
def Obligations.BadFrameDropped : Prop :=
  ∀ (s : State) (b : BufId) (time n : Nat), n = max s.now time →
    (TrunkAssembles s b → s.trunk.rx.escape = false → validFrame ((s.content b).take s.trunk.rx.count) = false →
      exec (.eofReceived ⟨.trunk, time⟩) s = .next { s with
        now := n
        pool := s.pool.release b
        trunk := { s.trunk with
          rx := Receiver.emptied .hunt
          counters := { s.trunk.counters with badFrames := bump s.trunk.counters.badFrames } } })
    ∧ ∀ (d : DropId) (x v : Drop), s.dropUnit d = x → DropAssembles s d b → x.rx.escape = false →
      validFrame ((s.content b).take x.rx.count) = false →
      v = { Drop.heard n x with
        rx := Receiver.emptied .hunt
        counters := { x.counters with badFrames := bump x.counters.badFrames } } →
      (¬ ExpiryWaits s d → exec (.eofReceived ⟨.drop d, time⟩) s = .next { s with
        now := n
        pool := s.pool.release b
        drops := s.drops.set d { v with line := if x.line = .receiving then .listening else v.line } })
      ∧ (ExpiryWaits s d → exec (.eofReceived ⟨.drop d, time⟩) s = .next (State.takeExpiry { s with
        now := n
        pool := s.pool.release b
        drops := s.drops.set d v } d))

/-! ### The buffer pool (R21 to R24) -/

/-- Taking, holding, releasing and rewriting a buffer: the head of the free list goes out with count 1; a hold adds 1; a
release subtracts 1 and at 0 puts the buffer at the tail of the free list; a rewrite leaves the holds (R21 to R23). -/
def Obligations.PoolOperations : Prop :=
  ∀ p : Pool,
    (p.free = [] → p.take = none)
    ∧ (∀ b rest, p.free = b :: rest → p.take = some (b, p.taken b rest))
    ∧ ∀ (b : BufId) (c : List Byte) (n : Nat), p.buffers[b] = some { content := c, count := n } →
        p.hold b = p.held b c (n + 1)
        ∧ (1 < n → p.release b = p.held b c (n - 1))
        ∧ (n ≤ 1 → p.release b = p.freed b)
        ∧ ∀ c', p.write b c' = p.held b c' n

/-- The pool's laws as invariants of every step. (1) The free list holds every FREE buffer once, and every HELD buffer
is held by at least one place (R21, R23). (2) Every buffer's reference count is the number of places that hold it (R21),
and while k drop receivers hold a buffer at least 4 − k are free (R25). With them go the laws they rest on: the
receivers' slots, the queue items, the in-service slots and the request holds in agreement with the records, and the
line states with the work (R22, R28, R72, R101). -/
def Obligations.HoldsKept : Prop :=
  ∀ s t : State, step s = .next t → (PoolLaw s → PoolLaw t) ∧ (HoldingLaw s → HoldingLaw t)

/-! ### Trunk arrival (R55 to R67, R43) -/

/-- Frames discarded in every configuration state. (1) A foreign frame: its SRC is not 0x00, or its KIND is neither
REQUEST nor NOTICE, or it is a NOTICE to the own address or a REQUEST to 0xFF (R56). (2) A frame from the line
controller to 0x00 or to 0xF0 to 0xFE (R59). The buffer goes to the free list, and one counter rises. A time already
passed counts as now, which is the model's choice, log entry 3. -/
def Obligations.FramesDiscarded : Prop :=
  (∀ (s : State) (time : Nat) (b : BufId) (c : List Byte), TrunkFrameEnds s b c →
     (srcOf c ≠ 0x00#8 ∨ (kindOf c ≠ 0x10#8 ∧ kindOf c ≠ 0x11#8)
       ∨ (kindOf c = 0x11#8 ∧ destOf c = s.settings.ownAddress)
       ∨ (kindOf c = 0x10#8 ∧ destOf c = 0xFF#8 ∧ s.settings.ownAddress ≠ 0xFF#8)) →
     exec (.eofReceived ⟨.trunk, time⟩) s = .next (State.arbitrate { trunkTaken time s with
       pool := s.pool.freed b
       trunk := { (trunkTaken time s).trunk with
         counters := { (trunkTaken time s).trunk.counters with foreign := bump s.trunk.counters.foreign } } }))
    ∧ (∀ (s : State) (time : Nat) (b : BufId) (c : List Byte), TrunkFrameEnds s b c → srcOf c = 0x00#8 →
         (kindOf c = 0x10#8 ∨ kindOf c = 0x11#8) → destOf c ≠ s.settings.ownAddress →
         (destOf c = 0x00#8 ∨ (0xF0 ≤ (destOf c).toNat ∧ (destOf c).toNat ≤ 0xFE)) →
         exec (.eofReceived ⟨.trunk, time⟩) s = .next (State.arbitrate { trunkTaken time s with
           pool := s.pool.freed b
           trunk := { (trunkTaken time s).trunk with
             counters := { (trunkTaken time s).trunk.counters with invalid := bump s.trunk.counters.invalid } } }))

/-- Station frames that no table entry serves. (1) A REQUEST or NOTICE to a station address with no entry (R60). (2)
While LOADING a station REQUEST is refused NOT READY, whatever the table and the settings, and a NOTICE to a station or
to 0xFF is discarded uncounted (R63); the drops are DISABLED by the law of R171. A time already passed counts as now,
which is the model's choice, log entry 3. -/
def Obligations.DestinationNotServed : Prop :=
  (∀ (s : State) (time : Nat) (b : BufId) (c : List Byte) (kind : Byte), TrunkFrameEnds s b c → StationFrame s c kind →
     s.image.config ≠ .loading → s.station (destOf c) = none →
     (kind = 0x10#8 → s.settings.refuseUnknown = true →
       exec (.eofReceived ⟨.trunk, time⟩) s = .next (refusedWith (trunkTaken time s) b c .routine 0x07#8).arbitrate)
     ∧ ((kind = 0x10#8 ∧ s.settings.refuseUnknown = false) ∨ kind = 0x11#8 →
       exec (.eofReceived ⟨.trunk, time⟩) s = .next (State.arbitrate { trunkTaken time s with
         pool := s.pool.freed b
         trunk := { (trunkTaken time s).trunk with
           counters := { (trunkTaken time s).trunk.counters with unknown := bump s.trunk.counters.unknown } } })))
    ∧ (∀ (s : State) (time : Nat) (b : BufId) (c : List Byte), TrunkFrameEnds s b c → s.image.config = .loading →
         (StationFrame s c 0x10#8 →
           exec (.eofReceived ⟨.trunk, time⟩) s = .next (refusedWith (trunkTaken time s) b c .routine 0x01#8).arbitrate)
         ∧ (StationFrame s c 0x11#8 →
           exec (.eofReceived ⟨.trunk, time⟩) s = .next (State.arbitrate { trunkTaken time s with pool := s.pool.freed b }))
         ∧ (LoadingLaw s → srcOf c = 0x00#8 → kindOf c = 0x11#8 → destOf c = 0xFF#8 → s.settings.ownAddress ≠ 0xFF#8 →
           exec (.eofReceived ⟨.trunk, time⟩) s = .next (State.arbitrate { trunkTaken time s with pool := s.pool.freed b })))

/-- Admission's tests. (1) Admission's tests before the liveness test, in their order (R64): DROP DISABLED, DROP FAULT,
STATION BUSY; the probe count is not moved. (2) The liveness test (R43): PRESENT and SILENT pass; DOWN is a probe from
ratio − 1 fast fails on, and a fast fail below. (3) Admission's tests after the liveness test (R64): TABLE EXHAUSTED,
then QUEUE FULL. A probe has used its turn (R43). A time already passed counts as now, which is the model's choice, log
entry 3. -/
def Obligations.AdmissionRefused : Prop :=
  (∀ (s : State) (time : Nat) (b : BufId) (c : List Byte) (st : Station) (x : Drop),
     TrunkFrameEnds s b c → StationFrame s c 0x10#8 →
     s.image.config ≠ .loading → s.station (destOf c) = some st → s.dropUnit st.drop = x →
     (x.mode = .disabled →
       exec (.eofReceived ⟨.trunk, time⟩) s = .next (refusedWith (trunkTaken time s) b c st.cls 0x02#8).arbitrate)
     ∧ (x.mode = .enabled → x.line = .fault →
       exec (.eofReceived ⟨.trunk, time⟩) s = .next (refusedWith (trunkTaken time s) b c st.cls 0x03#8).arbitrate)
     ∧ (x.mode = .enabled → x.line ≠ .fault → (∃ t e, s.exchange t = some e ∧ e.station = destOf c) →
       exec (.eofReceived ⟨.trunk, time⟩) s = .next (refusedWith (trunkTaken time s) b c st.cls 0x04#8).arbitrate))
    ∧ (∀ (st : Station) (ratio : Nat),
         (st.liveness ≠ .down → st.livenessTest ratio = .passes ∧ st.probed ratio = st)
         ∧ (st.liveness = .down → ratio - 1 ≤ st.probe →
             st.livenessTest ratio = .probe ∧ st.probed ratio = { st with probe := 0 })
         ∧ (st.liveness = .down → st.probe < ratio - 1 →
             st.livenessTest ratio = .fastFail ∧ st.probed ratio = { st with probe := st.probe + 1 }))
    ∧ (∀ (s : State) (time : Nat) (b : BufId) (c : List Byte) (st : Station), TrunkFrameEnds s b c → MeetsLiveness s c st →
         st.livenessTest s.settings.probeRatio ≠ .fastFail →
         ((∀ t, (s.exchange t).isSome) → exec (.eofReceived ⟨.trunk, time⟩) s = .next
           (refusedWith ((trunkTaken time s).mapStation (destOf c) (fun y => y.probed s.settings.probeRatio)) b c st.cls
             0x05#8).arbitrate)
         ∧ ((∃ t, s.exchange t = none) → 4 ≤ (s.dropUnit st.drop).queue.length →
           exec (.eofReceived ⟨.trunk, time⟩) s = .next
             (refusedWith ((trunkTaken time s).mapStation (destOf c) (fun y => y.probed s.settings.probeRatio)) b c st.cls
               0x06#8).arbitrate))

/-- A fast fail: the REQUEST becomes CLOSURE STATION DOWN with 0 attempts and 0 fetches in the queue of the station's
class, no counter but frames taken moves, and the station's probe count rises by one (R66). A request that is the
station's probe is not so written: its turn is used, and it goes on to the remaining tests. A time already passed counts
as now, which is the model's choice, log entry 3. -/
def Obligations.FastFail : Prop :=
  ∀ (s : State) (time : Nat) (b : BufId) (c : List Byte) (st : Station), TrunkFrameEnds s b c → MeetsLiveness s c st →
    st.liveness = .down → ∃ u : State,
      u.station (destOf c)
        = some { st with probe := if st.probe < s.settings.probeRatio - 1 then st.probe + 1 else 0 }
      ∧ (∀ a, a ≠ destOf c → u.station a = s.station a)
      ∧ u = { trunkTaken time s with stations := u.stations }
      ∧ (st.probe < s.settings.probeRatio - 1 →
        exec (.eofReceived ⟨.trunk, time⟩) s = .next (State.arbitrate { u with
          pool := s.pool.held b (frame 0x00#8 (destOf c) 0x31#8 (seqOf c) [0x03#8, 0x00#8, 0x00#8]) 1
          upstream := s.upstream.joined st.cls b }))
      ∧ (¬ st.probe < s.settings.probeRatio - 1 →
        exec (.eofReceived ⟨.trunk, time⟩) s = .next (u.admitLate b st).arbitrate)

/-- Admission's end. (1) A request that passes every test opens the FREE record with the lowest tag, its fields as R67
gives them, and joins its drop's queue, its buffer held by record and item; the drop then chooses if it is IDLE (R64,
R67, R76). (2) An item joins behind the last item of its class, an URGENT one ahead of every ROUTINE one (R74). A time
already passed counts as now, which is the model's choice, log entry 3. -/
def Obligations.ExchangeOpened : Prop :=
  (∀ (s : State) (time : Nat) (b : BufId) (c : List Byte) (st : Station) (t : Tag),
     TrunkFrameEnds s b c → MeetsLiveness s c st →
     st.livenessTest s.settings.probeRatio ≠ .fastFail → s.exchange t = none → (∀ u, u < t → (s.exchange u).isSome) →
     (s.dropUnit st.drop).queue.length < 4 →
     exec (.eofReceived ⟨.trunk, time⟩) s = .next (State.arbitrate (State.chooseWork
       { (trunkTaken time s).mapStation (destOf c) (fun y => y.probed s.settings.probeRatio) with
         pool := s.pool.held b c 2
         exchanges := s.exchanges.set t (some {
           station := destOf c, drop := st.drop, seq := seqOf c, cls := st.cls, state := .queued, attempts := 1,
           fetches := 0, deadline := none, cancelPending := false, buffer := b, limit := none, dueSince := none,
           removal := .none })
         drops := s.drops.set st.drop { s.dropUnit st.drop with
           queue := enqueue { work := .exchange t, cls := st.cls, buffer := b } (s.dropUnit st.drop).queue } }
               st.drop)))
    ∧ (∀ (it : Item) (us rs : List Item), (∀ x ∈ us, x.cls = .urgent) → (∀ x ∈ rs, x.cls = .routine) →
         (it.cls = .urgent → enqueue it (us ++ rs) = us ++ it :: rs)
         ∧ (it.cls = .routine → enqueue it (us ++ rs) = us ++ rs ++ [it]))

/-- Notices. (1) A NOTICE to a station with an entry is queued on its drop while the drop is ENABLED, not in FAULT and
has room, and is otherwise freed and counted on the drop (R61). Liveness and an open exchange play no part. (2) A
broadcast NOTICE is offered to each drop: taken as a ROUTINE item by one that is ENABLED, neither in FAULT nor DISABLED,
with room; counted dropped where only room fails. The buffer is then held once per taker, or free; then each IDLE drop
chooses (R27, R62, R76), D0 first, which is the model's choice, log entry 19. A time already passed counts as now, which
is the model's choice, log entry 3. -/
def Obligations.NoticesQueued : Prop :=
  (∀ (s : State) (time : Nat) (b : BufId) (c : List Byte) (st : Station) (x : Drop),
     TrunkFrameEnds s b c → StationFrame s c 0x11#8 →
     s.image.config ≠ .loading → s.station (destOf c) = some st → s.dropUnit st.drop = x →
     (x.mode = .enabled → x.line ≠ .fault → x.queue.length < 4 →
       exec (.eofReceived ⟨.trunk, time⟩) s = .next (State.arbitrate (State.chooseWork { trunkTaken time s with
         drops := s.drops.set st.drop { x with
           queue := enqueue { work := .notice (destOf c), cls := st.cls, buffer := b } x.queue } } st.drop)))
     ∧ ((x.mode = .disabled ∨ x.line = .fault ∨ 4 ≤ x.queue.length) →
       exec (.eofReceived ⟨.trunk, time⟩) s = .next (State.arbitrate { trunkTaken time s with
         pool := s.pool.freed b
         drops := s.drops.set st.drop { x with
           counters := { x.counters with droppedNotices := bump x.counters.droppedNotices } } })))
    ∧ (∀ (s : State) (time : Nat) (b : BufId) (c : List Byte), TrunkFrameEnds s b c → srcOf c = 0x00#8 → kindOf c = 0x11#8 →
         destOf c = 0xFF#8 → s.settings.ownAddress ≠ 0xFF#8 → ∃ u : State,
           exec (.eofReceived ⟨.trunk, time⟩) s = .next ((List.finRange 4).foldl State.chooseWork u).arbitrate
           ∧ u = { trunkTaken time s with drops := u.drops, pool := u.pool }
           ∧ (∀ (d : DropId) (x : Drop), s.dropUnit d = x →
             (x.mode = .enabled → x.line ≠ .fault → x.line ≠ .disabled → x.queue.length < 4 →
               u.dropUnit d = { x with
                 queue := enqueue { work := .notice 0xFF#8, cls := .routine, buffer := b } x.queue })
             ∧ (x.mode = .enabled → x.line ≠ .fault → x.line ≠ .disabled → 4 ≤ x.queue.length →
               u.dropUnit d = { x with
                 counters := { x.counters with droppedNotices := bump x.counters.droppedNotices } })
             ∧ ((x.mode = .disabled ∨ x.line = .fault ∨ x.line = .disabled) → u.dropUnit d = x))
           ∧ ∀ n, n = ((List.finRange 4).filter
                 (fun d => (s.dropUnit d).takesBroadcasts && (s.dropUnit d).hasRoom)).length →
               (n = 0 → u.pool = s.pool.freed b) ∧ (n ≠ 0 → u.pool = s.pool.held b c n))

/-! ### Drop replies, liveness and closure (R38 to R45, R84 to R87, R105, R106, R110, R120 to R123) -/

/-- Replies that match. (1) A matching ANSWER closes its exchange by answer, whatever the counts and cancel pending: the
miss count becomes 0 and the done count rises, the ANSWER goes upstream in the exchange's class with SRC the network
address, the request buffer goes to the free list, the drop is in GUARD with nothing in service (R84, R85, R105, R121).
(2) A matching DEFER: the miss count becomes 0, the DEFER's buffer is freed, the drop is in GUARD; then, in order, a
cancelled exchange closes CANCELLED, a FETCHING one at its fetch limit closes FETCH LIMIT, and any other enters DEFERRED
for its fetch interval, its request buffer held once (R85, R106, R110). The arbiter's one choice comes at the end of the
step, after the frame and the station have joined, which is the model's reading, log entry 9. A time already passed
counts as now, which is the model's choice, log entry 3. -/
def Obligations.ReplyMatched : Prop :=
  (∀ (s : State) (d : DropId) (b : BufId) (c rc : List Byte) (t : Tag) (e : Exchange) (st : Station) (x : Drop)
      (time n : Nat), n = max s.now time →
     s.dropUnit d = x → DropFrameEnds s d b c → Matches s d c t e st → kindOf c = 0x20#8 → e.drop = d →
     e.inService = true → e.buffer ≠ b → s.pool.buffers[e.buffer] = some { content := rc, count := 2 } →
     exec (.eofReceived ⟨.drop d, time⟩) s = .next (State.arbitrate { s with
       now := n
       pool := (s.pool.held b (rewriteSrc c e.station) 1).freed e.buffer
       stations := s.stations.map (fun y =>
         if y.address = e.station then
           { y.setMiss s.settings.downThreshold 0 with done := bump y.done } else y)
       exchanges := s.exchanges.set t none
       upstream := s.upstream.joined e.cls b
       drops := s.drops.set d { Drop.frameTaken n x with
         line := .guard, expiryHeld := false, service := none
         counters := { x.counters with answers := bump x.counters.answers } } }))
    ∧ (∀ (s : State) (d : DropId) (b : BufId) (c rc : List Byte) (t : Tag) (e : Exchange) (st : Station) (x : Drop) (u
        : State) (time n : Nat), n = max s.now time →
         s.dropUnit d = x → DropFrameEnds s d b c → Matches s d c t e st → kindOf c = 0x21#8 → e.drop = d →
         e.buffer ≠ b → s.pool.buffers[e.buffer] = some { content := rc, count := 2 } →
         u = { s with
           now := n
           pool := s.pool.freed b
           stations := s.stations.map (fun y =>
             if y.address = e.station then y.setMiss s.settings.downThreshold 0 else y)
           drops := s.drops.set d { Drop.frameTaken n x with line := .guard, expiryHeld := false } } →
         (e.cancelPending = true →
           exec (.eofReceived ⟨.drop d, time⟩) s = .next (u.closeExchange t .cancelled).arbitrate)
         ∧ (e.cancelPending = false → e.state = .fetching → e.limit.getD 0 ≤ e.fetches →
           exec (.eofReceived ⟨.drop d, time⟩) s = .next (u.closeExchange t .fetchLimit).arbitrate)
         ∧ (e.cancelPending = false → (e.state ≠ .fetching ∨ e.fetches < e.limit.getD 0) →
           exec (.eofReceived ⟨.drop d, time⟩) s = .next (State.arbitrate { u with
             pool := (s.pool.freed b).held e.buffer rc 1
             exchanges := s.exchanges.set t (some { e with
               state := .deferred, deadline := some (n + 576 * 10 * st.fetchInterval), limit := none })
             drops := s.drops.set d { Drop.frameTaken n x with
               line := .guard, expiryHeld := false, service := none } })))

/-- A valid drop frame that matches nothing is a stray: counted, its buffer freed, and nothing else; in RECEIVING the
drop is LISTENING again, or the held expiry is taken; elsewhere the drop is in GUARD (R84, R86, R87). A time already
passed counts as now, which is the model's choice, log entry 3. -/
def Obligations.StrayDropped : Prop :=
  ∀ (s : State) (d : DropId) (b : BufId) (c : List Byte) (x : Drop) (u : Drop) (time n : Nat), s.dropUnit d = x →
    DropFrameEnds s d b c → (∀ t e st, ¬ Matches s d c t e st) → n = max s.now time →
    u = { Drop.frameTaken n x with counters := { x.counters with strays := bump x.counters.strays } } →
    (¬ ExpiryWaits s d → exec (.eofReceived ⟨.drop d, time⟩) s = .next { s with
      now := n
      pool := s.pool.freed b
      drops := s.drops.set d { u with line := if x.line = .receiving then .listening else u.line } })
    ∧ (ExpiryWaits s d → exec (.eofReceived ⟨.drop d, time⟩) s = .next (State.takeExpiry { s with
      now := n
      pool := s.pool.freed b
      drops := s.drops.set d u } d))

/-- Closure without answer and the counts it moves. (1) A miss count set derives the liveness anew: PRESENT at 0, SILENT
below the threshold, DOWN from it on; a move into or out of DOWN makes the probe count 0 and the station joins the
notice set, and no other move does either (R38, R41, R44). (2) What each closure without answer moves in the station's
entry (R39, R45, R123): SILENT and FETCH LIMIT raise the miss count to at most 15 and the failed count; DROP DISABLED
and DROP FAULT the failed count; the others nothing. (3) A closure without answer, in one step: the request buffer
carries the CLOSURE and is held by its upstream position alone, the queue item or in-service slot is given up, the
station's counts move, and the record is FREE (R28, R29, R120, R122). (4) The codes of the closure reasons (Format
Reference, Report Bodies). -/
def Obligations.ClosureWithoutAnswer : Prop :=
  (∀ (st : Station) (threshold miss : Nat),
     (miss = 0 → (st.setMiss threshold miss).liveness = .present)
     ∧ (0 < miss → miss < threshold → (st.setMiss threshold miss).liveness = .silent)
     ∧ (0 < miss → threshold ≤ miss → (st.setMiss threshold miss).liveness = .down)
     ∧ st.setMiss threshold miss = { st with
         miss := miss
         liveness := (st.setMiss threshold miss).liveness
         probe := if (st.liveness = .down ↔ (st.setMiss threshold miss).liveness = .down) then st.probe else 0
         noticePending :=
           if (st.liveness = .down ↔ (st.setMiss threshold miss).liveness = .down) then st.noticePending else true })
    ∧ (∀ (st : Station) (threshold : Nat), st.miss ≤ 15 → st.failed ≤ 65535 →
         (∀ r, r = .silent ∨ r = .fetchLimit → st.closed threshold r
           = { st.setMiss threshold (min (st.miss + 1) 15) with failed := min (st.failed + 1) 65535 })
         ∧ (∀ r, r = .dropDisabled ∨ r = .dropFault → st.closed threshold r
           = { st with failed := min (st.failed + 1) 65535 })
         ∧ ∀ r, r = .cancelled ∨ r = .removed ∨ r = .stationDown → st.closed threshold r = st)
    ∧ (∀ (s : State) (t : Tag) (e : Exchange) (r : ClosureReason) (c : List Byte), s.exchange t = some e →
         s.pool.buffers[e.buffer]
           = some { content := c, count := if e.state = .deferred ∨ e.state = .fetchDue then 1 else 2 } →
         s.closeExchange t r = { s with
           pool := s.pool.held e.buffer (frame 0x00#8 e.station 0x31#8 e.seq
             [r.code, Byte.ofNat (if e.state = .queued then 0 else e.attempts), Byte.ofNat e.fetches]) 1
           stations := s.stations.map (fun st =>
             if st.address = e.station then st.closed s.settings.downThreshold r else st)
           exchanges := s.exchanges.set t none
           upstream := s.upstream.joined e.cls e.buffer
           drops :=
             if e.state = .deferred ∨ e.state = .fetchDue then s.drops
             else if e.state = .queued then s.drops.set e.drop { s.dropUnit e.drop with
               queue := (s.dropUnit e.drop).queue.filter (fun it => it.work ≠ .exchange t) }
             else s.drops.set e.drop { s.dropUnit e.drop with service := none, expiryHeld := false } })
    ∧ [ClosureReason.silent, .fetchLimit, .stationDown, .cancelled, .removed, .dropDisabled, .dropFault].map
        ClosureReason.code = [0x01#8, 0x02#8, 0x03#8, 0x04#8, 0x05#8, 0x06#8, 0x07#8]

/-! ### A drop's work (R17, R29, R72 to R82, R87 to R94, R103, R107, R109 to R114) -/

/-- What an IDLE drop chooses. (1) The fetch candidate is FETCH DUE on its drop, no other such exchange expired before
it, and of those that expired with it it has the lowest tag; there is none only when no exchange of the drop is FETCH
DUE (R77, R112). (2) An IDLE drop's choice (R76, R77): the one candidate present; of both, the fetch when the flag shows
queue and the queue head when it shows fetch; with none it stays. A drop not IDLE chooses nothing, and one whose
transmitter still sends the ABT of a restart chooses nothing yet (log entry 10). (3) IDLE entered, whatever work waits:
the pending rate is applied and absent (R76, R78), and where it is a change a frame being assembled is abandoned and
counted and the measures restart (R3); then the drop chooses by (2). A pending rate equal to the rate in force is no
change. -/
def Obligations.WorkChosen : Prop :=
  (∀ (s : State) (d : DropId),
     (∀ t, s.fetchCandidate d = some t → ∃ e, s.exchange t = some e ∧ e.drop = d ∧ e.state = .fetchDue
       ∧ ∀ u f, s.exchange u = some f → f.drop = d → f.state = .fetchDue →
           e.dueSince.getD 0 < f.dueSince.getD 0 ∨ (e.dueSince.getD 0 = f.dueSince.getD 0 ∧ t ≤ u))
     ∧ (s.fetchCandidate d = none → ∀ u f, s.exchange u = some f → ¬ (f.drop = d ∧ f.state = .fetchDue)))
    ∧ (∀ (s : State) (d : DropId) (x : Drop), s.dropUnit d = x →
         (x.line ≠ .idle ∨ x.tx ≠ .idle → s.chooseWork d = s)
         ∧ (x.line = .idle → x.tx = .idle →
           (s.fetchCandidate d = none → x.queue = [] → s.chooseWork d = s)
           ∧ (∀ it rest, s.fetchCandidate d = none → x.queue = it :: rest → s.chooseWork d = s.startItem d it rest)
           ∧ (∀ t, s.fetchCandidate d = some t → (x.queue = [] ∨ x.alternation = .queue) → s.chooseWork d =
               s.startFetch d t)
           ∧ (∀ t it rest, s.fetchCandidate d = some t → x.queue = it :: rest → x.alternation = .fetch →
               s.chooseWork d = s.startItem d it rest)))
    ∧ (∀ (s : State) (d : DropId) (x : Drop), s.dropUnit d = x →
         (x.pendingRate = none ∨ x.pendingRate = some x.rate → s.enterIdle d
           = State.chooseWork { s with drops := s.drops.set d { x with line := .idle, pendingRate := none } } d)
         ∧ (∀ r, x.pendingRate = some r → r ≠ x.rate → x.rx.state ≠ .assemble →
           s.enterIdle d = State.chooseWork { s with drops := s.drops.set d { x with
             line := .idle, pendingRate := none, rate := r, rx := Receiver.emptied .hunt, lastChar := s.now
             breakSince := x.breakSince.map (fun _ => s.now) } } d)
         ∧ ∀ r b, x.pendingRate = some r → r ≠ x.rate → x.rx.state = .assemble → x.rx.slot = some b →
           s.enterIdle d = State.chooseWork { s with
             pool := s.pool.release b
             drops := s.drops.set d { x with
               line := .idle, pendingRate := none, rate := r, rx := Receiver.emptied .hunt, lastChar := s.now
               breakSince := x.breakSince.map (fun _ => s.now)
               counters := { x.counters with badFrames := bump x.counters.badFrames } } } d)

/-- What it then sends. (1) SENDING entered with a frame: the receiver is held in HUNT, a frame it was assembling is
dropped and counted a bad frame, the break measure stops, and the transmitter sends at the drop's rate from now (R15,
R17, R90). (2) A fetch taken: the record is FETCHING with no deadline, the in-service slot holds the request buffer too,
the flag shows fetch, and the FETCH of R80 is sent from the record (R77, R80, R113). (3) The queue head taken: it is in
service with its hold, the flag shows queue, and its frame is sent: a request or a station notice with DEST the line
address and CHECK anew, a broadcast as it stands (R18, R77, R79, R81). (4) The line address of a station is its alias
where it has one, and otherwise its address (R37). -/
def Obligations.WorkStarted : Prop :=
  (∀ (s : State) (d : DropId) (src : TxSource) (x y : Drop), s.dropUnit d = x →
     y = { x with
       line := .sending, rx := Receiver.emptied .hunt, tx := .sending src x.rate s.now, breakSince := none } →
     (x.rx.state ≠ .assemble → s.startSending d src = { s with drops := s.drops.set d y })
     ∧ ∀ b, x.rx.state = .assemble → x.rx.slot = some b → s.startSending d src = { s with
         pool := s.pool.release b
         drops := s.drops.set d { y with counters := { x.counters with badFrames := bump x.counters.badFrames } } })
    ∧ (∀ (s : State) (d : DropId) (t : Tag) (e : Exchange) (st : Station) (c : List Byte), s.exchange t = some e →
         s.station e.station = some st → s.pool.buffers[e.buffer] = some { content := c, count := 1 } →
         s.startFetch d t = State.startSending { s with
           pool := s.pool.held e.buffer c 2
           exchanges := s.exchanges.set t (some { e with state := .fetching, deadline := none, dueSince := none })
           drops := s.drops.set d { s.dropUnit d with
             alternation := .fetch, service := some { work := .exchange t, cls := e.cls, buffer := e.buffer } } } d
           (.fetch (frame st.lineAddress 0x00#8 0x12#8 e.seq [])))
    ∧ (∀ (s : State) (d : DropId) (it : Item) (rest : List Item) (c : List Byte) (n : Nat) (x : Drop),
         s.pool.buffers[it.buffer] = some { content := c, count := n } →
         x = { s.dropUnit d with queue := rest, service := some it, alternation := .queue } →
         (∀ t e st, it.work = .exchange t → s.exchange t = some e → s.station e.station = some st →
           s.startItem d it rest = State.startSending { s with
             pool := s.pool.held it.buffer (rewriteDest c st.lineAddress) n
             exchanges := s.exchanges.set t (some { e with state := .sending })
             drops := s.drops.set d x } d (.pool it.buffer))
         ∧ (∀ a st, it.work = .notice a → a ≠ 0xFF#8 → s.station a = some st →
           s.startItem d it rest = State.startSending { s with
             pool := s.pool.held it.buffer (rewriteDest c st.lineAddress) n
             drops := s.drops.set d x } d (.pool it.buffer))
         ∧ (it.work = .notice 0xFF#8 →
           s.startItem d it rest = State.startSending { s with drops := s.drops.set d x } d (.pool it.buffer)))
    ∧ (∀ st : Station, st.lineAddress = st.aliasAddr.getD st.address)

/-- The EOF of an exchange's frame opens its window. (1) The EOF of a request: counted, the exchange is AWAITING until
the window read from its entry now has passed, the retry limit read now is kept with it, and the drop is LISTENING (R79,
R103). The EOF comes no earlier than the frame takes (R17). (2) The EOF of a FETCH: counted on the drop and in the
record, the window and the fetch limit read now, LISTENING (R80, R113). A time already passed counts as now, which is
the model's choice, log entry 3. -/
def Obligations.WindowOpened : Prop :=
  (∀ (s : State) (d : DropId) (x : Drop) (src : TxSource) (r : Rate) (began n : Nat) (t : Tag) (e : Exchange) (st :
      Station),
     s.dropUnit d = x → x.line = .sending → x.tx = .sending src r began → x.mode = .enabled → x.serving = some t →
     s.exchange t = some e → e.state ≠ .fetching → e.removal = .none → s.station e.station = some st →
     n = max s.now (began + (lineCharacters (s.sourceContent src)).length * charTime r) →
     exec (.dropEofSent d) s = .next (State.arbitrate { s with
       now := n
       exchanges := s.exchanges.set t (some { e with
         state := .awaiting, deadline := some (n + 576 * st.window), limit := some st.retryLimit })
       drops := s.drops.set d { x with
         line := .listening, tx := .idle, expiryHeld := false, lastChar := n
         breakSince := if x.rxSpace = true ∧ s.image.config ≠ .loading then some n else none
         counters := { x.counters with sent := bump x.counters.sent } } }))
    ∧ (∀ (s : State) (d : DropId) (x : Drop) (src : TxSource) (r : Rate) (began n : Nat) (t : Tag) (e : Exchange) (st
        : Station),
         s.dropUnit d = x → x.line = .sending → x.tx = .sending src r began → x.mode = .enabled → x.serving = some t →
         s.exchange t = some e → e.state = .fetching → e.removal = .none → s.station e.station = some st →
         n = max s.now (began + (lineCharacters (s.sourceContent src)).length * charTime r) →
         exec (.dropEofSent d) s = .next (State.arbitrate { s with
           now := n
           exchanges := s.exchanges.set t (some { e with
             fetches := e.fetches + 1, deadline := some (n + 576 * st.window), limit := some st.fetchLimit })
           drops := s.drops.set d { x with
             line := .listening, tx := .idle, expiryHeld := false, lastChar := n
             breakSince := if x.rxSpace = true ∧ s.image.config ≠ .loading then some n else none
             counters := { x.counters with sent := bump x.counters.sent } } }))

/-- Other ends of a transmission. (1) The EOF of a notice: counted, its hold released, nothing in service; the drop is
in GUARD, or enters DISABLED where a disable waited for the EOF (R81, R93). (2) The EOF of an exchange's frame while a
disable or a forced removal waits for it: counted, and a FETCH in the record; a removal closes the exchange REMOVED and
the drop is in GUARD; a disable makes the drop DISABLED and closes and discards all its work, the exchange in service
with the reason of the claim taken first (R29, R88, R91, R93); the arbiter's one choice comes after all the CLOSUREs
have joined, which is the model's reading, log entry 9. (3) DISABLED entered: the receiver is held in HUNT, a frame it
was assembling dropped uncounted, a held expiry dropped, and the work closed and discarded, the exchange in service with
the reason given (R15, R91, R93). (4) The ABT of a restart sent, no earlier than the character finished and the ABT
take: the transmitter is idle; the trunk's arbiter chooses, and a drop that has work chooses it (R20, log entry 10). A
time already passed counts as now, which is the model's choice, log entry 3. -/
def Obligations.SendingEnded : Prop :=
  (∀ (s : State) (d : DropId) (x : Drop) (src : TxSource) (r : Rate) (began n : Nat) (a : Byte) (it : Item) (v : Drop)
      (u : State),
     s.dropUnit d = x → x.line = .sending → x.tx = .sending src r began → x.service = some it → it.work = .notice a →
     n = max s.now (began + (lineCharacters (s.sourceContent src)).length * charTime r) →
     v = { x with
       tx := .idle, service := none, expiryHeld := false, lastChar := n
       breakSince := if x.rxSpace = true ∧ s.image.config ≠ .loading then some n else none
       counters := { x.counters with sent := bump x.counters.sent } } →
     u = { s with now := n, pool := s.pool.release it.buffer, drops := s.drops.set d v } →
     (x.mode = .enabled → exec (.dropEofSent d) s
       = .next (State.arbitrate { u with drops := s.drops.set d { v with line := .guard } }))
     ∧ (x.mode = .disabled → exec (.dropEofSent d) s = .next (u.enterDisabled d .dropDisabled).arbitrate))
    ∧ (∀ (s : State) (d : DropId) (x : Drop) (src : TxSource) (r : Rate) (began n : Nat) (t : Tag) (e : Exchange) (u :
        State),
         s.dropUnit d = x → x.line = .sending → x.tx = .sending src r began → x.serving = some t → s.exchange t = some
             e →
         n = max s.now (began + (lineCharacters (s.sourceContent src)).length * charTime r) →
         u = { s with
           now := n
           exchanges := s.exchanges.set t
             (some { e with fetches := if e.state = .fetching then e.fetches + 1 else e.fetches })
           drops := s.drops.set d { x with
             tx := .idle, lastChar := n
             breakSince := if x.rxSpace = true ∧ s.image.config ≠ .loading then some n else none
             counters := { x.counters with sent := bump x.counters.sent } } } →
         (x.mode = .enabled → e.removal ≠ .none → exec (.dropEofSent d) s
           = .next ((u.closeExchange t .removed).mapDrop d (fun y => { y with line := .guard })).arbitrate)
         ∧ (x.mode = .disabled → e.removal = .waiting → exec (.dropEofSent d) s = .next (u.enterDisabled d
             .removed).arbitrate)
         ∧ (x.mode = .disabled → e.removal ≠ .waiting → exec (.dropEofSent d) s
           = .next (u.enterDisabled d .dropDisabled).arbitrate))
    ∧ (∀ (s : State) (d : DropId) (r : ClosureReason), s.enterDisabled d r = State.closeWork { s with
           pool := match (s.dropUnit d).rx.state, (s.dropUnit d).rx.slot with
             | .assemble, some b => s.pool.release b
             | _, _ => s.pool
           drops := s.drops.set d { s.dropUnit d with
             line := .disabled, rx := Receiver.emptied .hunt, expiryHeld := false } } d r .dropDisabled)
    ∧ (∀ (s : State) (last : Byte) (r : Rate) (began time n : Nat),
         n = max (max s.now time) (began + 2 * charTime r) →
         (s.trunk.tx = .aborting last r began → exec (.abtSent ⟨.trunk, time⟩) s
           = .next (State.arbitrate { s with now := n, trunk := { s.trunk with tx := .idle } }))
         ∧ ∀ (d : DropId) (x : Drop), s.dropUnit d = x → x.tx = .aborting last r began →
           exec (.abtSent ⟨.drop d, time⟩) s = .next (State.chooseWork { s with
             now := n, drops := s.drops.set d { x with tx := .idle, lastChar := n } } d))

/-- WINDOW_EXPIRY. (1) In RECEIVING the window expiry is held; in LISTENING it is taken at once (R87). (2) A window
expiry taken: timeouts counted, GUARD; then, in order, a cancelled exchange closes CANCELLED; a FETCHING one closes
FETCH LIMIT at its limit and otherwise enters DEFERRED; an attempt within the retry limit stays in service with no
deadline, and otherwise closes SILENT. A guard time already over ends in the same step (R87, R89, R107, R114). The
arbiter's one choice comes after a CLOSURE and its station have joined, which is the model's reading, log entry 9. (3)
DEFERRED entered: the deadline is the fetch interval, in units of 10 ms, from now, and the in-service slot gives up its
hold (R110). (4) The end of a guard time (R82, R89, R109): IDLE with nothing in service, a cancelled retry closed
CANCELLED first, and otherwise the retry sent, one attempt higher. A time already passed counts as now, which is the
model's choice, log entry 3. -/
def Obligations.WindowExpires : Prop :=
  (∀ (s : State) (d : DropId) (x : Drop) (t : Tag) (e : Exchange) (w : Nat), s.dropUnit d = x → x.serving = some t →
     s.exchange t = some e → e.deadline = some w →
     (x.line = .receiving → exec (.windowExpiry d) s = .next { s with
       now := max s.now w, drops := s.drops.set d { x with expiryHeld := true } })
     ∧ (x.line = .listening → exec (.windowExpiry d) s = .next (State.takeExpiry { s with now := max s.now w } d)))
    ∧ (∀ (s : State) (d : DropId) (x : Drop) (t : Tag) (e : Exchange) (u v : State), s.dropUnit d = x →
         x.serving = some t → s.exchange t = some e →
         u = { s with
           drops := s.drops.set d { x with
             line := .guard, expiryHeld := false
             counters := { x.counters with timeouts := bump x.counters.timeouts } } } →
         v = (if e.cancelPending = true then u.closeExchange t .cancelled
           else if e.state = .fetching then
             if e.limit.getD 0 ≤ e.fetches then u.closeExchange t .fetchLimit else u.deferExchange t
           else if e.attempts ≤ e.limit.getD 0 then
             { u with exchanges := u.exchanges.set t (some { e with deadline := none, limit := none }) }
           else u.closeExchange t .silent) →
         ((v.dropUnit d).line = .guard ∧ (v.dropUnit d).lastChar + 4 * charTime (v.dropUnit d).rate ≤ v.now →
           s.takeExpiry d = (v.endGuard d).arbitrate)
         ∧ (v.now < (v.dropUnit d).lastChar + 4 * charTime (v.dropUnit d).rate → s.takeExpiry d = v.arbitrate))
    ∧ (∀ (s : State) (t : Tag) (e : Exchange) (st : Station), s.exchange t = some e → s.station e.station = some st →
         s.deferExchange t = { s with
           pool := s.pool.release e.buffer
           exchanges := s.exchanges.set t (some { e with
             state := .deferred, deadline := some (s.now + 576 * 10 * st.fetchInterval), limit := none })
           drops := s.drops.set e.drop { s.dropUnit e.drop with service := none, expiryHeld := false } })
    ∧ (∀ (s : State) (d : DropId),
         ((s.dropUnit d).serving = none → s.endGuard d = s.enterIdle d)
         ∧ ∀ t e, (s.dropUnit d).serving = some t → s.exchange t = some e →
           (e.cancelPending = true → s.endGuard d = (s.closeExchange t .cancelled).enterIdle d)
           ∧ (e.cancelPending = false → s.endGuard d = State.startSending { s with
             exchanges := s.exchanges.set t
               (some { e with state := .sending, attempts := e.attempts + 1, deadline := none }) } d (.pool e.buffer)))

/-- GUARD_END and DEADLINE_EXPIRY. (1) The end of the guard time sends a pending retry: the attempt count rises by one
and the request buffer is sent as it stands (R82, R109). (2) The end of the guard time otherwise enters IDLE; a retry
cancelled meanwhile first closes CANCELLED (R89, R109). (3) A DEFERRED exchange whose deadline expires is FETCH DUE
since that deadline, and its drop chooses if it is IDLE (R111, R112); that the deadline itself is kept, however late the
expiry is reported, is the model's reading, log entry 17. A time already passed counts as now, which is the model's
choice, log entry 3. -/
def Obligations.GuardAndDeadline : Prop :=
  (∀ (s : State) (d : DropId) (x : Drop) (t : Tag) (e : Exchange), s.dropUnit d = x → x.line = .guard →
     x.serving = some t → s.exchange t = some e → e.cancelPending = false →
     exec (.guardEnd d) s = .next (State.arbitrate (State.startSending { s with
       now := max s.now (x.lastChar + 4 * charTime x.rate)
       exchanges := s.exchanges.set t
         (some { e with state := .sending, attempts := e.attempts + 1, deadline := none }) } d (.pool e.buffer))))
    ∧ (∀ (s : State) (d : DropId) (x : Drop) (u : State), s.dropUnit d = x → x.line = .guard →
         u = { s with now := max s.now (x.lastChar + 4 * charTime x.rate) } →
         (x.serving = none → exec (.guardEnd d) s = .next (u.enterIdle d).arbitrate)
         ∧ ∀ t e, x.serving = some t → s.exchange t = some e → e.cancelPending = true →
           exec (.guardEnd d) s = .next ((u.closeExchange t .cancelled).enterIdle d).arbitrate)
    ∧ (∀ (s : State) (t : Tag) (e : Exchange) (w : Nat), s.exchange t = some e → e.state = .deferred → e.deadline =
        some w →
         exec (.deadlineExpiry t) s = .next (State.chooseWork { s with
           now := max s.now w
           exchanges := s.exchanges.set t (some { e with
             state := .fetchDue, deadline := none, dueSince := some w }) } e.drop))

/-- DROP_FAULT and DROP_RECOVERY. (1) A break measure that reaches 64 character times puts the drop in FAULT from every
line state but SENDING and FAULT: the frame being assembled is dropped uncounted, the marking measure is at 0, the work
closes DROP FAULT, and FLT is low (R90); the arbiter's one choice comes after all the CLOSUREs and stations have joined,
which is the model's reading, log entry 9. (2) 256 character times of mark end a FAULT: DISABLED where the mode is
DISABLED, otherwise IDLE with the pending rate applied and a choice; the marking measure stops, the break measure starts
anew, and FLT is high if no other drop is in FAULT and low otherwise (R92). A time already passed counts as now, which
is the model's choice, log entry 3. -/
def Obligations.FaultAndRecovery : Prop :=
  (∀ (s : State) (d : DropId) (x : Drop) (began : Nat), s.dropUnit d = x → x.breakSince = some began →
     x.line ≠ .sending → x.line ≠ .fault → s.image.config ≠ .loading → ∃ t,
     exec (.dropFault d) s = .next t ∧ t.flt = false ∧ (t.dropUnit d).mode = x.mode
       ∧ t = State.arbitrate (State.closeWork { s with
         now := max s.now (began + 64 * charTime x.rate)
         pool := match x.rx.state, x.rx.slot with
           | .assemble, some b => s.pool.release b
           | _, _ => s.pool
         drops := s.drops.set d { x with
           line := .fault, rx := Receiver.emptied .hunt, expiryHeld := false, breakSince := none, marking := .atSpace
               } }
         d .dropFault .dropFault))
    ∧ (∀ (s : State) (d : DropId) (x : Drop) (began : Nat) (u : State), s.dropUnit d = x → x.line = .fault →
         x.marking = .since began →
         u = { s with
           now := max s.now (began + 256 * charTime x.rate)
           drops := s.drops.set d { x with
             line := .disabled, marking := .stopped
             breakSince := if x.rxSpace = true then some (max s.now (began + 256 * charTime x.rate)) else none } } →
         (∀ t, exec (.dropRecovery d) s = .next t →
           (t.flt = true ↔ ∀ k : DropId, k ≠ d → (s.dropUnit k).line ≠ .fault))
         ∧ (x.mode = .disabled → exec (.dropRecovery d) s = .next u)
         ∧ (x.mode = .enabled → exec (.dropRecovery d) s = .next (u.enterIdle d)))

/-- A drop's work closed at a fault or a disable, in order: the exchange in service with its reason, the queue items
head first, the exchanges in DEFERRED or FETCH DUE by tag, these with the other reason (R91, R119). (1) It is these
endings one after another, and the queue empty. (2) So the records named are FREE and the others stay, nothing is left
in service or queued, the CLOSUREs stand in each upstream queue in that order (R128), and each station's counts have
moved once for its closure (R39, R45, R123). (3) Where holds are counted by places (R21, R28), each request buffer is
left with its CLOSURE, held by its upstream position alone (R122), and the free list has grown by the queued notices'
buffers alone, in queue order (R23). -/
def Obligations.WorkClosedInOrder : Prop :=
  ∀ (s t : State) (d : DropId) (x : Drop) (first rest : ClosureReason) (order : List Tag) (reason : Tag → ClosureReason),
    s.dropUnit d = x → WorkLaw s → t = s.closeWork d first rest →
    order = (s.endings d first rest).filterMap (fun w => match w with | .close t _ => some t | .discard _ => none) →
    reason = (fun t => if x.serving = some t then first else rest) →
    t = ((s.endings d first rest).foldl State.endOne s).mapDrop d (fun y => { y with queue := [] })
      ∧ ((t.dropUnit d).queue = [] ∧ (x.service = none ∨ x.serving.isSome = true → (t.dropUnit d).service = none)
        ∧ (∀ k, k ∈ order → t.exchange k = none) ∧ (∀ k, k ∉ order → t.exchange k = s.exchange k)
        ∧ t.upstream = { s.upstream with
            urgent := s.upstream.urgent ++ (order.filterMap s.exchange).filterMap
              (fun e => if e.cls = .urgent then some e.buffer else none)
            routine := s.upstream.routine ++ (order.filterMap s.exchange).filterMap
              (fun e => if e.cls = .routine then some e.buffer else none) }
        ∧ t.stations = s.stations.map (fun st => order.foldl (fun y k =>
            if (s.exchange k).map Exchange.station = some y.address then y.closed s.settings.downThreshold (reason k)
            else y) st))
      ∧ (PoolLaw s → HoldLaw s → RequestLaw s →
        (∀ k e, k ∈ order → s.exchange k = some e → t.pool.buffers[e.buffer] = some {
            content := frame 0x00#8 e.station 0x31#8 e.seq [(reason k).code,
              Byte.ofNat (if e.state = .queued then 0 else e.attempts), Byte.ofNat e.fetches]
            count := 1 })
        ∧ t.pool.free = ((x.queue.filter (fun it => ∃ a, it.work = .notice a)).foldl
            (fun p it => p.release it.buffer) s.pool).free)

/-! ### Toward the line controller (R128 to R136, R147, R161) -/

/-- The arbiter's choice (R131 to R134). While the trunk transmitter sends, none. Otherwise, in order: the routine head
once the run counter is at the limit; the urgent head; a STATE report for the lowest address in the notice set; the
routine head; nothing. The run counter rises, to at most 8, with an urgent frame or a STATE, and is 0 after a routine
frame. The frame goes at the trunk rate in force (R135), and the first one after a restart, its RESULT, at the rate kept
for it, the one in force before the restart (R141, R162). -/
def Obligations.ArbiterChoice : Prop :=
  ∀ (s : State) (late : Prop), (late ↔ s.upstream.routine ≠ [] ∧ s.settings.urgentLimit ≤ s.upstream.run) →
    (s.trunk.tx ≠ .idle → s.arbitrate = s)
    ∧ (s.trunk.tx = .idle →
      (∀ r rest, s.upstream.routine = r :: rest →
        (late ∨ (s.upstream.urgent = [] ∧ ∀ y ∈ s.stations, y.noticePending = false)) →
        s.arbitrate = { s with
          upstream := { s.upstream with routine := rest, run := 0 }
          trunk := { s.trunk with
            tx := .sending (.pool r) (s.trunk.keptRate.getD s.trunk.rate) s.now, keptRate := none } })
      ∧ (∀ r rest, s.upstream.urgent = r :: rest → ¬ late →
        s.arbitrate = { s with
          upstream := { s.upstream with
            urgent := rest, run := if s.upstream.run < 8 then s.upstream.run + 1 else s.upstream.run }
          trunk := { s.trunk with
            tx := .sending (.pool r) (s.trunk.keptRate.getD s.trunk.rate) s.now, keptRate := none } })
      ∧ (∀ st, TableShape s → st ∈ s.stations → st.noticePending = true →
        (∀ y ∈ s.stations, y.noticePending = true → st.address.toNat ≤ y.address.toNat) →
        s.upstream.urgent = [] → ¬ late →
        s.arbitrate = { s with
          stations := s.stations.map (fun y => if y.address = st.address then { y with noticePending := false } else y)
          upstream := { s.upstream with
            notice := some (frame 0x00#8 s.settings.ownAddress 0x32#8 s.upstream.report
              [st.address, st.liveness.code, Byte.ofNat st.miss])
            report := s.upstream.report + 1
            run := if s.upstream.run < 8 then s.upstream.run + 1 else s.upstream.run }
          trunk := { s.trunk with
            tx := .sending .notice (s.trunk.keptRate.getD s.trunk.rate) s.now, keptRate := none } })
      ∧ (s.upstream.urgent = [] → s.upstream.routine = [] → (∀ y ∈ s.stations, y.noticePending = false) →
        s.arbitrate = s))

/-- TRUNK_EOF_SENT. (1) The EOF of a frame sent on the trunk (R136): the transmitter is idle; a STATE's end frees the
notice buffer; a pool buffer's hold is released, and if it is the RESULT the replay slot holds, the slot is HELD and the
pending own address and trunk rate fall due (R147, R161); then the arbiter chooses. (2) A trunk rate falling due (R3): a
frame being assembled is abandoned and counted broken, the receiver is in HUNT, and the transmitter keeps what it sends;
a rate equal to the one in force is no change (log entry 12). A time already passed counts as now, which is the model's
choice, log entry 3. -/
def Obligations.TrunkFrameSent : Prop :=
  (∀ (s : State) (src : TxSource) (r : Rate) (began : Nat) (u : State), s.trunk.tx = .sending src r began →
     u = { s with
       now := max s.now (began + (lineCharacters (s.sourceContent src)).length * charTime r)
       trunk := { s.trunk with tx := .idle } } →
     (src = .notice → exec .trunkEofSent s
       = .next (State.arbitrate { u with upstream := { s.upstream with notice := none } }))
     ∧ ∀ b, src = .pool b →
       (s.mgmt.slot.buffer ≠ some b → exec .trunkEofSent s = .next (State.arbitrate { u with pool := s.pool.release b
           }))
       ∧ ∀ q v, (s.mgmt.slot = .held q b ∨ ∃ w, s.mgmt.slot = .inFlight q b w) →
         v = { u with
           pool := s.pool.release b
           settings := { s.settings with ownAddress := s.mgmt.pendingAddress.getD s.settings.ownAddress }
           mgmt := { s.mgmt with slot := .held q b, pendingAddress := none, pendingRate := none } } →
         (s.mgmt.pendingRate = none → exec .trunkEofSent s = .next v.arbitrate)
         ∧ ∀ rate, s.mgmt.pendingRate = some rate → exec .trunkEofSent s = .next (v.trunkRateDue rate).arbitrate)
    ∧ (∀ (s : State) (r : Rate),
         (r = s.trunk.rate → s.trunkRateDue r = s)
         ∧ (r ≠ s.trunk.rate → s.trunk.rx.state ≠ .assemble → s.trunkRateDue r
           = { s with trunk := { s.trunk with rate := r, rx := Receiver.emptied .hunt } })
         ∧ ∀ b, r ≠ s.trunk.rate → TrunkAssembles s b → s.trunkRateDue r = { s with
             pool := s.pool.release b
             trunk := { s.trunk with
               rate := r, rx := Receiver.emptied .hunt
               counters := { s.trunk.counters with broken := bump s.trunk.counters.broken } } })

/-! ### Management (R115, R142 to R168) -/

/-- A REQUEST to the own address whose SEQ is the slot's is a duplicate: its buffer is freed, and a HELD RESULT that is
not upstream is queued again (R58, R145). A time already passed counts as now, which is the model's choice, log entry 3.
-/
def Obligations.DuplicateRequest : Prop :=
  ∀ (s : State) (time : Nat) (b : BufId) (c : List Byte), TrunkFrameEnds s b c → srcOf c = 0x00#8 → kindOf c = 0x10#8 →
    destOf c = s.settings.ownAddress →
    (∀ r w, s.mgmt.slot = .inFlight (seqOf c) r w → exec (.eofReceived ⟨.trunk, time⟩) s
      = .next (State.arbitrate { trunkTaken time s with pool := s.pool.freed b }))
    ∧ (∀ r, s.mgmt.slot = .held (seqOf c) r →
      (r ∈ s.upstream.urgent ∨ ∃ rate began, s.trunk.tx = .sending (.pool r) rate began) →
      exec (.eofReceived ⟨.trunk, time⟩) s = .next (State.arbitrate { trunkTaken time s with pool := s.pool.freed b }))
    ∧ (∀ r, s.mgmt.slot = .held (seqOf c) r → r ∉ s.upstream.urgent →
      (∀ rate began, s.trunk.tx ≠ .sending (.pool r) rate began) →
      exec (.eofReceived ⟨.trunk, time⟩) s = .next (State.arbitrate { trunkTaken time s with
        pool := (s.pool.freed b).hold r
        upstream := s.upstream.joined .urgent r }))

/-- A new request. (1) A new management request (R58, R142, R143, R146, R148): the slot turns over to it; the first test
that fails gives the result code; an operation that passes is carried out; the RESULT is written in the request's buffer
and joins the urgent queue. STORE IMAGE writes none yet (R163), and RESTART writes its own (R165, R166). The arbiter's
one choice comes after the CLOSUREs and stations of the operation and the RESULT have joined, which is the model's
reading, log entry 9. (2) An operation that changes something is carried out by the block that owns what it changes, and
its RESULT has no data (R143). (3) The codes of the results (R149, Format Reference). A time already passed counts as
now, which is the model's choice, log entry 3. -/
def Obligations.NewRequest : Prop :=
  (∀ (s : State) (time : Nat) (b : BufId) (c body : List Byte) (u : State)
      (result : State → ResultCode → Byte → List Byte → State),
     TrunkFrameEnds s b c → srcOf c = 0x00#8 → kindOf c = 0x10#8 → destOf c = s.settings.ownAddress →
     s.mgmt.slot.seq ≠ some (seqOf c) → body = (c.take (c.length - 2)).drop 5 →
     u = { trunkTaken time s with
       pool := match s.mgmt.slot.buffer with
         | none => s.pool
         | some old => s.pool.release old
       mgmt := { s.mgmt with slot := .inFlight (seqOf c) b false } } →
     result = (fun v code op data => { v with
       pool := (v.pool.write b (frame 0x00#8 v.settings.ownAddress 0x33#8 (seqOf c) (code.code :: op :: data))).hold b
       upstream := v.upstream.joined .urgent b }) →
     (body = [] → exec (.eofReceived ⟨.trunk, time⟩) s = .next (result u .unknownOperation 0x00#8 []).arbitrate)
     ∧ ∀ op args, body = op :: args →
       ((op.toNat < 1 ∨ 0x0D < op.toNat) →
         exec (.eofReceived ⟨.trunk, time⟩) s = .next (result u .unknownOperation op []).arbitrate)
       ∧ (1 ≤ op.toNat → op.toNat ≤ 0x0D →
         (s.image.config = .loading → op ≠ 0x01#8 →
           exec (.eofReceived ⟨.trunk, time⟩) s = .next (result u .notReady op []).arbitrate)
         ∧ (s.image.config = .loading → op = 0x01#8 →
           exec (.eofReceived ⟨.trunk, time⟩) s = .next (result u .notReady op u.statusData).arbitrate)
         ∧ (s.image.config = .storing → op ∉ [0x01#8, 0x02#8, 0x03#8, 0x06#8, 0x07#8, 0x08#8, 0x0A#8] →
           exec (.eofReceived ⟨.trunk, time⟩) s = .next (result u .busy op []).arbitrate)
         ∧ ((s.image.config = .ready
               ∨ (s.image.config = .storing ∧ op ∈ [0x01#8, 0x02#8, 0x03#8, 0x06#8, 0x07#8, 0x08#8, 0x0A#8])) →
           (parseRequest op args = none →
             exec (.eofReceived ⟨.trunk, time⟩) s = .next (result u .badArgument op []).arbitrate)
           ∧ (∀ q, parseRequest op args = some q → q ≠ .storeImage → (∀ kind, q ≠ .restart kind) →
             exec (.eofReceived ⟨.trunk, time⟩) s
               = .next (result (u.carryOut q).1 (u.carryOut q).2.1 op (u.carryOut q).2.2).arbitrate)
           ∧ (parseRequest op args = some .storeImage →
             exec (.eofReceived ⟨.trunk, time⟩) s = .next (State.arbitrate { u with
               image := { s.image with config := .storing, store := some { image := u.storeImage, position := 0 } }
               mgmt := { s.mgmt with slot := .inFlight (seqOf c) b true, store := .running } }))
           ∧ (parseRequest op args = some (.restart .warm) →
             exec (.eofReceived ⟨.trunk, time⟩) s = .next (u.restartWarm (seqOf c)).arbitrate)
           ∧ (parseRequest op args = some (.restart .reload) →
             exec (.eofReceived ⟨.trunk, time⟩) s = .next (u.restartReload (seqOf c)).arbitrate))))
    ∧ (∀ s : State,
         (∀ a f, s.carryOut (.writeStation a f) = ((s.writeStation a f).1, (s.writeStation a f).2, []))
         ∧ (∀ a force, s.carryOut (.removeStation a force) = ((s.removeStation a force).1, (s.removeStation a
             force).2, []))
         ∧ (∀ a, s.carryOut (.cancelExchange a) = ((s.cancelExchange a).1, (s.cancelExchange a).2, []))
         ∧ (∀ d mode rate, s.carryOut (.setDrop d mode rate) = (s.setDrop d mode rate, .done, []))
         ∧ ∀ f, s.carryOut (.writeSettings f) = ((s.writeSettings f).1, (s.writeSettings f).2, []))
    ∧ [ResultCode.done, .cancelPending, .notReady, .busy, .noSuchStation, .tableFull, .inUse, .noExchange, .badArgument,
        .unknownOperation, .storeFailed].map ResultCode.code
      = [0x00#8, 0x01#8, 0x02#8, 0x03#8, 0x04#8, 0x05#8, 0x06#8, 0x07#8, 0x08#8, 0x09#8, 0x0A#8]

/-- Arguments. (1) The arguments of the thirteen operations (R148, R187): a wrong length, an undefined mask bit or a
coded value that is no code makes the request a BAD ARGUMENT, and nothing else does here. (2) The value bytes of a field
mask follow in ascending bit order, one for each bit set (R187, Format Reference). (3) The codes that the coded fields
of the two masks may hold (R187, R189), and the mask bit of every field. -/
def Obligations.RequestsRead : Prop :=
  (∀ (args : List Byte) (a b c : Byte),
     parseRequest 0x01#8 args = (if args = [] then some .readStatus else none)
     ∧ parseRequest 0x06#8 args = (if args = [] then some .readExchanges else none)
     ∧ parseRequest 0x0C#8 args = (if args = [] then some .storeImage else none)
     ∧ (args.length ≠ 1 → ∀ op ∈ [0x02#8, 0x03#8, 0x07#8, 0x08#8, 0x0D#8], parseRequest op args = none)
     ∧ parseRequest 0x02#8 [a] = some (.listStations a) ∧ parseRequest 0x03#8 [a] = some (.readStation a)
     ∧ parseRequest 0x07#8 [a] = some (.cancelExchange a)
     ∧ (∀ d : DropId, a.toNat = d.val → parseRequest 0x08#8 [a] = some (.readDrop d))
     ∧ (3 < a.toNat → parseRequest 0x08#8 [a] = none)
     ∧ parseRequest 0x0D#8 [a]
       = (if a = 0x01#8 then some (.restart .warm) else if a = 0x02#8 then some (.restart .reload) else none)
     ∧ (args.length ≠ 2 → parseRequest 0x05#8 args = none ∧ parseRequest 0x0A#8 args = none)
     ∧ parseRequest 0x05#8 [a, b] = (if b.toNat ≤ 1 then some (.removeStation a (decide (b = 0x01#8))) else none)
     ∧ (b.toNat ≤ 1 → (∀ d : DropId, a.toNat = d.val →
         parseRequest 0x0A#8 [a, b] = some (.readCounters (.drop d) (decide (b = 0x01#8))))
       ∧ (a = 0x04#8 → parseRequest 0x0A#8 [a, b] = some (.readCounters .trunk (decide (b = 0x01#8)))))
     ∧ (1 < b.toNat ∨ 4 < a.toNat → parseRequest 0x0A#8 [a, b] = none)
     ∧ (args.length ≠ 3 → parseRequest 0x09#8 args = none)
     ∧ (∀ d : DropId, a.toNat = d.val → (b.toNat ≤ 1 ∨ b = 0xFF#8) → (c.toNat ≤ 7 ∨ c = 0xFF#8) →
       ∃ mode rate, parseRequest 0x09#8 [a, b, c] = some (.setDrop d mode rate)
         ∧ mode = (if b = 0xFF#8 then none else if b = 0x01#8 then some Mode.enabled else some Mode.disabled)
         ∧ rate.map (fun r => r.val) = (if c = 0xFF#8 then none else some c.toNat))
     ∧ (3 < a.toNat ∨ (1 < b.toNat ∧ b ≠ 0xFF#8) ∨ (7 < c.toNat ∧ c ≠ 0xFF#8) → parseRequest 0x09#8 [a, b, c] = none)
     ∧ (args.length < 3 → parseRequest 0x04#8 args = none) ∧ parseRequest 0x0B#8 [] = none
     ∧ (∀ mask f, mask = b.toNat * 256 + c.toNat → f = stationFields mask args →
       parseRequest 0x04#8 (a :: b :: c :: args)
         = (if args.length = bitsBelow mask 11 ∧ mask < 2048 ∧ f.codesGood = true then some (.writeStation a f) else
             none))
     ∧ ∀ f, f = settingsFields a.toNat args →
       parseRequest 0x0B#8 (a :: args)
         = (if args.length = bitsBelow a.toNat 6 ∧ a.toNat < 64 ∧ f.codesGood = true then some (.writeSettings f) else
             none))
    ∧ (∀ (mask n : Nat) (vals : List Byte), vals.length = bitsBelow mask n →
         bitsBelow mask n = ((List.range n).filter mask.testBit).length
         ∧ (List.range n).filterMap (fieldAt mask vals) = vals
         ∧ ∀ k, k < n → ((fieldAt mask vals k).isSome = mask.testBit k))
    ∧ (∀ (f : StationFields) (g : SettingsFields) (mask : Nat) (vals : List Byte),
         (f.codesGood = true ↔ (∀ v, f.drop = some v → v.toNat ≤ 3) ∧ (∀ v, f.cls = some v → v.toNat ≤ 1)
           ∧ ∀ v, f.deferral = some v → v.toNat ≤ 1)
         ∧ (g.codesGood = true ↔ (∀ v, g.trunkRate = some v → v.toNat ≤ 7) ∧ ∀ v, g.refuseUnknown = some v → v.toNat ≤ 1)
         ∧ stationFields mask vals = {
             drop := fieldAt mask vals 0, aliasAddr := fieldAt mask vals 1, cls := fieldAt mask vals 2
             window := fieldAt mask vals 3, retryLimit := fieldAt mask vals 4, deferral := fieldAt mask vals 5
             fetchInterval := fieldAt mask vals 6, fetchLimit := fieldAt mask vals 7, miss := fieldAt mask vals 8
             done := fieldAt mask vals 9, failed := fieldAt mask vals 10 }
         ∧ settingsFields mask vals = {
             ownAddress := fieldAt mask vals 0, trunkRate := fieldAt mask vals 1, refuseUnknown := fieldAt mask vals 2
             downThreshold := fieldAt mask vals 3, probeRatio := fieldAt mask vals 4
             urgentLimit := fieldAt mask vals 5 })

/-- CANCEL EXCHANGE and SET DROP. (1) CANCEL EXCHANGE (R115): NO EXCHANGE without an OPEN record for the address; cancel
pending on the line; closed CANCELLED at once off it. (2) SET DROP (R78, R93, R94, R159): a disable leaves a DISABLED,
FAULT or SENDING line as it is and otherwise makes it DISABLED and closes its work; an enable takes a DISABLED line to
IDLE and changes no other line; a rate is pending, and applied at once when the line is IDLE. That an enable while
SENDING gives a removal taken after the disable its own reason back (R29) is the model's reading, log entry 16. -/
def Obligations.CancelAndSetDrop : Prop :=
  (∀ (s : State) (a : Byte),
     ((∀ t e, s.exchange t = some e → e.station ≠ a) → s.cancelExchange a = (s, .noExchange))
     ∧ (ExchangeLaw s → ∀ t e, s.exchange t = some e → e.station = a →
       ((e.state = .queued ∨ e.state = .deferred ∨ e.state = .fetchDue) →
         s.cancelExchange a = (s.closeExchange t .cancelled, .done))
       ∧ ((e.state = .sending ∨ e.state = .awaiting ∨ e.state = .fetching) →
         s.cancelExchange a
           = ({ s with exchanges := s.exchanges.set t (some { e with cancelPending := true }) }, .cancelPending))))
    ∧ (∀ (s : State) (d : DropId) (x : Drop), s.dropUnit d = x →
         (x.line = .disabled ∨ x.line = .fault ∨ x.line = .sending →
           s.disableDrop d = { s with drops := s.drops.set d { x with mode := .disabled } })
         ∧ (x.line = .idle ∨ x.line = .guard ∨ x.line = .listening ∨ x.line = .receiving →
           s.disableDrop d = State.closeWork { s with
             pool := match x.rx.state, x.rx.slot with
               | .assemble, some b => s.pool.release b
               | _, _ => s.pool
             drops := s.drops.set d { x with
               mode := .disabled, line := .disabled, rx := Receiver.emptied .hunt, expiryHeld := false } }
             d .dropDisabled .dropDisabled)
         ∧ (x.line = .disabled → s.enableDrop d
           = State.enterIdle { s with drops := s.drops.set d { x with mode := .enabled } } d)
         ∧ (x.line ≠ .disabled → x.line ≠ .sending → s.enableDrop d
           = { s with drops := s.drops.set d { x with mode := .enabled } })
         ∧ (x.line = .sending →
           (∀ t e, x.serving = some t → s.exchange t = some e → e.removal = .waitingAfterDisable →
             s.enableDrop d = { s with
               drops := s.drops.set d { x with mode := .enabled }
               exchanges := s.exchanges.set t (some { e with removal := .waiting }) })
           ∧ ((∀ t e, x.serving = some t → s.exchange t = some e → e.removal ≠ .waitingAfterDisable) →
             s.enableDrop d = { s with drops := s.drops.set d { x with mode := .enabled } }))
         ∧ (s.setDrop d none none = s
           ∧ (∀ r, s.setDrop d (some .disabled) (some r) = (s.disableDrop d).setPendingRate d r)
           ∧ (∀ r, s.setDrop d (some .enabled) (some r) = (s.enableDrop d).setPendingRate d r)
           ∧ (s.setDrop d (some .disabled) none = s.disableDrop d) ∧ (s.setDrop d (some .enabled) none = s.enableDrop d)
           ∧ ∀ r, s.setDrop d none (some r) = s.setPendingRate d r)
         ∧ ∀ r, (x.line ≠ .idle → s.setPendingRate d r
             = { s with drops := s.drops.set d { x with pendingRate := some r } })
           ∧ (x.line = .idle → s.setPendingRate d r
             = State.enterIdle { s with drops := s.drops.set d { x with pendingRate := some r } } d))

/-- WRITE SETTINGS (R38, R160, R161): a value not accepted, or an own address that is an entry's, changes nothing;
otherwise refuse unknown, down threshold, probe ratio and urgent run limit apply at once, every liveness derived anew
under a new threshold, and the own address and trunk rate become pending, or absent where they equal the value in force.
The values accepted are the ranges of R160 and R189: an own address 0x01 to 0xEF, a down threshold 1 to 15, a probe
ratio 1 to 16, an urgent run limit 1 to 8. -/
def Obligations.WriteSettingsClaim : Prop :=
  ∀ (s : State) (f : SettingsFields),
    (f.quantitiesGood = true ↔ (∀ v, f.ownAddress = some v → 1 ≤ v.toNat ∧ v.toNat ≤ 0xEF)
      ∧ (∀ v, f.downThreshold = some v → 1 ≤ v.toNat ∧ v.toNat ≤ 15)
      ∧ (∀ v, f.probeRatio = some v → 1 ≤ v.toNat ∧ v.toNat ≤ 16)
      ∧ ∀ v, f.urgentLimit = some v → 1 ≤ v.toNat ∧ v.toNat ≤ 8)
    ∧ ((f.quantitiesGood = false ∨ ∃ a, f.ownAddress = some a ∧ (s.station a).isSome) →
      s.writeSettings f = (s, .badArgument))
    ∧ (f.quantitiesGood = true → (∀ a, f.ownAddress = some a → s.station a = none) → ∃ u,
      s.writeSettings f = (u, .done) ∧ u = { s with
        settings := u.settings, mgmt := { s.mgmt with
          pendingAddress := u.mgmt.pendingAddress, pendingRate := u.mgmt.pendingRate }, stations := u.stations }
      ∧ u.settings.ownAddress = s.settings.ownAddress
      ∧ (∀ v, f.refuseUnknown = some v → u.settings.refuseUnknown = decide (v = 0x01#8))
      ∧ (f.refuseUnknown = none → u.settings.refuseUnknown = s.settings.refuseUnknown)
      ∧ u.settings.downThreshold = (f.downThreshold.map BitVec.toNat).getD s.settings.downThreshold
      ∧ u.settings.probeRatio = (f.probeRatio.map BitVec.toNat).getD s.settings.probeRatio
      ∧ u.settings.urgentLimit = (f.urgentLimit.map BitVec.toNat).getD s.settings.urgentLimit
      ∧ (f.downThreshold = none → u.stations = s.stations)
      ∧ (f.downThreshold ≠ none → u.stations
          = s.stations.map (fun st => st.setMiss u.settings.downThreshold st.miss))
      ∧ (f.ownAddress = none → u.mgmt.pendingAddress = s.mgmt.pendingAddress)
      ∧ (∀ a, f.ownAddress = some a →
          u.mgmt.pendingAddress = if a = s.settings.ownAddress then none else some a)
      ∧ (f.trunkRate = none → u.mgmt.pendingRate = s.mgmt.pendingRate)
      ∧ (∀ v, f.trunkRate = some v → v.toNat ≤ 7 → ∀ r : Rate, r.val = v.toNat →
          u.mgmt.pendingRate = if r = s.trunk.rate then none else some r))

/-- WRITE STATION. (1) WRITE STATION for an address with no entry (R47): its tests in their order, and then an entry at
its place with the values given, the defaults of R36 for the rest and its running fields at their initial values. (2)
WRITE STATION for an address with an entry (R48, R49): its tests in their order, and then every masked field takes the
value given and every other stays, in one step, a miss count of 0 deriving the liveness anew. (3) The values accepted,
beside the codes of R187, are the ranges of R36 and R189: an alias 0x00 or 0x01 to 0xEF, a window of 2 or more, a retry
limit of at most 3, a fetch interval and a fetch limit of 1 or more, and for each count 0 alone (R50). -/
def Obligations.StationWritten : Prop :=
  (∀ (s : State) (a : Byte) (f : StationFields) (st : Station), s.station a = none → st = f.applyTo (Station.fresh a
      0) →
     ((stationAddress a = false ∨ a = s.settings.ownAddress ∨ s.mgmt.pendingAddress = some a) →
       s.writeStation a f = (s, .badArgument))
     ∧ (stationAddress a = true → a ≠ s.settings.ownAddress → s.mgmt.pendingAddress ≠ some a →
       (64 ≤ s.stations.length → s.writeStation a f = (s, .tableFull))
       ∧ (s.stations.length < 64 →
         ((f.drop = none ∨ f.requestGood = false
             ∨ ∃ y ∈ s.stations, y.address ≠ a ∧ y.drop = st.drop ∧ y.lineAddress = st.lineAddress) →
           s.writeStation a f = (s, .badArgument))
         ∧ (f.drop ≠ none → f.requestGood = true →
           (∀ y ∈ s.stations, y.address ≠ a → y.drop = st.drop → y.lineAddress ≠ st.lineAddress) →
           ((∃ t e, s.exchange t = some e ∧ e.station = a) → s.writeStation a f = (s, .inUse))
           ∧ ((∀ t e, s.exchange t = some e → e.station ≠ a) → ∃ u, s.writeStation a f = (u, .done)
             ∧ u = { s with stations := u.stations } ∧ (TableShape s → u.stations.Perm (st :: s.stations) ∧ TableShape
                 u)
             ∧ st.address = a ∧ st.miss = 0 ∧ st.liveness = .present ∧ st.probe = 0 ∧ st.noticePending = false
             ∧ st.done = 0 ∧ st.failed = 0
             ∧ (∀ v, f.drop = some v → v.toNat ≤ 3 → st.drop.val = v.toNat)
             ∧ st.aliasAddr = f.aliasAddr.filter (fun v => v ≠ 0x00#8 ∧ v ≠ a)
             ∧ (st.cls = .urgent ↔ f.cls = some 0x01#8) ∧ (st.deferral = true ↔ f.deferral = some 0x01#8)
             ∧ st.window = (f.window.map BitVec.toNat).getD 20 ∧ st.retryLimit = (f.retryLimit.map BitVec.toNat).getD 1
             ∧ st.fetchInterval = (f.fetchInterval.map BitVec.toNat).getD 10
             ∧ st.fetchLimit = (f.fetchLimit.map BitVec.toNat).getD 20)))))
    ∧ (∀ (s : State) (a : Byte) (f : StationFields) (old st : Station), s.station a = some old → st = f.applyTo old →
         ((∀ v, f.drop = some v → v.toNat ≤ 3 → st.drop.val = v.toNat) ∧ (f.drop = none → st.drop = old.drop)
           ∧ (∀ v, f.aliasAddr = some v →
             st.aliasAddr = if v = 0x00#8 ∨ v = old.address then none else some v)
           ∧ (f.aliasAddr = none → st.aliasAddr = old.aliasAddr)
           ∧ st = { old with
             drop := st.drop
             aliasAddr := st.aliasAddr
             cls := (f.cls.map (fun v => if v = 0x01#8 then Class.urgent else .routine)).getD old.cls
             window := (f.window.map BitVec.toNat).getD old.window
             retryLimit := (f.retryLimit.map BitVec.toNat).getD old.retryLimit
             deferral := (f.deferral.map (fun v => decide (v = 0x01#8))).getD old.deferral
             fetchInterval := (f.fetchInterval.map BitVec.toNat).getD old.fetchInterval
             fetchLimit := (f.fetchLimit.map BitVec.toNat).getD old.fetchLimit })
         ∧
         ((f.requestGood = false ∨ ∃ y ∈ s.stations, y.address ≠ a ∧ y.drop = st.drop ∧ y.lineAddress =
             st.lineAddress) →
           s.writeStation a f = (s, .badArgument))
         ∧ (f.requestGood = true → (∀ y ∈ s.stations, y.address ≠ a → y.drop = st.drop → y.lineAddress ≠
             st.lineAddress) →
           ((st.drop ≠ old.drop ∨ st.lineAddress ≠ old.lineAddress) → s.inUse a = true → s.writeStation a f = (s,
               .inUse))
           ∧ ((st.drop = old.drop ∧ st.lineAddress = old.lineAddress) ∨ s.inUse a = false →
             ∃ u, s.writeStation a f = (u, .done) ∧ u = { s with stations := u.stations }
               ∧ (∀ b, b ≠ a → u.station b = s.station b)
               ∧ u.station a = some { (if f.miss = none then st else st.setMiss s.settings.downThreshold 0) with
                   done := if f.done = none then st.done else 0
                   failed := if f.failed = none then st.failed else 0 })))
    ∧ (∀ f : StationFields, f.requestGood = true ↔
         (∀ v, f.aliasAddr = some v → v.toNat ≤ 0xEF) ∧ (∀ v, f.window = some v → 2 ≤ v.toNat)
         ∧ (∀ v, f.retryLimit = some v → v.toNat ≤ 3) ∧ (∀ v, f.fetchInterval = some v → 1 ≤ v.toNat)
         ∧ (∀ v, f.fetchLimit = some v → 1 ≤ v.toNat) ∧ (∀ v, f.miss = some v → v = 0x00#8)
         ∧ (∀ v, f.done = some v → v = 0x00#8) ∧ ∀ v, f.failed = some v → v = 0x00#8)

/-- REMOVE STATION (R51, R157). (1) NO SUCH STATION without an entry; without force, IN USE while an exchange is open
for the station or a notice to it is queued (R49), and otherwise the entry is gone and the others keep their order. (2)
With force: the station's exchange is closed REMOVED, at once where its frame is not being sent, its drop then in GUARD
if it was in service; while its frame is being sent the record waits so for the EOF (R29, R88, R118). (3) Then every
notice to the station leaves its queue, its hold released, in queue order (R23), and the entry is gone. Nothing else
changes, but that a GUARD newly entered whose guard time has passed already ends in the same step (R89), after the entry
has gone, which is the model's reading, log entry 13. -/
def Obligations.StationRemoved : Prop :=
  (∀ (s : State) (a : Byte) (force : Bool),
     (s.inUse a = true ↔ (∃ t e, s.exchange t = some e ∧ e.station = a)
       ∨ ∃ d : DropId, ∃ it ∈ (s.dropUnit d).queue, it.work = .notice a)
     ∧ (s.station a = none → s.removeStation a force = (s, .noSuchStation))
     ∧ (∀ st, s.station a = some st → force = false →
       (s.inUse a = true → s.removeStation a force = (s, .inUse))
       ∧ (s.inUse a = false → s.removeStation a force
           = ({ s with stations := s.stations.filter (fun y => y.address ≠ a) }, .done))))
    ∧ (∀ (s u w : State) (a : Byte) (st : Station), s.station a = some st → ExchangeLaw s →
         ((∀ t e, s.exchange t = some e → e.station ≠ a) → w = s) →
         (∀ t e, s.exchange t = some e → e.station = a →
           (e.inService = false → w = s.closeExchange t .removed)
           ∧ (e.inService = true → (s.dropUnit e.drop).line ≠ .sending →
             w = (s.closeExchange t .removed).mapDrop e.drop (fun x => { x with line := .guard }))
           ∧ (e.inService = true → (s.dropUnit e.drop).line = .sending → w = { s with
             exchanges := s.exchanges.set t (some { e with
               removal := if e.removal ≠ .none then e.removal
                 else if (s.dropUnit e.drop).mode = .disabled then .waitingAfterDisable else .waiting }) })) →
         u = { w with
           stations := w.stations.filter (fun y => y.address ≠ a)
           drops := w.drops.map (fun x => { x with queue := x.queue.filter (fun it => it.work ≠ .notice a) })
           pool := (((List.finRange 4).flatMap (fun d => (w.dropUnit d).queue)).filter
             (fun it => it.work = .notice a)).foldl (fun p it => p.release it.buffer) w.pool } →
         ((s.dropUnit st.drop).line = .guard ∨ (u.dropUnit st.drop).line ≠ .guard
             ∨ u.now < (u.dropUnit st.drop).lastChar + 4 * charTime (u.dropUnit st.drop).rate →
           s.removeStation a true = (u, .done))
         ∧ ((s.dropUnit st.drop).line ≠ .guard → (u.dropUnit st.drop).line = .guard →
           (u.dropUnit st.drop).lastChar + 4 * charTime (u.dropUnit st.drop).rate ≤ u.now →
           s.removeStation a true = (u.enterIdle st.drop, .done)))

/-- The reads, each with its data byte by byte (R188). (1) LIST STATIONS (R151): the addresses at or above the start
address, ascending, at most 32, their number, and whether more stand above them; that the flag is written 0x01 or 0x00
is the model's choice, log entry 20. (2) READ COUNTERS (R155): the eight trunk counters or the six of a drop, two bytes
each, high byte first; with the clear flag they are 0 after, and without it nothing changes. (3) READ STATUS (R150),
READ STATION (R152), READ EXCHANGES (R153) and READ DROP (R154): the values in the order of the Format Reference, in the
codes of Value Codes, and nothing changes. -/
def Obligations.ReadsAnswered : Prop :=
  (∀ (s : State) (start : Byte), TableShape s → ∃ shown rest : List Byte,
     s.carryOut (.listStations start)
       = (s, .done, Byte.ofNat shown.length :: (if rest = [] then 0x00#8 else 0x01#8) :: shown)
     ∧ shown.length ≤ 32 ∧ (rest ≠ [] → shown.length = 32)
     ∧ (shown ++ rest).Pairwise (fun a b => a.toNat < b.toNat)
     ∧ ∀ a, a ∈ shown ++ rest ↔ (∃ st ∈ s.stations, st.address = a) ∧ start.toNat ≤ a.toNat)
    ∧ (∀ (s : State) (word : Nat → List Byte) (trunk : TrunkCounters → List Byte) (drop : DropCounters → List Byte),
         word = (fun n => [Byte.ofNat (n / 256), Byte.ofNat n]) →
         trunk = (fun c => [c.framesTaken, c.badFrames, c.broken, c.poolEmpty, c.foreign, c.invalid, c.unknown,
           c.refusalsSent].flatMap word) →
         drop = (fun c => [c.sent, c.answers, c.timeouts, c.badFrames, c.strays, c.droppedNotices].flatMap word) →
         (∀ clear, s.carryOut (.readCounters .trunk clear)
           = (if clear = true then { s with trunk := { s.trunk with counters := TrunkCounters.zero } } else s, .done,
             trunk s.trunk.counters))
         ∧ (∀ (d : DropId) clear, s.carryOut (.readCounters (.drop d) clear)
           = (if clear = true then { s with drops := s.drops.set d { s.dropUnit d with counters := DropCounters.zero } }
               else s, .done, drop (s.dropUnit d).counters))
         ∧ s.carryOut .readStatus = (s, .done,
             [s.image.config.code, s.image.result.code, Byte.ofNat s.image.skipped, s.settings.ownAddress,
               s.mgmt.pendingAddress.getD 0x00#8, Byte.ofNat s.trunk.rate.val,
               (s.mgmt.pendingRate.map (fun r => Byte.ofNat r.val)).getD 0xFF#8,
               (if s.settings.refuseUnknown = true then 0x01#8 else 0x00#8), Byte.ofNat s.settings.downThreshold,
               Byte.ofNat s.settings.probeRatio, Byte.ofNat s.settings.urgentLimit, Byte.ofNat s.stations.length,
               Byte.ofNat s.pool.free.length,
               Byte.ofNat ((List.finRange 16).filter (fun t => (s.exchange t).isSome)).length, s.mgmt.store.code])
         ∧ (∀ a, s.station a = none → s.carryOut (.readStation a) = (s, .noSuchStation, []))
         ∧ (∀ a st, s.station a = some st → s.carryOut (.readStation a) = (s, .done,
             [st.address, Byte.ofNat st.drop.val, st.aliasAddr.getD 0x00#8, st.cls.code, Byte.ofNat st.window,
               Byte.ofNat st.retryLimit, (if st.deferral = true then 0x01#8 else 0x00#8), Byte.ofNat st.fetchInterval,
               Byte.ofNat st.fetchLimit, Byte.ofNat st.miss, st.liveness.code, Byte.ofNat st.probe,
               (if st.noticePending = true then 0x01#8 else 0x00#8)] ++ word st.done ++ word st.failed))
         ∧ s.carryOut .readExchanges = (s, .done,
             Byte.ofNat ((List.finRange 16).filter (fun t => (s.exchange t).isSome)).length
               :: (List.finRange 16).flatMap (fun t => match s.exchange t with
                 | none => []
                 | some e => [Byte.ofNat t.val, e.station, Byte.ofNat e.drop.val, e.seq, e.cls.code, e.state.code,
                     Byte.ofNat e.attempts, Byte.ofNat e.fetches, if e.cancelPending = true then 0x01#8 else 0x00#8]))
         ∧ ∀ (d : DropId) (x : Drop) (item : Item → List Byte), s.dropUnit d = x →
           (∀ it, (∀ a, it.work = .notice a → item it = [0x01#8, it.cls.code, a, 0xFF#8, 0xFF#8])
             ∧ ∀ t, it.work = .exchange t → item it = [0x00#8, it.cls.code,
               ((s.exchange t).map Exchange.station).getD 0xFF#8, Byte.ofNat t.val,
               ((s.exchange t).map (fun e => e.state.code)).getD 0xFF#8]) →
           s.carryOut (.readDrop d) = (s, .done,
             [x.mode.code, x.line.code, Byte.ofNat x.rate.val,
               (x.pendingRate.map (fun r => Byte.ofNat r.val)).getD 0xFF#8, x.alternation.code] ++ drop x.counters
               ++ (x.service.map item).getD (List.replicate 5 0xFF#8)
               ++ [Byte.ofNat x.queue.length] ++ x.queue.flatMap item))
    ∧ ([Class.routine, .urgent].map Class.code = [0x00#8, 0x01#8]
       ∧ [Mode.disabled, .enabled].map Mode.code = [0x00#8, 0x01#8]
       ∧ [LineState.disabled, .idle, .sending, .listening, .receiving, .guard, .fault].map LineState.code
         = [0x00#8, 0x01#8, 0x02#8, 0x03#8, 0x04#8, 0x05#8, 0x06#8]
       ∧ [ExState.queued, .sending, .awaiting, .deferred, .fetchDue, .fetching].map ExState.code
         = [0x00#8, 0x01#8, 0x02#8, 0x03#8, 0x04#8, 0x05#8]
       ∧ [Liveness.present, .silent, .down].map Liveness.code = [0x00#8, 0x01#8, 0x02#8]
       ∧ [Machine.Alternation.queue, .fetch].map Machine.Alternation.code = [0x00#8, 0x01#8]
       ∧ [ConfigState.loading, .ready, .storing].map ConfigState.code = [0x00#8, 0x01#8, 0x02#8]
       ∧ [LoadResult.none, .loaded, .noImage, .badImage].map LoadResult.code = [0x00#8, 0x01#8, 0x02#8, 0x03#8]
       ∧ [StoreState.none, .running, .done, .failed].map StoreState.code = [0x00#8, 0x01#8, 0x02#8, 0x03#8])

/-- At a cold reset, a warm restart and a reload every receiver is in HUNT with its slot empty, its content count 0, its
escape-pending flag clear and its gap timer stopped; a restart counts nothing for the frame it drops, and the pool is
rebuilt, but for the restart's own RESULT in buffer 0 (R16, R34). -/
def Obligations.ReceiversRestarted : Prop :=
  ∀ (s : State) (seq : Byte) (straps : Rate),
    (∃ t, exec (.coldReset straps) s = .next t ∧ (∀ l : Line, t.rx l = Receiver.emptied .hunt)
      ∧ ∀ b : BufId, t.pool.buffers[b] = none ∧ b ∈ t.pool.free)
    ∧ ∀ t, t = s.restartWarm seq ∨ t = s.restartReload seq →
      (∀ l : Line, t.rx l = Receiver.emptied .hunt)
      ∧ (∀ b : BufId, b ≠ 0 → t.pool.buffers[b] = none ∧ b ∈ t.pool.free)
      ∧ t.trunk.counters = s.trunk.counters ∧ ∀ d : DropId, (t.dropUnit d).counters = (s.dropUnit d).counters

/-- RESTART WARM (R165): exchanges, queues, in-service slots, upstream queues, pending settings and the slot's old
request are discarded; frames being sent are cut off; the table keeps every entry, and the station of a STATE cut off
joins the notice set again; each drop keeps its mode, rate and counters, has no window expiry held, its break measure
restarted at 0 unless it is in FAULT (R97), and is in FAULT if it was, IDLE if ENABLED, DISABLED otherwise; buffer 0
carries the RESULT, held by the urgent queue and the slot, and the trunk rate in force is kept for it (R162). -/
def Obligations.WarmRestart : Prop :=
  ∀ (s : State) (seq : Byte) (t : State), t = s.restartWarm seq →
    (∀ k : Tag, t.exchange k = none)
    ∧ t.pool.free = (List.finRange 40).tail ∧ t.pool.buffers[0] = some {
        content := frame 0x00#8 s.settings.ownAddress 0x33#8 seq [0x00#8, 0x0D#8, 0x01#8], count := 2 }
    ∧ t.upstream = { urgent := [0], routine := [], notice := none, run := 0, report := s.upstream.report }
    ∧ t.mgmt = { slot := .inFlight seq 0 false, pendingAddress := none, pendingRate := none, store := s.mgmt.store }
    ∧ t.trunk = { s.trunk with
        keptRate := some s.trunk.rate, rx := Receiver.emptied .hunt, tx := s.cutOff s.trunk.tx }
    ∧ t.image = s.image ∧ t.settings = s.settings ∧ t.memory = s.memory
    ∧ ((∀ r began, s.trunk.tx ≠ .sending .notice r began) → t.stations = s.stations)
    ∧ (∀ r began c, s.trunk.tx = .sending .notice r began → s.upstream.notice = some c →
        t.stations = s.stations.map (fun st => if st.address = byteAt c 5 then { st with noticePending := true } else
            st))
    ∧ ∀ (d : DropId) (x : Drop), s.dropUnit d = x →
        (t.dropUnit d).mode = x.mode ∧ (t.dropUnit d).counters = x.counters ∧ (t.dropUnit d).queue = []
        ∧ (t.dropUnit d).service = none ∧ (t.dropUnit d).alternation = .queue ∧ (t.dropUnit d).tx = s.cutOff x.tx
        ∧ (t.dropUnit d).expiryHeld = false
        ∧ (x.line = .fault → (t.dropUnit d).breakSince = none)
        ∧ (x.line ≠ .fault → (t.dropUnit d).breakSince = if x.rxSpace = true then some s.now else none)
        ∧ (x.line = .fault → (t.dropUnit d).line = .fault ∧ (t.dropUnit d).marking = x.marking
            ∧ (t.dropUnit d).rate = x.rate ∧ (t.dropUnit d).pendingRate = x.pendingRate)
        ∧ (x.line ≠ .fault → x.mode = .enabled → (t.dropUnit d).line = .idle
            ∧ (t.dropUnit d).rate = x.pendingRate.getD x.rate ∧ (t.dropUnit d).pendingRate = none)
        ∧ (x.line ≠ .fault → x.mode = .disabled → (t.dropUnit d).line = .disabled
            ∧ (t.dropUnit d).rate = x.rate ∧ (t.dropUnit d).pendingRate = x.pendingRate)

/-- RESTART RELOAD (R166): as a warm restart, and the table empty, every drop DISABLED with no pending rate, the
settings but the own address at their defaults, the report number 0, the state LOADING, the replay slot EMPTY; buffer 0
carries the RESULT, held by the urgent queue alone, and the trunk rate in force before the reload is kept for it (R141).
-/
def Obligations.Reload : Prop :=
  ∀ (s : State) (seq : Byte) (t : State), t = s.restartReload seq →
    (∀ k : Tag, t.exchange k = none) ∧ t.stations = []
    ∧ t.pool.free = (List.finRange 40).tail ∧ t.pool.buffers[0] = some {
        content := frame 0x00#8 s.settings.ownAddress 0x33#8 seq [0x00#8, 0x0D#8, 0x02#8], count := 1 }
    ∧ t.upstream = { urgent := [0], routine := [], notice := none, run := 0, report := 0#8 }
    ∧ t.mgmt = { slot := .empty, pendingAddress := none, pendingRate := none, store := s.mgmt.store }
    ∧ t.trunk = { s.trunk with
        keptRate := some s.trunk.rate, rx := Receiver.emptied .hunt, tx := s.cutOff s.trunk.tx }
    ∧ t.settings = { ownAddress := s.settings.ownAddress, refuseUnknown := true, downThreshold := 3, probeRatio := 8,
                     urgentLimit := 4 }
    ∧ t.image = { config := .loading, result := .none, skipped := 0, load := some Load.start, store := none }
    ∧ t.memory = s.memory ∧ t.flt = true ∧ t.rdy = false
    ∧ ∀ (d : DropId) (x : Drop), s.dropUnit d = x → t.dropUnit d = { x with
        mode := .disabled, line := .disabled, queue := [], service := none, pendingRate := none, alternation := .queue
        rx := Receiver.emptied .hunt, tx := s.cutOff x.tx, expiryHeld := false, breakSince := none, marking := .stopped }

/-! ### The image (R170 to R190) -/

/-- The header and the stepping of records. (1) The header (R175): with the magic, the version and a records length of
at most 2038 the load goes on to the records; otherwise it ends BAD IMAGE. (2) A record of any kind but END moves the
load position, the bytes left and the check over all its bytes; an unknown record is skipped and counted; one that would
run beyond the records length, or is cut short by it, is counted and stops the records; an END stops them, the bytes
after it read for the check alone (R172, R176, R190). (3) An END with no room for its length byte is truncated and so
counted (log entry 15); records whose length is used up without an END just stop, and an END reported then adds nothing,
which is the model's choice, log entry 18. A SETTINGS record with no mask, and a STATION record with no address or no
mask, are skipped and counted (R177, R178). -/
def Obligations.LoadReads : Prop :=
  (∀ (s : State) (l : Load) (m0 m1 v n1 n0 : Byte), s.image.config = .loading → s.image.load = some l → l.phase =
      .header →
     (m0 = 0x57#8 → m1 = 0x42#8 → v = 0x01#8 → n1.toNat * 256 + n0.toNat ≤ 2038 →
       exec (.loadHeaderRead m0 m1 v n1 n0) s = .next { s with image := { s.image with load := some { l with
         phase := .records, position := l.position + 5, left := n1.toNat * 256 + n0.toNat
         check := checkBytes l.check [m0, m1, v, n1, n0] } } })
     ∧ ((m0 ≠ 0x57#8 ∨ m1 ≠ 0x42#8 ∨ v ≠ 0x01#8 ∨ 2038 < n1.toNat * 256 + n0.toNat) →
       exec (.loadHeaderRead m0 m1 v n1 n0) s = .next (s.failLoad .badImage)))
    ∧ (∀ (s : State) (l : Load) (i : Instr) (type : Byte) (fields : List Byte), s.recordLoad = some l →
         ((i = .settingsRecord fields ∧ type = 0x51#8) ∨ (i = .dropRecord fields ∧ type = 0x52#8)
           ∨ (i = .stationRecord fields ∧ type = 0x53#8) ∨ i = .unknownRecord type fields →
           l.left ≠ 0 → l.left < fields.length + 2 → exec i s = .next { s with
             image := { s.image with
               skipped := if s.image.skipped < 255 then s.image.skipped + 1 else s.image.skipped
               load := some { l with
                 phase := .check, position := l.position + l.left, left := 0
                 check := checkBytes l.check ((type :: Byte.ofNat fields.length :: fields).take l.left) } } })
         ∧ (fields.length + 2 ≤ l.left → exec (.unknownRecord type fields) s = .next { s with
             image := { s.image with
               skipped := if s.image.skipped < 255 then s.image.skipped + 1 else s.image.skipped
               load := some { l with
                 position := l.position + (fields.length + 2), left := l.left - (fields.length + 2)
                 check := checkBytes l.check (type :: Byte.ofNat fields.length :: fields) } } })
         ∧ (l.left ≠ 0 → fields.length = l.left → exec (.truncatedRecord fields) s = .next { s with
             image := { s.image with
               skipped := if s.image.skipped < 255 then s.image.skipped + 1 else s.image.skipped
               load := some { l with
                 phase := .check, position := l.position + l.left, left := 0, check := checkBytes l.check fields } } })
         ∧ (2 ≤ l.left → fields.length + 1 = l.left → exec (.endRecord fields) s = .next { s with
             image := { s.image with load := some { l with
               phase := .check, position := l.position + l.left, left := 0
               check := checkBytes l.check (0x5E#8 :: fields) } } }))
    ∧ (∀ (s : State) (l : Load), s.recordLoad = some l →
         (l.left = 1 → exec (.endRecord []) s = .next { s with image := { s.image with
             skipped := if s.image.skipped < 255 then s.image.skipped + 1 else s.image.skipped
             load := some { l with
               phase := .check, position := l.position + 1, left := 0, check := checkBytes l.check [0x5E#8] } } })
         ∧ (l.left = 0 → exec (.endRecord []) s = .next { s with image := { s.image with
             load := some { l with phase := .check } } })
         ∧ (2 ≤ l.left → exec (.settingsRecord []) s = .next { s with image := { s.image with
             skipped := if s.image.skipped < 255 then s.image.skipped + 1 else s.image.skipped
             load := some { l with
               position := l.position + 2, left := l.left - 2, check := checkBytes l.check [0x51#8, 0x00#8] } } })
         ∧ ∀ fields : List Byte, fields.length ≤ 1 → fields.length + 2 ≤ l.left →
           exec (.stationRecord fields) s = .next { s with image := { s.image with
             skipped := if s.image.skipped < 255 then s.image.skipped + 1 else s.image.skipped
             load := some { l with
               position := l.position + (fields.length + 2), left := l.left - (fields.length + 2)
               check := checkBytes l.check (0x53#8 :: Byte.ofNat fields.length :: fields) } } })

/-- A DROP record within the records length (R179): its drop's mode and pending rate, or skipped and counted; a skipped
one leaves its drop as it stood, and the line state is not changed. -/
def Obligations.DropRecord : Prop :=
  ∀ (s : State) (l : Load) (fields : List Byte) (image : ImageUnit), s.recordLoad = some l → fields.length + 2 ≤
      l.left →
    image = { s.image with load := some { l with
      position := l.position + (fields.length + 2), left := l.left - (fields.length + 2)
      check := checkBytes l.check (0x52#8 :: Byte.ofNat fields.length :: fields) } } →
    (∀ (d : DropId) (rate : Rate) (drop mode code : Byte), fields = [drop, mode, code] → drop.toNat = d.val →
      code.toNat = rate.val → mode.toNat ≤ 1 → exec (.dropRecord fields) s = .next { s with
        image := image
        drops := s.drops.set d { s.dropUnit d with
          mode := if mode = 0x01#8 then .enabled else .disabled, pendingRate := some rate } })
    ∧ ((fields.length ≠ 3 ∨ 3 < (byteAt fields 0).toNat ∨ 1 < (byteAt fields 1).toNat ∨ 7 < (byteAt fields 2).toNat) →
      exec (.dropRecord fields) s = .next { s with image := { image with
        skipped := if image.skipped < 255 then image.skipped + 1 else image.skipped } })

/-- SETTINGS and STATION records. (1) A SETTINGS record within the records length (R177): judged whole; skipped and
counted, or its fields staged over what was staged, no setting in force changed. (2) A STATION record within the records
length (R178): judged against the table as loaded so far; skipped and counted, or the entry created at its place, or an
earlier entry of its address replaced whole. (3) The values a STATION record may hold (R36, R178, R189): the codes of
R187, an alias 0x01 to 0xEF, a window of 2 or more, a retry limit of at most 3, a fetch interval and a fetch limit of 1
or more; and the staging of settings, field by field, a later value in place of an earlier one (R177). -/
def Obligations.RecordsJudged : Prop :=
  (∀ (s : State) (l l' : Load) (mask : Byte) (vals : List Byte) (f : SettingsFields), s.recordLoad = some l →
     vals.length + 3 ≤ l.left → f = settingsFields mask.toNat vals →
     l' = { l with
       position := l.position + (vals.length + 3), left := l.left - (vals.length + 3)
       check := checkBytes l.check (0x51#8 :: Byte.ofNat (vals.length + 1) :: mask :: vals) } →
     ((64 ≤ mask.toNat ∨ vals.length ≠ bitsBelow mask.toNat 6 ∨ f.codesGood = false ∨ f.quantitiesGood = false
         ∨ (∃ a, f.ownAddress = some a ∧ (s.station a).isSome)) →
       exec (.settingsRecord (mask :: vals)) s = .next { s with image := { s.image with
         load := some l', skipped := if s.image.skipped < 255 then s.image.skipped + 1 else s.image.skipped } })
     ∧ (mask.toNat < 64 → vals.length = bitsBelow mask.toNat 6 → f.codesGood = true → f.quantitiesGood = true →
       (∀ a, f.ownAddress = some a → s.station a = none) →
       exec (.settingsRecord (mask :: vals)) s = .next { s with image := { s.image with
         load := some { l' with staged := l.staged.merge f } } }))
    ∧ (∀ (s : State) (l l' : Load) (a mask : Byte) (vals : List Byte) (f : StationFields) (st : Station),
         s.recordLoad = some l → vals.length + 4 ≤ l.left → f = stationFields mask.toNat vals →
         st = f.applyTo (Station.fresh a 0) →
         l' = { l with
           position := l.position + (vals.length + 4), left := l.left - (vals.length + 4)
           check := checkBytes l.check (0x53#8 :: Byte.ofNat (vals.length + 2) :: a :: mask :: vals) } →
         ((vals.length ≠ bitsBelow mask.toNat 8 ∨ stationAddress a = false ∨ a = s.settings.ownAddress
             ∨ l.staged.ownAddress = some a ∨ f.drop = none ∨ f.recordGood = false
             ∨ (64 ≤ s.stations.length ∧ s.station a = none)
             ∨ (∃ y ∈ s.stations, y.address ≠ a ∧ y.drop = st.drop ∧ y.lineAddress = st.lineAddress)) →
           exec (.stationRecord (a :: mask :: vals)) s = .next { s with image := { s.image with
             load := some l', skipped := if s.image.skipped < 255 then s.image.skipped + 1 else s.image.skipped } })
         ∧ (vals.length = bitsBelow mask.toNat 8 → stationAddress a = true → a ≠ s.settings.ownAddress →
           l.staged.ownAddress ≠ some a → f.drop ≠ none → f.recordGood = true →
           (s.stations.length < 64 ∨ (s.station a).isSome) →
           (∀ y ∈ s.stations, y.address ≠ a → y.drop = st.drop → y.lineAddress ≠ st.lineAddress) → ∃ u,
           exec (.stationRecord (a :: mask :: vals)) s = .next u
           ∧ u = { s with stations := u.stations, image := { s.image with load := some l' } }
           ∧ (TableShape s → u.stations.Perm (st :: s.stations.filter (fun y => y.address ≠ a)) ∧ TableShape u)))
    ∧ (∀ (f : StationFields) (g : Staged) (h : SettingsFields),
         (f.recordGood = true ↔
           (∀ v, f.drop = some v → v.toNat ≤ 3) ∧ (∀ v, f.cls = some v → v.toNat ≤ 1)
           ∧ (∀ v, f.deferral = some v → v.toNat ≤ 1)
           ∧ (∀ v, f.aliasAddr = some v → 1 ≤ v.toNat ∧ v.toNat ≤ 0xEF) ∧ (∀ v, f.window = some v → 2 ≤ v.toNat)
           ∧ (∀ v, f.retryLimit = some v → v.toNat ≤ 3) ∧ (∀ v, f.fetchInterval = some v → 1 ≤ v.toNat)
           ∧ ∀ v, f.fetchLimit = some v → 1 ≤ v.toNat)
         ∧ (h.codesGood = true →
           (g.merge h).ownAddress = (if h.ownAddress = none then g.ownAddress else h.ownAddress)
           ∧ (g.merge h).trunkRate.map (fun r => r.val)
             = (if h.trunkRate = none then g.trunkRate.map (fun r => r.val) else h.trunkRate.map BitVec.toNat)
           ∧ (g.merge h).refuseUnknown
             = (if h.refuseUnknown = none then g.refuseUnknown else h.refuseUnknown.map (fun v => decide (v = 0x01#8)))
           ∧ (g.merge h).downThreshold
             = (if h.downThreshold = none then g.downThreshold else h.downThreshold.map BitVec.toNat)
           ∧ (g.merge h).probeRatio = (if h.probeRatio = none then g.probeRatio else h.probeRatio.map BitVec.toNat)
           ∧ (g.merge h).urgentLimit
             = if h.urgentLimit = none then g.urgentLimit else h.urgentLimit.map BitVec.toNat))

/-- The end of a load. (1) The end of a load (R176, R180): with the check right the staged settings are in force, every
liveness derived anew under the threshold, and the load has ended LOADED; with it wrong everything applied is reverted,
BAD IMAGE. (2) What the end of a load leaves, however it ended: READY with its result, the skipped count kept, RDY high;
each ENABLED drop IDLE with its pending rate applied, each DISABLED one still DISABLED with it; every drop's break
measure starts from now if its line is at space (R98, R180). A load that fails leaves the table empty and every drop
DISABLED with no pending rate. -/
def Obligations.LoadEnds : Prop :=
  (∀ (s : State) (l : Load) (high low : Byte) (g : Staged), s.image.config = .loading → s.image.load = some l →
     (l.phase = .check ∨ (l.phase = .records ∧ l.left = 0)) → l.staged = g →
     (l.check = high ++ low → ∃ u, exec (.loadEnd high low) s = .next (u.finishLoad .loaded)
       ∧ u = State.trunkRateDue { s with settings := u.settings, stations := u.stations }
           (g.trunkRate.getD s.trunk.rate)
       ∧ u.settings = {
           ownAddress := g.ownAddress.getD s.settings.ownAddress
           refuseUnknown := g.refuseUnknown.getD s.settings.refuseUnknown
           downThreshold := g.downThreshold.getD s.settings.downThreshold
           probeRatio := g.probeRatio.getD s.settings.probeRatio
           urgentLimit := g.urgentLimit.getD s.settings.urgentLimit }
       ∧ u.stations = s.stations.map (fun st => st.setMiss u.settings.downThreshold st.miss))
     ∧ (l.check ≠ high ++ low → exec (.loadEnd high low) s = .next (s.failLoad .badImage)))
    ∧ (∀ (s : State) (r : LoadResult), s.image.config = .loading → LoadingLaw s →
         (∃ t, s.finishLoad r = t ∧ t.rdy = true
           ∧ t = { s with
               image := { s.image with config := .ready, result := r, load := none }, drops := t.drops }
           ∧ ∀ (d : DropId) (x : Drop), s.dropUnit d = x →
             (t.dropUnit d).mode = x.mode
             ∧ (t.dropUnit d).breakSince = (if x.rxSpace = true then some s.now else none)
             ∧ (x.mode = .enabled → (t.dropUnit d).line = .idle ∧ (t.dropUnit d).rate = x.pendingRate.getD x.rate
               ∧ (t.dropUnit d).pendingRate = none)
             ∧ (x.mode = .disabled → t.dropUnit d = { x with
                 breakSince := if x.rxSpace = true then some s.now else none }))
         ∧ s.failLoad r = { s with
             stations := []
             image := { s.image with config := .ready, result := r, load := none }
             drops := s.drops.map (fun (x : Drop) => { x with
               mode := .disabled, pendingRate := none, breakSince := if x.rxSpace = true then some s.now else none }) })

/-- (1) A memory-port failure ends a load NO IMAGE at its header and BAD IMAGE later; it ends a store FAILED: READY
again, the memory holding some leading part of the write under way (which, is the free value of log entry 6), and STORE
FAILED in the request's buffer if the slot still holds it (R163, R170, R175, R176, R184, R185). A byte not acknowledged
leaves the write untaken in part, so that one during the true magic leaves the second byte of the magic as it was, no
image (R184); a polling failure after the write may find it taken whole. (2) What a transfer that fails puts on the
port, and the failure the command reports (R170, R184): a device select for writing, or for reading at the repeated
start, polled without success; an address byte or a data byte not acknowledged, after which the stop comes at once.
Where the polling of the device select for reading succeeds, the read goes on. (3) The polling after a store's last
write (R183); the stop after its acknowledge is the model's reading, log entry 23. -/
def Obligations.PortFailure : Prop :=
  (∀ (s : State) (i : Instr), i = .memoryPollTimeout ∨ i = .memoryByteNotAcknowledged →
    (∀ l, s.image.config = .loading → s.image.load = some l →
      exec i s = .next (s.failLoad (if l.phase = .header then .noImage else .badImage)).arbitrate)
    ∧ (∀ x, s.image.config = .storing → s.image.store = some x → ∃ u, ∃ k : Nat,
      u = { s with
        memory := writeCells s.memory x.current.1 (x.current.2.take k)
        chance := s.chance + 1
        image := { s.image with config := .ready, store := none }
        mgmt := { s.mgmt with store := .failed } }
      ∧ k ≤ x.current.2.length
      ∧ (i = .memoryByteNotAcknowledged → x.current.2 ≠ [] → k < x.current.2.length)
      ∧ (i = .memoryByteNotAcknowledged → x.current = (0, [0x57#8, 0x42#8]) →
        readCell u.memory 1 = readCell s.memory 1)
      ∧ ((∀ q b, s.mgmt.slot ≠ .inFlight q b true) → exec i s = .next u.arbitrate)
      ∧ ∀ q b, s.mgmt.slot = .inFlight q b true → exec i s = .next (State.arbitrate { u with
          mgmt := { u.mgmt with slot := .inFlight q b false }
          pool := (s.pool.write b (frame 0x00#8 s.settings.ownAddress 0x33#8 q [0x0A#8, 0x0C#8])).hold b
          upstream := s.upstream.joined .urgent b })))
    ∧ (∀ (mem : Nat → Byte) (a n : Nat) (data : List Byte) (x : Transfer) (xs : List Attempt)
        (polls : List (List Attempt)) (acks : List Bool), x = .write a data ∨ x = .read a n →
         ((poll (deviceSelect a false) xs).2 = false →
           x.run mem (xs :: polls) acks = ((poll (deviceSelect a false) xs).1, some .polling))
         ∧ ((poll (deviceSelect a false) xs).2 = true →
           x.run mem (xs :: polls) (false :: acks)
             = ((poll (deviceSelect a false) xs).1 ++ [.sent (addressByte a) false, .stop], some .byte)
           ∧ (∀ ys, (poll (deviceSelect a true) ys).2 = false →
             (Transfer.read a n).run mem (xs :: ys :: polls) (true :: acks)
               = ((poll (deviceSelect a false) xs).1 ++ [.sent (addressByte a) true] ++ (poll (deviceSelect a true) ys).1,
                 some .polling))
           ∧ (∀ ys, (poll (deviceSelect a true) ys).2 = true →
             (Transfer.read a n).run mem (xs :: ys :: polls) (true :: acks)
               = ((poll (deviceSelect a false) xs).1 ++ [.sent (addressByte a) true] ++ (poll (deviceSelect a true) ys).1
                 ++ (List.range n).map (fun k => .taken (mem (a + k)) (decide (k + 1 < n))) ++ [.stop], none))
           ∧ (∀ (v : Byte) (before after : List Byte), data = before ++ v :: after →
             (Transfer.write a data).run mem (xs :: polls)
                 (true :: (List.replicate before.length true ++ false :: acks))
               = ((poll (deviceSelect a false) xs).1 ++ [.sent (addressByte a) true]
                 ++ before.map (fun b => .sent b true) ++ [.sent v false, .stop], some .byte))))
    ∧ Machine.PortFailure.command .polling = .memoryPollTimeout
    ∧ Machine.PortFailure.command .byte = .memoryByteNotAcknowledged
    ∧ (∀ xs : List Attempt,
         ((poll (deviceSelect 0 false) xs).2 = true →
           lastPolling xs = ((poll (deviceSelect 0 false) xs).1 ++ [.stop], none))
         ∧ ((poll (deviceSelect 0 false) xs).2 = false →
           lastPolling xs = ((poll (deviceSelect 0 false) xs).1, some .polling)))

/-- The store. (1) The write under way is the one at the store position in the order of the writes. A store write
acknowledged: the memory holds it; the next write of the order begins, or after the last the store has ended DONE, with
DONE in the request's buffer if the slot still holds it (R163, R183, R185). (2) The order of a store's writes (R183):
the invalid magic first and the true magic last, both at address 0; in between the bytes from address 2 to the last, in
ascending order, each write of at least one byte and within one 16-byte page. (3) A store whose writes the memory has
all taken leaves the image in the memory, every other byte unchanged, and the memory in canonical form (R182, R183). -/
def Obligations.StoreWrites : Prop :=
  (∀ (s : State) (x : Store), s.image.config = .storing → s.image.store = some x →
     (x.position < (storeWrites x.image).length → (storeWrites x.image)[x.position]? = some x.current)
     ∧ (x.position + 1 < (storeWrites x.image).length → exec .storeWriteAcknowledged s = .next { s with
       memory := writeCells s.memory x.current.1 x.current.2
       image := { s.image with store := some { x with position := x.position + 1 } } })
     ∧ ((storeWrites x.image).length ≤ x.position + 1 → ∃ u,
       u = { s with
         memory := writeCells s.memory x.current.1 x.current.2
         image := { s.image with config := .ready, store := none }
         mgmt := { s.mgmt with store := .done } }
       ∧ ((∀ q b, s.mgmt.slot ≠ .inFlight q b true) → exec .storeWriteAcknowledged s = .next u.arbitrate)
       ∧ ∀ q b, s.mgmt.slot = .inFlight q b true → exec .storeWriteAcknowledged s = .next (State.arbitrate { u with
           mgmt := { u.mgmt with slot := .inFlight q b false }
           pool := (s.pool.write b (frame 0x00#8 s.settings.ownAddress 0x33#8 q [0x00#8, 0x0C#8])).hold b
           upstream := s.upstream.joined .urgent b })))
    ∧ (∀ image : List Byte, 7 ≤ image.length → ∃ pages : List (Nat × List Byte),
         storeWrites image = (0, [0x00#8, 0x00#8]) :: pages ++ [(0, [0x57#8, 0x42#8])]
         ∧ (pages.map Prod.snd).flatten = image.drop 2
         ∧ pages.head?.map Prod.fst = some 2
         ∧ (∀ p ∈ pages, p.2 ≠ [] ∧ 2 ≤ p.1 ∧ p.1 / 16 = (p.1 + p.2.length - 1) / 16)
         ∧ pages.IsChain (fun p q => q.1 = p.1 + p.2.length ∧ q.1 % 16 = 0))
    ∧ (∀ (image : List Byte) (m : List Host.Cell), 7 ≤ image.length → image.take 2 = [0x57#8, 0x42#8] →
         Memory.wf m = true →
         (∀ a, readCell ((storeWrites image).foldl (fun n w => writeCells n w.1 w.2) m) a = image.getD a (readCell m a))
         ∧ Memory.wf ((storeWrites image).foldl (fun n w => writeCells n w.1 w.2) m) = true)

/-- The transfers on the memory port (R169). (1) The device select byte is 1010, the block bits of the address and the
direction bit, and the address byte is the lower eight bits. (2) A write is a start, the device select for writing, the
address byte, the data and a stop; a read addresses the memory so and goes on, after a repeated start, with the device
select for reading and the bytes, all acknowledged but the last. A memory that acknowledges everything at once gives
these signals. (3) A load takes the image in ascending order with one read for each block touched (R174, R176), and no
transfer of a load or a store crosses a block (R183). (4) While a load runs, the transfer on the port is that one of its
reads which holds the load position; while a store runs, the write at the store position; in READY there is none. (5)
The port is idle after a cold reset and after every load and every store, and not while they run (R169); that a load
which has read nothing yet counts as idle is the model's reading, log entry 1. -/
def Obligations.PortTransfers : Prop :=
  (∀ (a : Nat) (reading : Bool),
     deviceSelect a reading = 0xA#4 ++ BitVec.ofNat 3 (a / 256) ++ (if reading = true then 1#1 else 0#1)
     ∧ addressByte a = BitVec.ofNat 8 a)
    ∧ (∀ (mem : Nat → Byte) (a n : Nat) (data : List Byte),
         (Transfer.write a data).signals mem
           = [.start, .sent (deviceSelect a false) true, .sent (addressByte a) true]
             ++ data.map (fun b => .sent b true) ++ [.stop]
         ∧ (Transfer.read a n).signals mem
           = [.start, .sent (deviceSelect a false) true, .sent (addressByte a) true, .start,
               .sent (deviceSelect a true) true]
             ++ (List.range n).map (fun k => .taken (mem (a + k)) (decide (k + 1 < n))) ++ [.stop]
         ∧ (Transfer.write a data).run mem [[⟨0, 0, true⟩]] (List.replicate (data.length + 1) true)
           = ((Transfer.write a data).signals mem, none)
         ∧ (Transfer.read a n).run mem [[⟨0, 0, true⟩], [⟨0, 0, true⟩]] [true]
           = ((Transfer.read a n).signals mem, none))
    ∧ (∀ (good : Bool) (n : Nat) (image : List Byte), n ≤ 2038 → 7 ≤ image.length →
         (loadReads good n).flatMap (fun x => (List.range x.count).map (fun k => x.address + k))
           = List.range (if good = true then 7 + n else 5)
         ∧ (loadReads good n).Pairwise (fun x y => x.address / 256 < y.address / 256)
         ∧ (∀ x ∈ loadReads good n ++ storeTransfers image, x.inBlock = true)
         ∧ storeTransfers image = (storeWrites image).map (fun w => .write w.1 w.2))
    ∧ (∀ s : State,
         (∀ l n, s.image.config = .loading → s.image.load = some l → l.position < l.due →
           ((l.phase = .header → l.position = 0 → s.portTransfer = (loadReads false n)[0]?)
           ∧ (l.phase ≠ .header → l.position + l.left = 5 + n →
             s.portTransfer = (loadReads true n)[l.position / 256]?)
           ∧ ∃ a k, s.portTransfer = some (.read a k) ∧ a ≤ l.position ∧ l.position < a + k))
         ∧ (∀ x, s.image.config = .storing → s.image.store = some x → x.position < (storeWrites x.image).length →
           s.portTransfer = (storeTransfers x.image)[x.position]?)
         ∧ (s.image.config = .ready → s.portTransfer = none))
    ∧ (∀ (s : State) (straps : Rate) (t : State), exec (.coldReset straps) s = .next t → t.memoryPortIdle = true)
    ∧ (∀ s : State, (s.image.load = none → s.image.store = none → s.memoryPortIdle = true)
         ∧ (∀ l, s.image.load = some l → (s.memoryPortIdle = true ↔
           s.image.store = none ∧ l.phase = .header ∧ l.position = 0))
         ∧ (s.image.store ≠ none → s.memoryPortIdle = false))

/-- The wires of the memory port (R169, R170). (1) In a start MSDA falls while MSCL is high, in a stop it rises so. In a
byte MSDA changes only while MSCL is low, and what stands at the high clocks is the eight bits, most significant first,
and the acknowledge, low where it is given. (2) Each byte costs 9 clock periods and an attempt not acknowledged 11, so
that a read of n bytes costs 30 more than 9n and a write 20 more. (3) Before a start MSDA is high, or becomes so after
one of nine pulses; otherwise the transfer counts as a device select not acknowledged. (4) Polling fails where no
attempt within 10 ms addressed the memory, and MEMORY_POLL_TIMEOUT then reports it. (5) An attempt is the pulses that
MSDA needs, a start and the device select, for a write or for a read, and a stop where it is not acknowledged. With MSDA
low after nine pulses no start comes, and a stop at which MSDA stays low is the model's reading, log entry 23. (6)
Polling makes the attempts up to the first that addresses the memory, or those within 10 ms. -/
def Obligations.PortWires : Prop :=
  (PortSignal.start.levels = [⟨true, true⟩, ⟨true, false⟩, ⟨false, false⟩]
     ∧ PortSignal.stop.levels = [⟨false, false⟩, ⟨true, false⟩, ⟨true, true⟩]
     ∧ ∀ (b : Byte) (acknowledged : Bool) (x : PortSignal), x = .sent b acknowledged ∨ x = .taken b acknowledged →
       x.levels.IsChain (fun p q => p.mscl = true → q.mscl = true → p.msda = q.msda)
       ∧ (x.levels.filter PortLevels.mscl).map PortLevels.msda
         = (List.range 8).map (fun i => b.getLsbD (7 - i)) ++ [decide (acknowledged = false)]
       ∧ (x.levels.head?.map PortLevels.mscl = some false ∧ x.levels.getLast? = some ⟨false, true⟩))
    ∧ (∀ (mem : Nat → Byte) (a n : Nat) (data : List Byte),
         (∀ reading, clocksOf (refusedAttempt a reading) = 11)
         ∧ clocksOf ((Transfer.read a n).signals mem) = 30 + 9 * n
         ∧ clocksOf ((Transfer.write a data).signals mem) = 20 + 9 * data.length)
    ∧ (∀ msda : Nat → Bool,
         (∀ k, startAfter msda = some k ↔ k ≤ 9 ∧ msda k = true ∧ ∀ j, j < k → msda j = false)
         ∧ (startAfter msda = none ↔ ∀ k, k ≤ 9 → msda k = false)
         ∧ (startAfter msda = none → ∀ acknowledged, selected msda acknowledged = false)
         ∧ (∀ k, startAfter msda = some k → ∀ acknowledged, selected msda acknowledged = acknowledged))
    ∧ (∀ attempts : List (Nat × Bool),
         ((∀ x ∈ attempts, x.1 ≤ 1000 → x.2 = false) → pollReport attempts = some .memoryPollTimeout)
         ∧ ((∃ x ∈ attempts, x.1 ≤ 1000 ∧ x.2 = true) → pollReport attempts = none))
    ∧ ((∀ msda, (PortSignal.pulse msda).levels = [⟨false, msda⟩, ⟨true, msda⟩])
       ∧ PortSignal.heldStop.levels = [⟨false, false⟩, ⟨true, false⟩]
       ∧ ∀ (b : Byte) (x : Attempt),
         (x.held ≤ 9 → x.signals b
           = (List.range x.held).map (fun j => .pulse (decide (j + 1 = x.held)))
             ++ [.start, .sent b x.acknowledged] ++ if x.acknowledged = true then [] else [.stop])
         ∧ (9 < x.held → x.signals b = List.replicate 9 (.pulse false) ++ [.heldStop])
         ∧ (x.addresses = true ↔ x.held ≤ 9 ∧ x.acknowledged = true)
         ∧ ∀ a reading, b = deviceSelect a reading → x.held = 0 → x.acknowledged = false →
           x.signals b = refusedAttempt a reading)
    ∧ (∀ (b : Byte) (refused late : List Attempt), (∀ y ∈ refused, y.time ≤ 1000 ∧ y.addresses = false) →
         (∀ x, x.time ≤ 1000 → x.addresses = true →
           poll b (refused ++ x :: late) = (refused.flatMap (Attempt.signals b) ++ x.signals b, true))
         ∧ ((∀ z ∈ late, 1000 < z.time) → poll b (refused ++ late) = (refused.flatMap (Attempt.signals b), false))
         ∧ (poll b late).2 = !pollFails (late.map (fun x => (x.time, x.addresses))))

/-- The store image. (1) The image a store writes (R182): magic, version, records length high byte first, the SETTINGS
record of all six values in force, four DROP records with the drop's pending rate or else its rate, one STATION record
for each entry in ascending address order with its alias only where it has one, an END, and the check over all of it. It
is an image that a load can read: at most 2038 record bytes. (2) The records, judged by a load, give back what was
stored (R177 to R179): the settings, the mode and rate of a drop, and the configuration of an entry, its running fields
at their initial values. -/
def Obligations.RecordsReadBack : Prop :=
  (∀ (s : State) (records : List Byte),
     records =
       [0x51#8, 0x07#8, 0x3F#8, s.settings.ownAddress, Byte.ofNat s.trunk.rate.val,
         (if s.settings.refuseUnknown = true then 0x01#8 else 0x00#8), Byte.ofNat s.settings.downThreshold,
         Byte.ofNat s.settings.probeRatio, Byte.ofNat s.settings.urgentLimit]
       ++ [(0 : DropId), 1, 2, 3].flatMap (fun d => [0x52#8, 0x03#8, Byte.ofNat d.val,
           (if (s.dropUnit d).mode = .enabled then 0x01#8 else 0x00#8),
           Byte.ofNat ((s.dropUnit d).pendingRate.getD (s.dropUnit d).rate).val])
       ++ s.stations.flatMap (fun st =>
           (match st.aliasAddr with
             | none => [0x53#8, 0x09#8, st.address, 0xFD#8, Byte.ofNat st.drop.val]
             | some a => [0x53#8, 0x0A#8, st.address, 0xFF#8, Byte.ofNat st.drop.val, a])
           ++ [(if st.cls = .urgent then 0x01#8 else 0x00#8), Byte.ofNat st.window, Byte.ofNat st.retryLimit,
             (if st.deferral = true then 0x01#8 else 0x00#8), Byte.ofNat st.fetchInterval, Byte.ofNat st.fetchLimit])
       ++ [0x5E#8, 0x00#8] →
     s.storeImage = withCheck ([0x57#8, 0x42#8, 0x01#8, Byte.ofNat (records.length / 256), Byte.ofNat records.length]
       ++ records)
     ∧ (TableShape s → records.length ≤ 799 ∧ s.storeImage.length = records.length + 7))
    ∧ (∀ s : State, RangeLaw s → TableLaw s →
    (∀ g : Staged, ∃ fields f, s.settingsRecordBytes = 0x51#8 :: Byte.ofNat fields.length :: fields
      ∧ s.judgeSettings fields = some f
      ∧ g.merge f = {
          ownAddress := some s.settings.ownAddress, trunkRate := some s.trunk.rate
          refuseUnknown := some s.settings.refuseUnknown, downThreshold := some s.settings.downThreshold
          probeRatio := some s.settings.probeRatio, urgentLimit := some s.settings.urgentLimit })
    ∧ (∀ (t : State) (l : Load) (d : DropId) (x : Drop), s.dropUnit d = x →
      ∃ fields, s.dropRecordBytes d = 0x52#8 :: Byte.ofNat fields.length :: fields
        ∧ State.actDrop fields t l = { t with drops := t.drops.set d { t.dropUnit d with
            mode := x.mode, pendingRate := some (x.pendingRate.getD x.rate) } })
    ∧ ∀ st ∈ s.stations, ∀ (t : State) (l : Load), st.address ≠ t.settings.ownAddress →
      l.staged.ownAddress ≠ some st.address → t.stations.length < 64 →
      (∀ y ∈ t.stations, y.address ≠ st.address → y.drop = st.drop → y.lineAddress ≠ st.lineAddress) →
      ∃ fields, st.recordBytes = 0x53#8 :: Byte.ofNat fields.length :: fields
        ∧ State.judgeStation t l fields = some { st with
            miss := 0, liveness := .present, probe := 0, noticePending := false, done := 0, failed := 0 })

/-! ### Invariants that every step keeps -/

/-- Every law holds right after a cold reset. -/
def Obligations.ResetLaws : Prop :=
  LoadingLaw State.reset ∧ LivenessLaw State.reset ∧ PoolLaw State.reset ∧ TableLaw State.reset ∧ QueueLaw State.reset
    ∧ WorkLaw State.reset ∧ ExchangeLaw State.reset ∧ CountLaw State.reset ∧ RangeLaw State.reset
    ∧ MemoryLaw State.reset ∧ HoldingLaw State.reset ∧ TallyLaw State.reset

/-- The table law of R35, with the own addresses of R52 and R177, and the canonical form of the serial memory, which is
the model's choice, log entry 5: each is kept by every step. -/
def Obligations.TableKept : Prop :=
  ∀ s t : State, step s = .next t → (TableLaw s → TableLaw t) ∧ (MemoryLaw s → MemoryLaw t)

/-- While LOADING no exchange is open and every drop is DISABLED (R171). A drop queue keeps its length and its order
(R74), its items and the in-service slot name exchanges of the drop in their right states (R72, R74), and no station has
two open exchanges (R67). Each of the four is kept by every step. And what R72 says of a drop's work by its line state
is kept, with the laws it rests on: nothing in service while DISABLED, IDLE or FAULT, no queue while DISABLED or FAULT,
a frame being sent in SENDING and in no other line state. -/
def Obligations.WorkKept : Prop :=
  ∀ s t : State, step s = .next t →
    (LoadingLaw s → LoadingLaw t) ∧ (QueueLaw s → QueueLaw t) ∧ (WorkLaw s → WorkLaw t) ∧ (ExchangeLaw s → ExchangeLaw t)
      ∧ (LoadingLaw s → WorkLaw s → ServiceLaw s → ServiceLaw t)

/-- Every saturating count stays in its range (R36, R45, R70, R95, R133, R172), and so do the settings and the
configuration of every entry (R36, R37, R160); every entry's liveness agrees with its miss count and the down threshold,
and its probe count is 0 unless it is DOWN (R38, R44): each of the three is kept by every step. And with the laws they
rest on, the counts that do not saturate keep their ranges: the probe count 0 to 15 (R36), the attempt count 1 to 4 and
the fetch count 0 to 255 (R99, R108, R113). -/
def Obligations.CountsKept : Prop :=
  ∀ s t : State, step s = .next t →
    (CountLaw s → CountLaw t) ∧ (RangeLaw s → RangeLaw t) ∧ (LivenessLaw s → LivenessLaw t)
      ∧ (LoadingLaw s → WorkLaw s → ServiceLaw s → RangeLaw s → TallyLaw s → TallyLaw t)
end

