-- ==== Sys2Proof/Laws/State.lean ====
section
/-! SUPPORT. What the updates of one field leave alone: one lemma per field per update, true by rfl. -/

namespace Sys2Proof.Machine

@[simp] theorem State.advance_now (s : State) (t : Nat) : (s.advance t).now = max s.now t := rfl
@[simp] theorem State.advance_pool (s : State) (t : Nat) : (s.advance t).pool = s.pool := rfl
@[simp] theorem State.advance_stations (s : State) (t : Nat) : (s.advance t).stations = s.stations := rfl
@[simp] theorem State.advance_exchanges (s : State) (t : Nat) : (s.advance t).exchanges = s.exchanges := rfl
@[simp] theorem State.advance_drops (s : State) (t : Nat) : (s.advance t).drops = s.drops := rfl
@[simp] theorem State.advance_trunk (s : State) (t : Nat) : (s.advance t).trunk = s.trunk := rfl
@[simp] theorem State.advance_upstream (s : State) (t : Nat) : (s.advance t).upstream = s.upstream := rfl
@[simp] theorem State.advance_settings (s : State) (t : Nat) : (s.advance t).settings = s.settings := rfl
@[simp] theorem State.advance_mgmt (s : State) (t : Nat) : (s.advance t).mgmt = s.mgmt := rfl
@[simp] theorem State.advance_image (s : State) (t : Nat) : (s.advance t).image = s.image := rfl
@[simp] theorem State.advance_memory (s : State) (t : Nat) : (s.advance t).memory = s.memory := rfl
@[simp] theorem State.advance_chance (s : State) (t : Nat) : (s.advance t).chance = s.chance := rfl
@[simp] theorem State.advance_pending (s : State) (t : Nat) : (s.advance t).pending = s.pending := rfl

@[simp] theorem State.hold_now (s : State) (b : BufId) : (s.hold b).now = s.now := rfl
@[simp] theorem State.hold_stations (s : State) (b : BufId) : (s.hold b).stations = s.stations := rfl
@[simp] theorem State.hold_exchanges (s : State) (b : BufId) : (s.hold b).exchanges = s.exchanges := rfl
@[simp] theorem State.hold_drops (s : State) (b : BufId) : (s.hold b).drops = s.drops := rfl
@[simp] theorem State.hold_trunk (s : State) (b : BufId) : (s.hold b).trunk = s.trunk := rfl
@[simp] theorem State.hold_upstream (s : State) (b : BufId) : (s.hold b).upstream = s.upstream := rfl
@[simp] theorem State.hold_settings (s : State) (b : BufId) : (s.hold b).settings = s.settings := rfl
@[simp] theorem State.hold_mgmt (s : State) (b : BufId) : (s.hold b).mgmt = s.mgmt := rfl
@[simp] theorem State.hold_image (s : State) (b : BufId) : (s.hold b).image = s.image := rfl
@[simp] theorem State.hold_memory (s : State) (b : BufId) : (s.hold b).memory = s.memory := rfl
@[simp] theorem State.hold_chance (s : State) (b : BufId) : (s.hold b).chance = s.chance := rfl
@[simp] theorem State.hold_pending (s : State) (b : BufId) : (s.hold b).pending = s.pending := rfl

@[simp] theorem State.release_now (s : State) (b : BufId) : (s.release b).now = s.now := rfl
@[simp] theorem State.release_stations (s : State) (b : BufId) : (s.release b).stations = s.stations := rfl
@[simp] theorem State.release_exchanges (s : State) (b : BufId) : (s.release b).exchanges = s.exchanges := rfl
@[simp] theorem State.release_drops (s : State) (b : BufId) : (s.release b).drops = s.drops := rfl
@[simp] theorem State.release_trunk (s : State) (b : BufId) : (s.release b).trunk = s.trunk := rfl
@[simp] theorem State.release_upstream (s : State) (b : BufId) : (s.release b).upstream = s.upstream := rfl
@[simp] theorem State.release_settings (s : State) (b : BufId) : (s.release b).settings = s.settings := rfl
@[simp] theorem State.release_mgmt (s : State) (b : BufId) : (s.release b).mgmt = s.mgmt := rfl
@[simp] theorem State.release_image (s : State) (b : BufId) : (s.release b).image = s.image := rfl
@[simp] theorem State.release_memory (s : State) (b : BufId) : (s.release b).memory = s.memory := rfl
@[simp] theorem State.release_chance (s : State) (b : BufId) : (s.release b).chance = s.chance := rfl
@[simp] theorem State.release_pending (s : State) (b : BufId) : (s.release b).pending = s.pending := rfl

@[simp] theorem State.write_now (s : State) (b : BufId) (c : List Byte) : (s.write b c).now = s.now := rfl
@[simp] theorem State.write_stations (s : State) (b : BufId) (c : List Byte) : (s.write b c).stations = s.stations := rfl
@[simp] theorem State.write_exchanges (s : State) (b : BufId) (c : List Byte) : (s.write b c).exchanges = s.exchanges := rfl
@[simp] theorem State.write_drops (s : State) (b : BufId) (c : List Byte) : (s.write b c).drops = s.drops := rfl
@[simp] theorem State.write_trunk (s : State) (b : BufId) (c : List Byte) : (s.write b c).trunk = s.trunk := rfl
@[simp] theorem State.write_upstream (s : State) (b : BufId) (c : List Byte) : (s.write b c).upstream = s.upstream := rfl
@[simp] theorem State.write_settings (s : State) (b : BufId) (c : List Byte) : (s.write b c).settings = s.settings := rfl
@[simp] theorem State.write_mgmt (s : State) (b : BufId) (c : List Byte) : (s.write b c).mgmt = s.mgmt := rfl
@[simp] theorem State.write_image (s : State) (b : BufId) (c : List Byte) : (s.write b c).image = s.image := rfl
@[simp] theorem State.write_memory (s : State) (b : BufId) (c : List Byte) : (s.write b c).memory = s.memory := rfl
@[simp] theorem State.write_chance (s : State) (b : BufId) (c : List Byte) : (s.write b c).chance = s.chance := rfl
@[simp] theorem State.write_pending (s : State) (b : BufId) (c : List Byte) : (s.write b c).pending = s.pending := rfl

@[simp] theorem State.mapDrop_now (s : State) (d : DropId) (f : Drop → Drop) : (s.mapDrop d f).now = s.now := rfl
@[simp] theorem State.mapDrop_pool (s : State) (d : DropId) (f : Drop → Drop) : (s.mapDrop d f).pool = s.pool := rfl
@[simp] theorem State.mapDrop_stations (s : State) (d : DropId) (f : Drop → Drop) : (s.mapDrop d f).stations = s.stations := rfl
@[simp] theorem State.mapDrop_exchanges (s : State) (d : DropId) (f : Drop → Drop) : (s.mapDrop d f).exchanges = s.exchanges := rfl
@[simp] theorem State.mapDrop_trunk (s : State) (d : DropId) (f : Drop → Drop) : (s.mapDrop d f).trunk = s.trunk := rfl
@[simp] theorem State.mapDrop_upstream (s : State) (d : DropId) (f : Drop → Drop) : (s.mapDrop d f).upstream = s.upstream := rfl
@[simp] theorem State.mapDrop_settings (s : State) (d : DropId) (f : Drop → Drop) : (s.mapDrop d f).settings = s.settings := rfl
@[simp] theorem State.mapDrop_mgmt (s : State) (d : DropId) (f : Drop → Drop) : (s.mapDrop d f).mgmt = s.mgmt := rfl
@[simp] theorem State.mapDrop_image (s : State) (d : DropId) (f : Drop → Drop) : (s.mapDrop d f).image = s.image := rfl
@[simp] theorem State.mapDrop_memory (s : State) (d : DropId) (f : Drop → Drop) : (s.mapDrop d f).memory = s.memory := rfl
@[simp] theorem State.mapDrop_chance (s : State) (d : DropId) (f : Drop → Drop) : (s.mapDrop d f).chance = s.chance := rfl
@[simp] theorem State.mapDrop_pending (s : State) (d : DropId) (f : Drop → Drop) : (s.mapDrop d f).pending = s.pending := rfl

@[simp] theorem State.putExchange_now (s : State) (t : Tag) (e : Option Exchange) : (s.putExchange t e).now = s.now := rfl
@[simp] theorem State.putExchange_pool (s : State) (t : Tag) (e : Option Exchange) : (s.putExchange t e).pool = s.pool := rfl
@[simp] theorem State.putExchange_stations (s : State) (t : Tag) (e : Option Exchange) : (s.putExchange t e).stations = s.stations := rfl
@[simp] theorem State.putExchange_drops (s : State) (t : Tag) (e : Option Exchange) : (s.putExchange t e).drops = s.drops := rfl
@[simp] theorem State.putExchange_trunk (s : State) (t : Tag) (e : Option Exchange) : (s.putExchange t e).trunk = s.trunk := rfl
@[simp] theorem State.putExchange_upstream (s : State) (t : Tag) (e : Option Exchange) : (s.putExchange t e).upstream = s.upstream := rfl
@[simp] theorem State.putExchange_settings (s : State) (t : Tag) (e : Option Exchange) : (s.putExchange t e).settings = s.settings := rfl
@[simp] theorem State.putExchange_mgmt (s : State) (t : Tag) (e : Option Exchange) : (s.putExchange t e).mgmt = s.mgmt := rfl
@[simp] theorem State.putExchange_image (s : State) (t : Tag) (e : Option Exchange) : (s.putExchange t e).image = s.image := rfl
@[simp] theorem State.putExchange_memory (s : State) (t : Tag) (e : Option Exchange) : (s.putExchange t e).memory = s.memory := rfl
@[simp] theorem State.putExchange_chance (s : State) (t : Tag) (e : Option Exchange) : (s.putExchange t e).chance = s.chance := rfl
@[simp] theorem State.putExchange_pending (s : State) (t : Tag) (e : Option Exchange) : (s.putExchange t e).pending = s.pending := rfl

@[simp] theorem State.mapStation_now (s : State) (a : Byte) (f : Station → Station) : (s.mapStation a f).now = s.now := rfl
@[simp] theorem State.mapStation_pool (s : State) (a : Byte) (f : Station → Station) : (s.mapStation a f).pool = s.pool := rfl
@[simp] theorem State.mapStation_exchanges (s : State) (a : Byte) (f : Station → Station) : (s.mapStation a f).exchanges = s.exchanges := rfl
@[simp] theorem State.mapStation_drops (s : State) (a : Byte) (f : Station → Station) : (s.mapStation a f).drops = s.drops := rfl
@[simp] theorem State.mapStation_trunk (s : State) (a : Byte) (f : Station → Station) : (s.mapStation a f).trunk = s.trunk := rfl
@[simp] theorem State.mapStation_upstream (s : State) (a : Byte) (f : Station → Station) : (s.mapStation a f).upstream = s.upstream := rfl
@[simp] theorem State.mapStation_settings (s : State) (a : Byte) (f : Station → Station) : (s.mapStation a f).settings = s.settings := rfl
@[simp] theorem State.mapStation_mgmt (s : State) (a : Byte) (f : Station → Station) : (s.mapStation a f).mgmt = s.mgmt := rfl
@[simp] theorem State.mapStation_image (s : State) (a : Byte) (f : Station → Station) : (s.mapStation a f).image = s.image := rfl
@[simp] theorem State.mapStation_memory (s : State) (a : Byte) (f : Station → Station) : (s.mapStation a f).memory = s.memory := rfl
@[simp] theorem State.mapStation_chance (s : State) (a : Byte) (f : Station → Station) : (s.mapStation a f).chance = s.chance := rfl
@[simp] theorem State.mapStation_pending (s : State) (a : Byte) (f : Station → Station) : (s.mapStation a f).pending = s.pending := rfl

@[simp] theorem State.mapTrunkCounters_now (s : State) (f : TrunkCounters → TrunkCounters) : (s.mapTrunkCounters f).now = s.now := rfl
@[simp] theorem State.mapTrunkCounters_pool (s : State) (f : TrunkCounters → TrunkCounters) : (s.mapTrunkCounters f).pool = s.pool := rfl
@[simp] theorem State.mapTrunkCounters_stations (s : State) (f : TrunkCounters → TrunkCounters) : (s.mapTrunkCounters f).stations = s.stations := rfl
@[simp] theorem State.mapTrunkCounters_exchanges (s : State) (f : TrunkCounters → TrunkCounters) : (s.mapTrunkCounters f).exchanges = s.exchanges := rfl
@[simp] theorem State.mapTrunkCounters_drops (s : State) (f : TrunkCounters → TrunkCounters) : (s.mapTrunkCounters f).drops = s.drops := rfl
@[simp] theorem State.mapTrunkCounters_upstream (s : State) (f : TrunkCounters → TrunkCounters) : (s.mapTrunkCounters f).upstream = s.upstream := rfl
@[simp] theorem State.mapTrunkCounters_settings (s : State) (f : TrunkCounters → TrunkCounters) : (s.mapTrunkCounters f).settings = s.settings := rfl
@[simp] theorem State.mapTrunkCounters_mgmt (s : State) (f : TrunkCounters → TrunkCounters) : (s.mapTrunkCounters f).mgmt = s.mgmt := rfl
@[simp] theorem State.mapTrunkCounters_image (s : State) (f : TrunkCounters → TrunkCounters) : (s.mapTrunkCounters f).image = s.image := rfl
@[simp] theorem State.mapTrunkCounters_memory (s : State) (f : TrunkCounters → TrunkCounters) : (s.mapTrunkCounters f).memory = s.memory := rfl
@[simp] theorem State.mapTrunkCounters_chance (s : State) (f : TrunkCounters → TrunkCounters) : (s.mapTrunkCounters f).chance = s.chance := rfl
@[simp] theorem State.mapTrunkCounters_pending (s : State) (f : TrunkCounters → TrunkCounters) : (s.mapTrunkCounters f).pending = s.pending := rfl

@[simp] theorem State.giveTrunk_now (s : State) (src : TxSource) : (s.giveTrunk src).now = s.now := rfl
@[simp] theorem State.giveTrunk_pool (s : State) (src : TxSource) : (s.giveTrunk src).pool = s.pool := rfl
@[simp] theorem State.giveTrunk_stations (s : State) (src : TxSource) : (s.giveTrunk src).stations = s.stations := rfl
@[simp] theorem State.giveTrunk_exchanges (s : State) (src : TxSource) : (s.giveTrunk src).exchanges = s.exchanges := rfl
@[simp] theorem State.giveTrunk_drops (s : State) (src : TxSource) : (s.giveTrunk src).drops = s.drops := rfl
@[simp] theorem State.giveTrunk_upstream (s : State) (src : TxSource) : (s.giveTrunk src).upstream = s.upstream := rfl
@[simp] theorem State.giveTrunk_settings (s : State) (src : TxSource) : (s.giveTrunk src).settings = s.settings := rfl
@[simp] theorem State.giveTrunk_mgmt (s : State) (src : TxSource) : (s.giveTrunk src).mgmt = s.mgmt := rfl
@[simp] theorem State.giveTrunk_image (s : State) (src : TxSource) : (s.giveTrunk src).image = s.image := rfl
@[simp] theorem State.giveTrunk_memory (s : State) (src : TxSource) : (s.giveTrunk src).memory = s.memory := rfl
@[simp] theorem State.giveTrunk_chance (s : State) (src : TxSource) : (s.giveTrunk src).chance = s.chance := rfl
@[simp] theorem State.giveTrunk_pending (s : State) (src : TxSource) : (s.giveTrunk src).pending = s.pending := rfl

@[simp] theorem State.putLoad_now (s : State) (l : Load) : (s.putLoad l).now = s.now := rfl
@[simp] theorem State.putLoad_pool (s : State) (l : Load) : (s.putLoad l).pool = s.pool := rfl
@[simp] theorem State.putLoad_stations (s : State) (l : Load) : (s.putLoad l).stations = s.stations := rfl
@[simp] theorem State.putLoad_exchanges (s : State) (l : Load) : (s.putLoad l).exchanges = s.exchanges := rfl
@[simp] theorem State.putLoad_drops (s : State) (l : Load) : (s.putLoad l).drops = s.drops := rfl
@[simp] theorem State.putLoad_trunk (s : State) (l : Load) : (s.putLoad l).trunk = s.trunk := rfl
@[simp] theorem State.putLoad_upstream (s : State) (l : Load) : (s.putLoad l).upstream = s.upstream := rfl
@[simp] theorem State.putLoad_settings (s : State) (l : Load) : (s.putLoad l).settings = s.settings := rfl
@[simp] theorem State.putLoad_mgmt (s : State) (l : Load) : (s.putLoad l).mgmt = s.mgmt := rfl
@[simp] theorem State.putLoad_memory (s : State) (l : Load) : (s.putLoad l).memory = s.memory := rfl
@[simp] theorem State.putLoad_chance (s : State) (l : Load) : (s.putLoad l).chance = s.chance := rfl
@[simp] theorem State.putLoad_pending (s : State) (l : Load) : (s.putLoad l).pending = s.pending := rfl

@[simp] theorem State.skipRecord_now (s : State) : (s.skipRecord).now = s.now := rfl
@[simp] theorem State.skipRecord_pool (s : State) : (s.skipRecord).pool = s.pool := rfl
@[simp] theorem State.skipRecord_stations (s : State) : (s.skipRecord).stations = s.stations := rfl
@[simp] theorem State.skipRecord_exchanges (s : State) : (s.skipRecord).exchanges = s.exchanges := rfl
@[simp] theorem State.skipRecord_drops (s : State) : (s.skipRecord).drops = s.drops := rfl
@[simp] theorem State.skipRecord_trunk (s : State) : (s.skipRecord).trunk = s.trunk := rfl
@[simp] theorem State.skipRecord_upstream (s : State) : (s.skipRecord).upstream = s.upstream := rfl
@[simp] theorem State.skipRecord_settings (s : State) : (s.skipRecord).settings = s.settings := rfl
@[simp] theorem State.skipRecord_mgmt (s : State) : (s.skipRecord).mgmt = s.mgmt := rfl
@[simp] theorem State.skipRecord_memory (s : State) : (s.skipRecord).memory = s.memory := rfl
@[simp] theorem State.skipRecord_chance (s : State) : (s.skipRecord).chance = s.chance := rfl
@[simp] theorem State.skipRecord_pending (s : State) : (s.skipRecord).pending = s.pending := rfl

@[simp] theorem State.takeWrite_now (s : State) (w : Nat × List Byte) : (s.takeWrite w).now = s.now := rfl
@[simp] theorem State.takeWrite_pool (s : State) (w : Nat × List Byte) : (s.takeWrite w).pool = s.pool := rfl
@[simp] theorem State.takeWrite_stations (s : State) (w : Nat × List Byte) : (s.takeWrite w).stations = s.stations := rfl
@[simp] theorem State.takeWrite_exchanges (s : State) (w : Nat × List Byte) : (s.takeWrite w).exchanges = s.exchanges := rfl
@[simp] theorem State.takeWrite_drops (s : State) (w : Nat × List Byte) : (s.takeWrite w).drops = s.drops := rfl
@[simp] theorem State.takeWrite_trunk (s : State) (w : Nat × List Byte) : (s.takeWrite w).trunk = s.trunk := rfl
@[simp] theorem State.takeWrite_upstream (s : State) (w : Nat × List Byte) : (s.takeWrite w).upstream = s.upstream := rfl
@[simp] theorem State.takeWrite_settings (s : State) (w : Nat × List Byte) : (s.takeWrite w).settings = s.settings := rfl
@[simp] theorem State.takeWrite_mgmt (s : State) (w : Nat × List Byte) : (s.takeWrite w).mgmt = s.mgmt := rfl
@[simp] theorem State.takeWrite_image (s : State) (w : Nat × List Byte) : (s.takeWrite w).image = s.image := rfl
@[simp] theorem State.takeWrite_chance (s : State) (w : Nat × List Byte) : (s.takeWrite w).chance = s.chance := rfl
@[simp] theorem State.takeWrite_pending (s : State) (w : Nat × List Byte) : (s.takeWrite w).pending = s.pending := rfl

@[simp] theorem State.putStation_now (s : State) (st : Station) : (s.putStation st).now = s.now := rfl
@[simp] theorem State.putStation_pool (s : State) (st : Station) : (s.putStation st).pool = s.pool := rfl
@[simp] theorem State.putStation_exchanges (s : State) (st : Station) : (s.putStation st).exchanges = s.exchanges := rfl
@[simp] theorem State.putStation_drops (s : State) (st : Station) : (s.putStation st).drops = s.drops := rfl
@[simp] theorem State.putStation_trunk (s : State) (st : Station) : (s.putStation st).trunk = s.trunk := rfl
@[simp] theorem State.putStation_upstream (s : State) (st : Station) : (s.putStation st).upstream = s.upstream := rfl
@[simp] theorem State.putStation_settings (s : State) (st : Station) : (s.putStation st).settings = s.settings := rfl
@[simp] theorem State.putStation_mgmt (s : State) (st : Station) : (s.putStation st).mgmt = s.mgmt := rfl
@[simp] theorem State.putStation_image (s : State) (st : Station) : (s.putStation st).image = s.image := rfl
@[simp] theorem State.putStation_memory (s : State) (st : Station) : (s.putStation st).memory = s.memory := rfl
@[simp] theorem State.putStation_chance (s : State) (st : Station) : (s.putStation st).chance = s.chance := rfl
@[simp] theorem State.putStation_pending (s : State) (st : Station) : (s.putStation st).pending = s.pending := rfl

@[simp] theorem State.eraseStation_now (s : State) (a : Byte) : (s.eraseStation a).now = s.now := rfl
@[simp] theorem State.eraseStation_pool (s : State) (a : Byte) : (s.eraseStation a).pool = s.pool := rfl
@[simp] theorem State.eraseStation_exchanges (s : State) (a : Byte) : (s.eraseStation a).exchanges = s.exchanges := rfl
@[simp] theorem State.eraseStation_drops (s : State) (a : Byte) : (s.eraseStation a).drops = s.drops := rfl
@[simp] theorem State.eraseStation_trunk (s : State) (a : Byte) : (s.eraseStation a).trunk = s.trunk := rfl
@[simp] theorem State.eraseStation_upstream (s : State) (a : Byte) : (s.eraseStation a).upstream = s.upstream := rfl
@[simp] theorem State.eraseStation_settings (s : State) (a : Byte) : (s.eraseStation a).settings = s.settings := rfl
@[simp] theorem State.eraseStation_mgmt (s : State) (a : Byte) : (s.eraseStation a).mgmt = s.mgmt := rfl
@[simp] theorem State.eraseStation_image (s : State) (a : Byte) : (s.eraseStation a).image = s.image := rfl
@[simp] theorem State.eraseStation_memory (s : State) (a : Byte) : (s.eraseStation a).memory = s.memory := rfl
@[simp] theorem State.eraseStation_chance (s : State) (a : Byte) : (s.eraseStation a).chance = s.chance := rfl
@[simp] theorem State.eraseStation_pending (s : State) (a : Byte) : (s.eraseStation a).pending = s.pending := rfl

@[simp] theorem State.rederiveAll_now (s : State) (threshold : Nat) : (s.rederiveAll threshold).now = s.now := rfl
@[simp] theorem State.rederiveAll_pool (s : State) (threshold : Nat) : (s.rederiveAll threshold).pool = s.pool := rfl
@[simp] theorem State.rederiveAll_exchanges (s : State) (threshold : Nat) : (s.rederiveAll threshold).exchanges = s.exchanges := rfl
@[simp] theorem State.rederiveAll_drops (s : State) (threshold : Nat) : (s.rederiveAll threshold).drops = s.drops := rfl
@[simp] theorem State.rederiveAll_trunk (s : State) (threshold : Nat) : (s.rederiveAll threshold).trunk = s.trunk := rfl
@[simp] theorem State.rederiveAll_upstream (s : State) (threshold : Nat) : (s.rederiveAll threshold).upstream = s.upstream := rfl
@[simp] theorem State.rederiveAll_settings (s : State) (threshold : Nat) : (s.rederiveAll threshold).settings = s.settings := rfl
@[simp] theorem State.rederiveAll_mgmt (s : State) (threshold : Nat) : (s.rederiveAll threshold).mgmt = s.mgmt := rfl
@[simp] theorem State.rederiveAll_image (s : State) (threshold : Nat) : (s.rederiveAll threshold).image = s.image := rfl
@[simp] theorem State.rederiveAll_memory (s : State) (threshold : Nat) : (s.rederiveAll threshold).memory = s.memory := rfl
@[simp] theorem State.rederiveAll_chance (s : State) (threshold : Nat) : (s.rederiveAll threshold).chance = s.chance := rfl
@[simp] theorem State.rederiveAll_pending (s : State) (threshold : Nat) : (s.rederiveAll threshold).pending = s.pending := rfl

end Sys2Proof.Machine
end

