-- ==== Sys2Proof/Laws/Frames.lean ====
section
/-! SUPPORT. The frame of every shared operation: the fields of State it leaves alone, one lemma per operation. -/

namespace Sys2Proof.Machine

/-- What every step of a fold keeps, the fold keeps. -/
theorem foldl_keeps {α β γ : Type} (F : β → γ) (f : β → α → β) (h : ∀ b a, F (f b a) = F b) (l : List α) (b : β) :
    F (l.foldl f b) = F b := by
  induction l generalizing b with
  | nil => rfl
  | cons a l ih => rw [List.foldl_cons, ih, h]

@[simp] theorem State.mapExchange_keeps (s : State) (t : Tag) (f : Exchange → Exchange) :
    (State.mapExchange s t f).now = s.now ∧ (State.mapExchange s t f).pool = s.pool ∧
    (State.mapExchange s t f).stations = s.stations ∧ (State.mapExchange s t f).drops = s.drops ∧
    (State.mapExchange s t f).trunk = s.trunk ∧ (State.mapExchange s t f).upstream = s.upstream ∧
    (State.mapExchange s t f).settings = s.settings ∧ (State.mapExchange s t f).mgmt = s.mgmt ∧
    (State.mapExchange s t f).image = s.image ∧ (State.mapExchange s t f).memory = s.memory ∧
    (State.mapExchange s t f).chance = s.chance ∧ (State.mapExchange s t f).pending = s.pending := by
  simp [State.mapExchange]

@[simp] theorem State.setRx_keeps (s : State) (l : Line) (r : Receiver) :
    (State.setRx s l r).now = s.now ∧ (State.setRx s l r).pool = s.pool ∧ (State.setRx s l r).stations = s.stations ∧
    (State.setRx s l r).exchanges = s.exchanges ∧ (State.setRx s l r).upstream = s.upstream ∧
    (State.setRx s l r).settings = s.settings ∧ (State.setRx s l r).mgmt = s.mgmt ∧
    (State.setRx s l r).image = s.image ∧ (State.setRx s l r).memory = s.memory ∧
    (State.setRx s l r).chance = s.chance ∧ (State.setRx s l r).pending = s.pending := by
  unfold State.setRx; split <;> simp

@[simp] theorem State.mapDropCounters_keeps (s : State) (d : DropId) (f : DropCounters → DropCounters) :
    (State.mapDropCounters s d f).now = s.now ∧ (State.mapDropCounters s d f).pool = s.pool ∧
    (State.mapDropCounters s d f).stations = s.stations ∧ (State.mapDropCounters s d f).exchanges = s.exchanges ∧
    (State.mapDropCounters s d f).trunk = s.trunk ∧ (State.mapDropCounters s d f).upstream = s.upstream ∧
    (State.mapDropCounters s d f).settings = s.settings ∧ (State.mapDropCounters s d f).mgmt = s.mgmt ∧
    (State.mapDropCounters s d f).image = s.image ∧ (State.mapDropCounters s d f).memory = s.memory ∧
    (State.mapDropCounters s d f).chance = s.chance ∧ (State.mapDropCounters s d f).pending = s.pending := by
  simp [State.mapDropCounters]

@[simp] theorem State.countBroken_keeps (s : State) (z : Line) :
    (State.countBroken s z).now = s.now ∧ (State.countBroken s z).pool = s.pool ∧
    (State.countBroken s z).stations = s.stations ∧ (State.countBroken s z).exchanges = s.exchanges ∧
    (State.countBroken s z).upstream = s.upstream ∧ (State.countBroken s z).settings = s.settings ∧
    (State.countBroken s z).mgmt = s.mgmt ∧ (State.countBroken s z).image = s.image ∧
    (State.countBroken s z).memory = s.memory ∧ (State.countBroken s z).chance = s.chance ∧
    (State.countBroken s z).pending = s.pending := by
  cases z <;> simp [State.countBroken]

@[simp] theorem State.countBad_keeps (s : State) (z : Line) :
    (State.countBad s z).now = s.now ∧ (State.countBad s z).pool = s.pool ∧
    (State.countBad s z).stations = s.stations ∧ (State.countBad s z).exchanges = s.exchanges ∧
    (State.countBad s z).upstream = s.upstream ∧ (State.countBad s z).settings = s.settings ∧
    (State.countBad s z).mgmt = s.mgmt ∧ (State.countBad s z).image = s.image ∧
    (State.countBad s z).memory = s.memory ∧ (State.countBad s z).chance = s.chance ∧
    (State.countBad s z).pending = s.pending := by
  cases z <;> simp [State.countBad]

@[simp] theorem State.dropFrame_keeps (s : State) (l : Line) (next : RxState) :
    (State.dropFrame s l next).now = s.now ∧ (State.dropFrame s l next).stations = s.stations ∧
    (State.dropFrame s l next).exchanges = s.exchanges ∧ (State.dropFrame s l next).upstream = s.upstream ∧
    (State.dropFrame s l next).settings = s.settings ∧ (State.dropFrame s l next).mgmt = s.mgmt ∧
    (State.dropFrame s l next).image = s.image ∧ (State.dropFrame s l next).memory = s.memory ∧
    (State.dropFrame s l next).chance = s.chance ∧ (State.dropFrame s l next).pending = s.pending := by
  unfold State.dropFrame; split <;> simp

@[simp] theorem State.queueUp_keeps (s : State) (c : Class) (b : BufId) :
    (State.queueUp s c b).now = s.now ∧ (State.queueUp s c b).pool = s.pool ∧
    (State.queueUp s c b).stations = s.stations ∧ (State.queueUp s c b).exchanges = s.exchanges ∧
    (State.queueUp s c b).drops = s.drops ∧ (State.queueUp s c b).trunk = s.trunk ∧
    (State.queueUp s c b).settings = s.settings ∧ (State.queueUp s c b).mgmt = s.mgmt ∧
    (State.queueUp s c b).image = s.image ∧ (State.queueUp s c b).memory = s.memory ∧
    (State.queueUp s c b).chance = s.chance ∧ (State.queueUp s c b).pending = s.pending := by
  unfold State.queueUp; split <;> simp

@[simp] theorem State.giveRoutine_keeps (s : State) (b : BufId) (rest : List BufId) :
    (State.giveRoutine s b rest).now = s.now ∧ (State.giveRoutine s b rest).pool = s.pool ∧
    (State.giveRoutine s b rest).stations = s.stations ∧ (State.giveRoutine s b rest).exchanges = s.exchanges ∧
    (State.giveRoutine s b rest).drops = s.drops ∧ (State.giveRoutine s b rest).settings = s.settings ∧
    (State.giveRoutine s b rest).mgmt = s.mgmt ∧ (State.giveRoutine s b rest).image = s.image ∧
    (State.giveRoutine s b rest).memory = s.memory ∧ (State.giveRoutine s b rest).chance = s.chance ∧
    (State.giveRoutine s b rest).pending = s.pending := by
  simp [State.giveRoutine]

@[simp] theorem State.giveUrgent_keeps (s : State) (b : BufId) (rest : List BufId) :
    (State.giveUrgent s b rest).now = s.now ∧ (State.giveUrgent s b rest).pool = s.pool ∧
    (State.giveUrgent s b rest).stations = s.stations ∧ (State.giveUrgent s b rest).exchanges = s.exchanges ∧
    (State.giveUrgent s b rest).drops = s.drops ∧ (State.giveUrgent s b rest).settings = s.settings ∧
    (State.giveUrgent s b rest).mgmt = s.mgmt ∧ (State.giveUrgent s b rest).image = s.image ∧
    (State.giveUrgent s b rest).memory = s.memory ∧ (State.giveUrgent s b rest).chance = s.chance ∧
    (State.giveUrgent s b rest).pending = s.pending := by
  simp [State.giveUrgent]

@[simp] theorem State.giveState_keeps (s : State) (st : Station) :
    (State.giveState s st).now = s.now ∧ (State.giveState s st).pool = s.pool ∧
    (State.giveState s st).exchanges = s.exchanges ∧ (State.giveState s st).drops = s.drops ∧
    (State.giveState s st).settings = s.settings ∧ (State.giveState s st).mgmt = s.mgmt ∧
    (State.giveState s st).image = s.image ∧ (State.giveState s st).memory = s.memory ∧
    (State.giveState s st).chance = s.chance ∧ (State.giveState s st).pending = s.pending := by
  simp [State.giveState]

@[simp] theorem State.arbitrate_keeps (s : State) :
    (State.arbitrate s).now = s.now ∧ (State.arbitrate s).pool = s.pool ∧
    (State.arbitrate s).exchanges = s.exchanges ∧ (State.arbitrate s).drops = s.drops ∧
    (State.arbitrate s).settings = s.settings ∧ (State.arbitrate s).mgmt = s.mgmt ∧
    (State.arbitrate s).image = s.image ∧ (State.arbitrate s).memory = s.memory ∧
    (State.arbitrate s).chance = s.chance ∧ (State.arbitrate s).pending = s.pending := by
  unfold State.arbitrate; (repeat' split) <;> simp

@[simp] theorem State.leaveService_keeps (s : State) (d : DropId) (b : BufId) :
    (State.leaveService s d b).now = s.now ∧ (State.leaveService s d b).stations = s.stations ∧
    (State.leaveService s d b).exchanges = s.exchanges ∧ (State.leaveService s d b).trunk = s.trunk ∧
    (State.leaveService s d b).upstream = s.upstream ∧ (State.leaveService s d b).settings = s.settings ∧
    (State.leaveService s d b).mgmt = s.mgmt ∧ (State.leaveService s d b).image = s.image ∧
    (State.leaveService s d b).memory = s.memory ∧ (State.leaveService s d b).chance = s.chance ∧
    (State.leaveService s d b).pending = s.pending := by
  simp [State.leaveService]

@[simp] theorem State.leaveQueue_keeps (s : State) (d : DropId) (t : Tag) (b : BufId) :
    (State.leaveQueue s d t b).now = s.now ∧ (State.leaveQueue s d t b).stations = s.stations ∧
    (State.leaveQueue s d t b).exchanges = s.exchanges ∧ (State.leaveQueue s d t b).trunk = s.trunk ∧
    (State.leaveQueue s d t b).upstream = s.upstream ∧ (State.leaveQueue s d t b).settings = s.settings ∧
    (State.leaveQueue s d t b).mgmt = s.mgmt ∧ (State.leaveQueue s d t b).image = s.image ∧
    (State.leaveQueue s d t b).memory = s.memory ∧ (State.leaveQueue s d t b).chance = s.chance ∧
    (State.leaveQueue s d t b).pending = s.pending := by
  simp [State.leaveQueue]

@[simp] theorem State.endDropHold_keeps (s : State) (t : Tag) (e : Exchange) :
    (State.endDropHold s t e).now = s.now ∧ (State.endDropHold s t e).stations = s.stations ∧
    (State.endDropHold s t e).exchanges = s.exchanges ∧ (State.endDropHold s t e).trunk = s.trunk ∧
    (State.endDropHold s t e).upstream = s.upstream ∧ (State.endDropHold s t e).settings = s.settings ∧
    (State.endDropHold s t e).mgmt = s.mgmt ∧ (State.endDropHold s t e).image = s.image ∧
    (State.endDropHold s t e).memory = s.memory ∧ (State.endDropHold s t e).chance = s.chance ∧
    (State.endDropHold s t e).pending = s.pending := by
  unfold State.endDropHold; split <;> simp

@[simp] theorem State.closeExchange_keeps (s : State) (t : Tag) (r : ClosureReason) :
    (State.closeExchange s t r).now = s.now ∧ (State.closeExchange s t r).trunk = s.trunk ∧
    (State.closeExchange s t r).settings = s.settings ∧ (State.closeExchange s t r).mgmt = s.mgmt ∧
    (State.closeExchange s t r).image = s.image ∧ (State.closeExchange s t r).memory = s.memory ∧
    (State.closeExchange s t r).chance = s.chance ∧ (State.closeExchange s t r).pending = s.pending := by
  unfold State.closeExchange; split <;> simp

@[simp] theorem State.closeByAnswer_keeps (s : State) (t : Tag) (b : BufId) :
    (State.closeByAnswer s t b).now = s.now ∧ (State.closeByAnswer s t b).trunk = s.trunk ∧
    (State.closeByAnswer s t b).settings = s.settings ∧ (State.closeByAnswer s t b).mgmt = s.mgmt ∧
    (State.closeByAnswer s t b).image = s.image ∧ (State.closeByAnswer s t b).memory = s.memory ∧
    (State.closeByAnswer s t b).chance = s.chance ∧ (State.closeByAnswer s t b).pending = s.pending := by
  unfold State.closeByAnswer; split <;> simp

@[simp] theorem State.deferExchange_keeps (s : State) (t : Tag) :
    (State.deferExchange s t).now = s.now ∧ (State.deferExchange s t).stations = s.stations ∧
    (State.deferExchange s t).trunk = s.trunk ∧ (State.deferExchange s t).upstream = s.upstream ∧
    (State.deferExchange s t).settings = s.settings ∧ (State.deferExchange s t).mgmt = s.mgmt ∧
    (State.deferExchange s t).image = s.image ∧ (State.deferExchange s t).memory = s.memory ∧
    (State.deferExchange s t).chance = s.chance ∧ (State.deferExchange s t).pending = s.pending := by
  unfold State.deferExchange; split <;> simp

@[simp] theorem State.clearItem_keeps (r : ClosureReason) (s : State) (it : Item) :
    (State.clearItem r s it).now = s.now ∧ (State.clearItem r s it).trunk = s.trunk ∧
    (State.clearItem r s it).settings = s.settings ∧ (State.clearItem r s it).mgmt = s.mgmt ∧
    (State.clearItem r s it).image = s.image ∧ (State.clearItem r s it).memory = s.memory ∧
    (State.clearItem r s it).chance = s.chance ∧ (State.clearItem r s it).pending = s.pending := by
  unfold State.clearItem; split <;> simp

@[simp] theorem State.closeWork_keeps (s : State) (d : DropId) (inService rest : ClosureReason) :
    (State.closeWork s d inService rest).now = s.now ∧ (State.closeWork s d inService rest).trunk = s.trunk ∧
    (State.closeWork s d inService rest).settings = s.settings ∧ (State.closeWork s d inService rest).mgmt = s.mgmt ∧
    (State.closeWork s d inService rest).image = s.image ∧ (State.closeWork s d inService rest).memory = s.memory ∧
    (State.closeWork s d inService rest).chance = s.chance ∧
    (State.closeWork s d inService rest).pending = s.pending := by
  simp only [State.closeWork]
  refine ⟨?_, ?_, ?_, ?_, ?_, ?_, ?_, ?_⟩
  · rw [foldl_keeps State.now _ (fun _ _ => by simp), State.mapDrop_now, foldl_keeps State.now _ (fun _ _ => by simp)]; split <;> simp
  · rw [foldl_keeps State.trunk _ (fun _ _ => by simp), State.mapDrop_trunk, foldl_keeps State.trunk _ (fun _ _ => by simp)]; split <;> simp
  · rw [foldl_keeps State.settings _ (fun _ _ => by simp), State.mapDrop_settings, foldl_keeps State.settings _ (fun _ _ => by simp)]; split <;> simp
  · rw [foldl_keeps State.mgmt _ (fun _ _ => by simp), State.mapDrop_mgmt, foldl_keeps State.mgmt _ (fun _ _ => by simp)]; split <;> simp
  · rw [foldl_keeps State.image _ (fun _ _ => by simp), State.mapDrop_image, foldl_keeps State.image _ (fun _ _ => by simp)]; split <;> simp
  · rw [foldl_keeps State.memory _ (fun _ _ => by simp), State.mapDrop_memory, foldl_keeps State.memory _ (fun _ _ => by simp)]; split <;> simp
  · rw [foldl_keeps State.chance _ (fun _ _ => by simp), State.mapDrop_chance, foldl_keeps State.chance _ (fun _ _ => by simp)]; split <;> simp
  · rw [foldl_keeps State.pending _ (fun _ _ => by simp), State.mapDrop_pending, foldl_keeps State.pending _ (fun _ _ => by simp)]; split <;> simp

/-! A drop's line is not the trunk, and the trunk is no drop. -/

@[simp] theorem State.setRx_drop_trunk (s : State) (d : DropId) (r : Receiver) : (s.setRx (.drop d) r).trunk = s.trunk := rfl
@[simp] theorem State.setRx_trunk_drops (s : State) (r : Receiver) : (s.setRx .trunk r).drops = s.drops := rfl
@[simp] theorem State.countBroken_drop_trunk (s : State) (d : DropId) : (s.countBroken (.drop d)).trunk = s.trunk := rfl
@[simp] theorem State.countBroken_trunk_drops (s : State) : (s.countBroken .trunk).drops = s.drops := rfl
@[simp] theorem State.countBad_drop_trunk (s : State) (d : DropId) : (s.countBad (.drop d)).trunk = s.trunk := rfl
@[simp] theorem State.countBad_trunk_drops (s : State) : (s.countBad .trunk).drops = s.drops := rfl
@[simp] theorem State.dropFrame_drop_trunk (s : State) (d : DropId) (n : RxState) :
    (s.dropFrame (.drop d) n).trunk = s.trunk := by
  unfold State.dropFrame; split <;> simp
@[simp] theorem State.dropFrame_trunk_drops (s : State) (n : RxState) : (s.dropFrame .trunk n).drops = s.drops := by
  unfold State.dropFrame; split <;> simp

@[simp] theorem State.holdReceiver_keeps (s : State) (d : DropId) (counted : Bool) :
    (State.holdReceiver s d counted).now = s.now ∧ (State.holdReceiver s d counted).stations = s.stations ∧
    (State.holdReceiver s d counted).exchanges = s.exchanges ∧ (State.holdReceiver s d counted).trunk = s.trunk ∧
    (State.holdReceiver s d counted).upstream = s.upstream ∧ (State.holdReceiver s d counted).settings = s.settings ∧
    (State.holdReceiver s d counted).mgmt = s.mgmt ∧ (State.holdReceiver s d counted).image = s.image ∧
    (State.holdReceiver s d counted).memory = s.memory ∧ (State.holdReceiver s d counted).chance = s.chance ∧
    (State.holdReceiver s d counted).pending = s.pending := by
  unfold State.holdReceiver; (repeat' split) <;> simp

@[simp] theorem State.startSending_keeps (s : State) (d : DropId) (src : TxSource) :
    (State.startSending s d src).now = s.now ∧ (State.startSending s d src).stations = s.stations ∧
    (State.startSending s d src).exchanges = s.exchanges ∧ (State.startSending s d src).trunk = s.trunk ∧
    (State.startSending s d src).upstream = s.upstream ∧ (State.startSending s d src).settings = s.settings ∧
    (State.startSending s d src).mgmt = s.mgmt ∧ (State.startSending s d src).image = s.image ∧
    (State.startSending s d src).memory = s.memory ∧ (State.startSending s d src).chance = s.chance ∧
    (State.startSending s d src).pending = s.pending := by
  simp [State.startSending]

@[simp] theorem State.startFetch_keeps (s : State) (d : DropId) (t : Tag) :
    (State.startFetch s d t).now = s.now ∧ (State.startFetch s d t).stations = s.stations ∧
    (State.startFetch s d t).trunk = s.trunk ∧ (State.startFetch s d t).upstream = s.upstream ∧
    (State.startFetch s d t).settings = s.settings ∧ (State.startFetch s d t).mgmt = s.mgmt ∧
    (State.startFetch s d t).image = s.image ∧ (State.startFetch s d t).memory = s.memory ∧
    (State.startFetch s d t).chance = s.chance ∧ (State.startFetch s d t).pending = s.pending := by
  unfold State.startFetch; split <;> simp

@[simp] theorem State.readdress_keeps (s : State) (b : BufId) (a : Byte) :
    (State.readdress s b a).now = s.now ∧ (State.readdress s b a).stations = s.stations ∧
    (State.readdress s b a).exchanges = s.exchanges ∧ (State.readdress s b a).drops = s.drops ∧
    (State.readdress s b a).trunk = s.trunk ∧ (State.readdress s b a).upstream = s.upstream ∧
    (State.readdress s b a).settings = s.settings ∧ (State.readdress s b a).mgmt = s.mgmt ∧
    (State.readdress s b a).image = s.image ∧ (State.readdress s b a).memory = s.memory ∧
    (State.readdress s b a).chance = s.chance ∧ (State.readdress s b a).pending = s.pending := by
  simp [State.readdress]

@[simp] theorem State.startItem_keeps (s : State) (d : DropId) (it : Item) (rest : List Item) :
    (State.startItem s d it rest).now = s.now ∧ (State.startItem s d it rest).stations = s.stations ∧
    (State.startItem s d it rest).trunk = s.trunk ∧ (State.startItem s d it rest).upstream = s.upstream ∧
    (State.startItem s d it rest).settings = s.settings ∧ (State.startItem s d it rest).mgmt = s.mgmt ∧
    (State.startItem s d it rest).image = s.image ∧ (State.startItem s d it rest).memory = s.memory ∧
    (State.startItem s d it rest).chance = s.chance ∧ (State.startItem s d it rest).pending = s.pending := by
  simp only [State.startItem]; (repeat' split) <;> simp

@[simp] theorem State.chooseWork_keeps (s : State) (d : DropId) :
    (State.chooseWork s d).now = s.now ∧ (State.chooseWork s d).stations = s.stations ∧
    (State.chooseWork s d).trunk = s.trunk ∧ (State.chooseWork s d).upstream = s.upstream ∧
    (State.chooseWork s d).settings = s.settings ∧ (State.chooseWork s d).mgmt = s.mgmt ∧
    (State.chooseWork s d).image = s.image ∧ (State.chooseWork s d).memory = s.memory ∧
    (State.chooseWork s d).chance = s.chance ∧ (State.chooseWork s d).pending = s.pending := by
  unfold State.chooseWork; (repeat' split) <;> simp

@[simp] theorem State.applyRate_keeps (s : State) (d : DropId) :
    (State.applyRate s d).now = s.now ∧ (State.applyRate s d).stations = s.stations ∧
    (State.applyRate s d).exchanges = s.exchanges ∧ (State.applyRate s d).trunk = s.trunk ∧
    (State.applyRate s d).upstream = s.upstream ∧ (State.applyRate s d).settings = s.settings ∧
    (State.applyRate s d).mgmt = s.mgmt ∧ (State.applyRate s d).image = s.image ∧
    (State.applyRate s d).memory = s.memory ∧ (State.applyRate s d).chance = s.chance ∧
    (State.applyRate s d).pending = s.pending := by
  unfold State.applyRate; (repeat' split) <;> simp

@[simp] theorem State.enterIdle_keeps (s : State) (d : DropId) :
    (State.enterIdle s d).now = s.now ∧ (State.enterIdle s d).stations = s.stations ∧
    (State.enterIdle s d).trunk = s.trunk ∧ (State.enterIdle s d).upstream = s.upstream ∧
    (State.enterIdle s d).settings = s.settings ∧ (State.enterIdle s d).mgmt = s.mgmt ∧
    (State.enterIdle s d).image = s.image ∧ (State.enterIdle s d).memory = s.memory ∧
    (State.enterIdle s d).chance = s.chance ∧ (State.enterIdle s d).pending = s.pending := by
  simp [State.enterIdle]

@[simp] theorem State.retry_keeps (s : State) (d : DropId) (t : Tag) (e : Exchange) :
    (State.retry s d t e).now = s.now ∧ (State.retry s d t e).stations = s.stations ∧
    (State.retry s d t e).trunk = s.trunk ∧ (State.retry s d t e).upstream = s.upstream ∧
    (State.retry s d t e).settings = s.settings ∧ (State.retry s d t e).mgmt = s.mgmt ∧
    (State.retry s d t e).image = s.image ∧ (State.retry s d t e).memory = s.memory ∧
    (State.retry s d t e).chance = s.chance ∧ (State.retry s d t e).pending = s.pending := by
  simp [State.retry]

@[simp] theorem State.endGuard_keeps (s : State) (d : DropId) :
    (State.endGuard s d).now = s.now ∧ (State.endGuard s d).trunk = s.trunk ∧
    (State.endGuard s d).settings = s.settings ∧ (State.endGuard s d).mgmt = s.mgmt ∧
    (State.endGuard s d).image = s.image ∧ (State.endGuard s d).memory = s.memory ∧
    (State.endGuard s d).chance = s.chance ∧ (State.endGuard s d).pending = s.pending := by
  unfold State.endGuard; (repeat' split) <;> simp

@[simp] theorem State.settleGuard_keeps (s : State) (d : DropId) :
    (State.settleGuard s d).now = s.now ∧ (State.settleGuard s d).trunk = s.trunk ∧
    (State.settleGuard s d).settings = s.settings ∧ (State.settleGuard s d).mgmt = s.mgmt ∧
    (State.settleGuard s d).image = s.image ∧ (State.settleGuard s d).memory = s.memory ∧
    (State.settleGuard s d).chance = s.chance ∧ (State.settleGuard s d).pending = s.pending := by
  unfold State.settleGuard; split <;> simp

@[simp] theorem State.startWindow_keeps (s : State) (d : DropId) (t : Tag) (e : Exchange) :
    (State.startWindow s d t e).now = s.now ∧ (State.startWindow s d t e).pool = s.pool ∧
    (State.startWindow s d t e).stations = s.stations ∧ (State.startWindow s d t e).trunk = s.trunk ∧
    (State.startWindow s d t e).upstream = s.upstream ∧ (State.startWindow s d t e).settings = s.settings ∧
    (State.startWindow s d t e).mgmt = s.mgmt ∧ (State.startWindow s d t e).image = s.image ∧
    (State.startWindow s d t e).memory = s.memory ∧ (State.startWindow s d t e).chance = s.chance ∧
    (State.startWindow s d t e).pending = s.pending := by
  simp [State.startWindow]

@[simp] theorem State.expireExchange_keeps (s : State) (t : Tag) :
    (State.expireExchange s t).now = s.now ∧ (State.expireExchange s t).trunk = s.trunk ∧
    (State.expireExchange s t).settings = s.settings ∧ (State.expireExchange s t).mgmt = s.mgmt ∧
    (State.expireExchange s t).image = s.image ∧ (State.expireExchange s t).memory = s.memory ∧
    (State.expireExchange s t).chance = s.chance ∧ (State.expireExchange s t).pending = s.pending := by
  unfold State.expireExchange; (repeat' split) <;> simp

@[simp] theorem State.takeExpiry_keeps (s : State) (d : DropId) :
    (State.takeExpiry s d).now = s.now ∧ (State.takeExpiry s d).settings = s.settings ∧
    (State.takeExpiry s d).mgmt = s.mgmt ∧ (State.takeExpiry s d).image = s.image ∧
    (State.takeExpiry s d).memory = s.memory ∧ (State.takeExpiry s d).chance = s.chance ∧
    (State.takeExpiry s d).pending = s.pending := by
  simp only [State.takeExpiry]; (repeat' split) <;> simp

@[simp] theorem State.afterFrame_keeps (s : State) (d : DropId) :
    (State.afterFrame s d).now = s.now ∧ (State.afterFrame s d).settings = s.settings ∧
    (State.afterFrame s d).mgmt = s.mgmt ∧ (State.afterFrame s d).image = s.image ∧
    (State.afterFrame s d).memory = s.memory ∧ (State.afterFrame s d).chance = s.chance ∧
    (State.afterFrame s d).pending = s.pending := by
  unfold State.afterFrame; (repeat' split) <;> simp

@[simp] theorem State.stray_keeps (s : State) (d : DropId) (b : BufId) :
    (State.stray s d b).now = s.now ∧ (State.stray s d b).settings = s.settings ∧ (State.stray s d b).mgmt = s.mgmt ∧
    (State.stray s d b).image = s.image ∧ (State.stray s d b).memory = s.memory ∧
    (State.stray s d b).chance = s.chance ∧ (State.stray s d b).pending = s.pending := by
  simp [State.stray]

@[simp] theorem State.deferDecided_keeps (s : State) (t : Tag) :
    (State.deferDecided s t).now = s.now ∧ (State.deferDecided s t).trunk = s.trunk ∧
    (State.deferDecided s t).settings = s.settings ∧ (State.deferDecided s t).mgmt = s.mgmt ∧
    (State.deferDecided s t).image = s.image ∧ (State.deferDecided s t).memory = s.memory ∧
    (State.deferDecided s t).chance = s.chance ∧ (State.deferDecided s t).pending = s.pending := by
  unfold State.deferDecided; (repeat' split) <;> simp

@[simp] theorem State.takeMatch_keeps (s : State) (d : DropId) (t : Tag) (e : Exchange) (b : BufId) :
    (State.takeMatch s d t e b).now = s.now ∧ (State.takeMatch s d t e b).trunk = s.trunk ∧
    (State.takeMatch s d t e b).settings = s.settings ∧ (State.takeMatch s d t e b).mgmt = s.mgmt ∧
    (State.takeMatch s d t e b).image = s.image ∧ (State.takeMatch s d t e b).memory = s.memory ∧
    (State.takeMatch s d t e b).chance = s.chance ∧ (State.takeMatch s d t e b).pending = s.pending := by
  simp only [State.takeMatch]; (repeat' split) <;> simp

@[simp] theorem State.matchFrame_keeps (s : State) (d : DropId) (b : BufId) :
    (State.matchFrame s d b).now = s.now ∧ (State.matchFrame s d b).settings = s.settings ∧
    (State.matchFrame s d b).mgmt = s.mgmt ∧ (State.matchFrame s d b).image = s.image ∧
    (State.matchFrame s d b).memory = s.memory ∧ (State.matchFrame s d b).chance = s.chance ∧
    (State.matchFrame s d b).pending = s.pending := by
  unfold State.matchFrame; (repeat' split) <;> simp

@[simp] theorem State.enterFault_keeps (s : State) (d : DropId) :
    (State.enterFault s d).now = s.now ∧ (State.enterFault s d).trunk = s.trunk ∧
    (State.enterFault s d).settings = s.settings ∧ (State.enterFault s d).mgmt = s.mgmt ∧
    (State.enterFault s d).image = s.image ∧ (State.enterFault s d).memory = s.memory ∧
    (State.enterFault s d).chance = s.chance ∧ (State.enterFault s d).pending = s.pending := by
  simp [State.enterFault]

@[simp] theorem State.enterDisabled_keeps (s : State) (d : DropId) (inService : ClosureReason) :
    (State.enterDisabled s d inService).now = s.now ∧ (State.enterDisabled s d inService).trunk = s.trunk ∧
    (State.enterDisabled s d inService).settings = s.settings ∧ (State.enterDisabled s d inService).mgmt = s.mgmt ∧
    (State.enterDisabled s d inService).image = s.image ∧ (State.enterDisabled s d inService).memory = s.memory ∧
    (State.enterDisabled s d inService).chance = s.chance ∧
    (State.enterDisabled s d inService).pending = s.pending := by
  simp [State.enterDisabled]

@[simp] theorem State.disableDrop_keeps (s : State) (d : DropId) :
    (State.disableDrop s d).now = s.now ∧ (State.disableDrop s d).trunk = s.trunk ∧
    (State.disableDrop s d).settings = s.settings ∧ (State.disableDrop s d).mgmt = s.mgmt ∧
    (State.disableDrop s d).image = s.image ∧ (State.disableDrop s d).memory = s.memory ∧
    (State.disableDrop s d).chance = s.chance ∧ (State.disableDrop s d).pending = s.pending := by
  simp only [State.disableDrop]; (repeat' split) <;> simp

@[simp] theorem State.enableDrop_keeps (s : State) (d : DropId) :
    (State.enableDrop s d).now = s.now ∧ (State.enableDrop s d).stations = s.stations ∧
    (State.enableDrop s d).trunk = s.trunk ∧ (State.enableDrop s d).upstream = s.upstream ∧
    (State.enableDrop s d).settings = s.settings ∧ (State.enableDrop s d).mgmt = s.mgmt ∧
    (State.enableDrop s d).image = s.image ∧ (State.enableDrop s d).memory = s.memory ∧
    (State.enableDrop s d).chance = s.chance ∧ (State.enableDrop s d).pending = s.pending := by
  simp only [State.enableDrop]; (repeat' split) <;> simp

@[simp] theorem State.setPendingRate_keeps (s : State) (d : DropId) (r : Rate) :
    (State.setPendingRate s d r).now = s.now ∧ (State.setPendingRate s d r).stations = s.stations ∧
    (State.setPendingRate s d r).trunk = s.trunk ∧ (State.setPendingRate s d r).upstream = s.upstream ∧
    (State.setPendingRate s d r).settings = s.settings ∧ (State.setPendingRate s d r).mgmt = s.mgmt ∧
    (State.setPendingRate s d r).image = s.image ∧ (State.setPendingRate s d r).memory = s.memory ∧
    (State.setPendingRate s d r).chance = s.chance ∧ (State.setPendingRate s d r).pending = s.pending := by
  simp only [State.setPendingRate]; (repeat' split) <;> simp

@[simp] theorem State.exchangeSent_keeps (s : State) (d : DropId) (t : Tag) (e : Exchange) :
    (State.exchangeSent s d t e).now = s.now ∧ (State.exchangeSent s d t e).trunk = s.trunk ∧
    (State.exchangeSent s d t e).settings = s.settings ∧ (State.exchangeSent s d t e).mgmt = s.mgmt ∧
    (State.exchangeSent s d t e).image = s.image ∧ (State.exchangeSent s d t e).memory = s.memory ∧
    (State.exchangeSent s d t e).chance = s.chance ∧ (State.exchangeSent s d t e).pending = s.pending := by
  simp only [State.exchangeSent]; (repeat' split) <;> simp

@[simp] theorem State.noticeSent_keeps (s : State) (d : DropId) (b : BufId) :
    (State.noticeSent s d b).now = s.now ∧ (State.noticeSent s d b).trunk = s.trunk ∧
    (State.noticeSent s d b).settings = s.settings ∧ (State.noticeSent s d b).mgmt = s.mgmt ∧
    (State.noticeSent s d b).image = s.image ∧ (State.noticeSent s d b).memory = s.memory ∧
    (State.noticeSent s d b).chance = s.chance ∧ (State.noticeSent s d b).pending = s.pending := by
  simp only [State.noticeSent]; (repeat' split) <;> simp

@[simp] theorem State.dropFrameSent_keeps (s : State) (d : DropId) :
    (State.dropFrameSent s d).now = s.now ∧ (State.dropFrameSent s d).trunk = s.trunk ∧
    (State.dropFrameSent s d).settings = s.settings ∧ (State.dropFrameSent s d).mgmt = s.mgmt ∧
    (State.dropFrameSent s d).image = s.image ∧ (State.dropFrameSent s d).memory = s.memory ∧
    (State.dropFrameSent s d).chance = s.chance ∧ (State.dropFrameSent s d).pending = s.pending := by
  simp only [State.dropFrameSent]; (repeat' split) <;> simp

@[simp] theorem State.createStation_keeps (s : State) (a : Byte) (f : StationFields) :
    (State.createStation s a f).1.now = s.now ∧ (State.createStation s a f).1.pool = s.pool ∧
    (State.createStation s a f).1.exchanges = s.exchanges ∧ (State.createStation s a f).1.drops = s.drops ∧
    (State.createStation s a f).1.trunk = s.trunk ∧ (State.createStation s a f).1.upstream = s.upstream ∧
    (State.createStation s a f).1.settings = s.settings ∧ (State.createStation s a f).1.mgmt = s.mgmt ∧
    (State.createStation s a f).1.image = s.image ∧ (State.createStation s a f).1.memory = s.memory ∧
    (State.createStation s a f).1.chance = s.chance ∧ (State.createStation s a f).1.pending = s.pending := by
  simp only [State.createStation]; (repeat' split) <;> simp

@[simp] theorem State.changeStation_keeps (s : State) (old : Station) (f : StationFields) :
    (State.changeStation s old f).1.now = s.now ∧ (State.changeStation s old f).1.pool = s.pool ∧
    (State.changeStation s old f).1.exchanges = s.exchanges ∧ (State.changeStation s old f).1.drops = s.drops ∧
    (State.changeStation s old f).1.trunk = s.trunk ∧ (State.changeStation s old f).1.upstream = s.upstream ∧
    (State.changeStation s old f).1.settings = s.settings ∧ (State.changeStation s old f).1.mgmt = s.mgmt ∧
    (State.changeStation s old f).1.image = s.image ∧ (State.changeStation s old f).1.memory = s.memory ∧
    (State.changeStation s old f).1.chance = s.chance ∧ (State.changeStation s old f).1.pending = s.pending := by
  simp only [State.changeStation]; (repeat' split) <;> simp

@[simp] theorem State.writeStation_keeps (s : State) (a : Byte) (f : StationFields) :
    (State.writeStation s a f).1.now = s.now ∧ (State.writeStation s a f).1.pool = s.pool ∧
    (State.writeStation s a f).1.exchanges = s.exchanges ∧ (State.writeStation s a f).1.drops = s.drops ∧
    (State.writeStation s a f).1.trunk = s.trunk ∧ (State.writeStation s a f).1.upstream = s.upstream ∧
    (State.writeStation s a f).1.settings = s.settings ∧ (State.writeStation s a f).1.mgmt = s.mgmt ∧
    (State.writeStation s a f).1.image = s.image ∧ (State.writeStation s a f).1.memory = s.memory ∧
    (State.writeStation s a f).1.chance = s.chance ∧ (State.writeStation s a f).1.pending = s.pending := by
  unfold State.writeStation; split <;> simp

@[simp] theorem State.forceClose_keeps (s : State) (t : Tag) (e : Exchange) :
    (State.forceClose s t e).now = s.now ∧ (State.forceClose s t e).trunk = s.trunk ∧
    (State.forceClose s t e).settings = s.settings ∧ (State.forceClose s t e).mgmt = s.mgmt ∧
    (State.forceClose s t e).image = s.image ∧ (State.forceClose s t e).memory = s.memory ∧
    (State.forceClose s t e).chance = s.chance ∧ (State.forceClose s t e).pending = s.pending := by
  unfold State.forceClose; (repeat' split) <;> simp

@[simp] theorem State.dropNotices_keeps (a : Byte) (s : State) (d : DropId) :
    (State.dropNotices a s d).now = s.now ∧ (State.dropNotices a s d).stations = s.stations ∧
    (State.dropNotices a s d).exchanges = s.exchanges ∧ (State.dropNotices a s d).trunk = s.trunk ∧
    (State.dropNotices a s d).upstream = s.upstream ∧ (State.dropNotices a s d).settings = s.settings ∧
    (State.dropNotices a s d).mgmt = s.mgmt ∧ (State.dropNotices a s d).image = s.image ∧
    (State.dropNotices a s d).memory = s.memory ∧ (State.dropNotices a s d).chance = s.chance ∧
    (State.dropNotices a s d).pending = s.pending := by
  simp only [State.dropNotices]
  refine ⟨?_, ?_, ?_, ?_, ?_, ?_, ?_, ?_, ?_, ?_, ?_⟩
  · rw [foldl_keeps State.now _ (fun _ _ => by simp), State.mapDrop_now]
  · rw [foldl_keeps State.stations _ (fun _ _ => by simp), State.mapDrop_stations]
  · rw [foldl_keeps State.exchanges _ (fun _ _ => by simp), State.mapDrop_exchanges]
  · rw [foldl_keeps State.trunk _ (fun _ _ => by simp), State.mapDrop_trunk]
  · rw [foldl_keeps State.upstream _ (fun _ _ => by simp), State.mapDrop_upstream]
  · rw [foldl_keeps State.settings _ (fun _ _ => by simp), State.mapDrop_settings]
  · rw [foldl_keeps State.mgmt _ (fun _ _ => by simp), State.mapDrop_mgmt]
  · rw [foldl_keeps State.image _ (fun _ _ => by simp), State.mapDrop_image]
  · rw [foldl_keeps State.memory _ (fun _ _ => by simp), State.mapDrop_memory]
  · rw [foldl_keeps State.chance _ (fun _ _ => by simp), State.mapDrop_chance]
  · rw [foldl_keeps State.pending _ (fun _ _ => by simp), State.mapDrop_pending]

@[simp] theorem State.removeStation_keeps (s : State) (a : Byte) (force : Bool) :
    (State.removeStation s a force).1.now = s.now ∧ (State.removeStation s a force).1.trunk = s.trunk ∧
    (State.removeStation s a force).1.settings = s.settings ∧ (State.removeStation s a force).1.mgmt = s.mgmt ∧
    (State.removeStation s a force).1.image = s.image ∧ (State.removeStation s a force).1.memory = s.memory ∧
    (State.removeStation s a force).1.chance = s.chance ∧ (State.removeStation s a force).1.pending = s.pending := by
  simp only [State.removeStation]
  refine ⟨?_, ?_, ?_, ?_, ?_, ?_, ?_, ?_⟩
  · (repeat' split) <;> simp <;> (rw [foldl_keeps State.now _ (fun _ _ => by simp)]) <;> simp
  · (repeat' split) <;> simp <;> (rw [foldl_keeps State.trunk _ (fun _ _ => by simp)]) <;> simp
  · (repeat' split) <;> simp <;> (rw [foldl_keeps State.settings _ (fun _ _ => by simp)]) <;> simp
  · (repeat' split) <;> simp <;> (rw [foldl_keeps State.mgmt _ (fun _ _ => by simp)]) <;> simp
  · (repeat' split) <;> simp <;> (rw [foldl_keeps State.image _ (fun _ _ => by simp)]) <;> simp
  · (repeat' split) <;> simp <;> (rw [foldl_keeps State.memory _ (fun _ _ => by simp)]) <;> simp
  · (repeat' split) <;> simp <;> (rw [foldl_keeps State.chance _ (fun _ _ => by simp)]) <;> simp
  · (repeat' split) <;> simp <;> (rw [foldl_keeps State.pending _ (fun _ _ => by simp)]) <;> simp

@[simp] theorem State.trunkRateDue_keeps (s : State) (r : Rate) :
    (State.trunkRateDue s r).now = s.now ∧ (State.trunkRateDue s r).stations = s.stations ∧
    (State.trunkRateDue s r).exchanges = s.exchanges ∧ (State.trunkRateDue s r).drops = s.drops ∧
    (State.trunkRateDue s r).upstream = s.upstream ∧ (State.trunkRateDue s r).settings = s.settings ∧
    (State.trunkRateDue s r).mgmt = s.mgmt ∧ (State.trunkRateDue s r).image = s.image ∧
    (State.trunkRateDue s r).memory = s.memory ∧ (State.trunkRateDue s r).chance = s.chance ∧
    (State.trunkRateDue s r).pending = s.pending := by
  unfold State.trunkRateDue; (repeat' split) <;> simp

@[simp] theorem State.stopRecords_keeps (s : State) (l : Load) (bs : List Byte) :
    (State.stopRecords s l bs).now = s.now ∧ (State.stopRecords s l bs).pool = s.pool ∧
    (State.stopRecords s l bs).stations = s.stations ∧ (State.stopRecords s l bs).exchanges = s.exchanges ∧
    (State.stopRecords s l bs).drops = s.drops ∧ (State.stopRecords s l bs).trunk = s.trunk ∧
    (State.stopRecords s l bs).upstream = s.upstream ∧ (State.stopRecords s l bs).settings = s.settings ∧
    (State.stopRecords s l bs).mgmt = s.mgmt ∧ (State.stopRecords s l bs).memory = s.memory ∧
    (State.stopRecords s l bs).chance = s.chance ∧ (State.stopRecords s l bs).pending = s.pending := by
  simp [State.stopRecords]

@[simp] theorem State.actSettings_keeps (fields : List Byte) (s : State) (l : Load) :
    (State.actSettings fields s l).now = s.now ∧ (State.actSettings fields s l).pool = s.pool ∧
    (State.actSettings fields s l).stations = s.stations ∧ (State.actSettings fields s l).exchanges = s.exchanges ∧
    (State.actSettings fields s l).drops = s.drops ∧ (State.actSettings fields s l).trunk = s.trunk ∧
    (State.actSettings fields s l).upstream = s.upstream ∧ (State.actSettings fields s l).settings = s.settings ∧
    (State.actSettings fields s l).mgmt = s.mgmt ∧ (State.actSettings fields s l).memory = s.memory ∧
    (State.actSettings fields s l).chance = s.chance ∧ (State.actSettings fields s l).pending = s.pending := by
  unfold State.actSettings; split <;> simp

@[simp] theorem State.actDrop_keeps (fields : List Byte) (s : State) (_l : Load) :
    (State.actDrop fields s _l).now = s.now ∧ (State.actDrop fields s _l).pool = s.pool ∧
    (State.actDrop fields s _l).stations = s.stations ∧ (State.actDrop fields s _l).exchanges = s.exchanges ∧
    (State.actDrop fields s _l).trunk = s.trunk ∧ (State.actDrop fields s _l).upstream = s.upstream ∧
    (State.actDrop fields s _l).settings = s.settings ∧ (State.actDrop fields s _l).mgmt = s.mgmt ∧
    (State.actDrop fields s _l).memory = s.memory ∧ (State.actDrop fields s _l).chance = s.chance ∧
    (State.actDrop fields s _l).pending = s.pending := by
  unfold State.actDrop; (repeat' split) <;> simp

@[simp] theorem State.actStation_keeps (fields : List Byte) (s : State) (l : Load) :
    (State.actStation fields s l).now = s.now ∧ (State.actStation fields s l).pool = s.pool ∧
    (State.actStation fields s l).exchanges = s.exchanges ∧ (State.actStation fields s l).drops = s.drops ∧
    (State.actStation fields s l).trunk = s.trunk ∧ (State.actStation fields s l).upstream = s.upstream ∧
    (State.actStation fields s l).settings = s.settings ∧ (State.actStation fields s l).mgmt = s.mgmt ∧
    (State.actStation fields s l).memory = s.memory ∧ (State.actStation fields s l).chance = s.chance ∧
    (State.actStation fields s l).pending = s.pending := by
  unfold State.actStation; split <;> simp

@[simp] theorem State.releaseDrop_keeps (s : State) (d : DropId) :
    (State.releaseDrop s d).now = s.now ∧ (State.releaseDrop s d).stations = s.stations ∧
    (State.releaseDrop s d).trunk = s.trunk ∧ (State.releaseDrop s d).upstream = s.upstream ∧
    (State.releaseDrop s d).settings = s.settings ∧ (State.releaseDrop s d).mgmt = s.mgmt ∧
    (State.releaseDrop s d).image = s.image ∧ (State.releaseDrop s d).memory = s.memory ∧
    (State.releaseDrop s d).chance = s.chance ∧ (State.releaseDrop s d).pending = s.pending := by
  simp only [State.releaseDrop]; (repeat' split) <;> simp

@[simp] theorem State.finishLoad_keeps (s : State) (r : LoadResult) :
    (State.finishLoad s r).now = s.now ∧ (State.finishLoad s r).stations = s.stations ∧
    (State.finishLoad s r).trunk = s.trunk ∧ (State.finishLoad s r).upstream = s.upstream ∧
    (State.finishLoad s r).settings = s.settings ∧ (State.finishLoad s r).mgmt = s.mgmt ∧
    (State.finishLoad s r).memory = s.memory ∧ (State.finishLoad s r).chance = s.chance ∧
    (State.finishLoad s r).pending = s.pending := by
  simp only [State.finishLoad]
  refine ⟨?_, ?_, ?_, ?_, ?_, ?_, ?_, ?_, ?_⟩
  · rw [foldl_keeps State.now _ (fun _ _ => by simp)]
  · rw [foldl_keeps State.stations _ (fun _ _ => by simp)]
  · rw [foldl_keeps State.trunk _ (fun _ _ => by simp)]
  · rw [foldl_keeps State.upstream _ (fun _ _ => by simp)]
  · rw [foldl_keeps State.settings _ (fun _ _ => by simp)]
  · rw [foldl_keeps State.mgmt _ (fun _ _ => by simp)]
  · rw [foldl_keeps State.memory _ (fun _ _ => by simp)]
  · rw [foldl_keeps State.chance _ (fun _ _ => by simp)]
  · rw [foldl_keeps State.pending _ (fun _ _ => by simp)]

@[simp] theorem State.failLoad_keeps (s : State) (r : LoadResult) :
    (State.failLoad s r).now = s.now ∧ (State.failLoad s r).trunk = s.trunk ∧
    (State.failLoad s r).upstream = s.upstream ∧ (State.failLoad s r).settings = s.settings ∧
    (State.failLoad s r).mgmt = s.mgmt ∧ (State.failLoad s r).memory = s.memory ∧
    (State.failLoad s r).chance = s.chance ∧ (State.failLoad s r).pending = s.pending := by
  simp [State.failLoad]

@[simp] theorem State.succeedLoad_keeps (s : State) (g : Staged) :
    (State.succeedLoad s g).now = s.now ∧ (State.succeedLoad s g).upstream = s.upstream ∧
    (State.succeedLoad s g).mgmt = s.mgmt ∧ (State.succeedLoad s g).memory = s.memory ∧
    (State.succeedLoad s g).chance = s.chance ∧ (State.succeedLoad s g).pending = s.pending := by
  simp [State.succeedLoad]

@[simp] theorem State.judgeHeader_keeps (s : State) (l : Load) (bytes : List Byte) :
    (State.judgeHeader s l bytes).now = s.now ∧ (State.judgeHeader s l bytes).trunk = s.trunk ∧
    (State.judgeHeader s l bytes).upstream = s.upstream ∧ (State.judgeHeader s l bytes).settings = s.settings ∧
    (State.judgeHeader s l bytes).mgmt = s.mgmt ∧ (State.judgeHeader s l bytes).memory = s.memory ∧
    (State.judgeHeader s l bytes).chance = s.chance ∧ (State.judgeHeader s l bytes).pending = s.pending := by
  simp only [State.judgeHeader]; (repeat' split) <;> simp

@[simp] theorem State.judgeCheck_keeps (s : State) (l : Load) (high low : Byte) :
    (State.judgeCheck s l high low).now = s.now ∧ (State.judgeCheck s l high low).upstream = s.upstream ∧
    (State.judgeCheck s l high low).mgmt = s.mgmt ∧ (State.judgeCheck s l high low).memory = s.memory ∧
    (State.judgeCheck s l high low).chance = s.chance ∧ (State.judgeCheck s l high low).pending = s.pending := by
  unfold State.judgeCheck; split <;> simp

@[simp] theorem State.takePart_keeps (s : State) (f : PortFailure) (w : Nat × List Byte) :
    (State.takePart s f w).now = s.now ∧ (State.takePart s f w).pool = s.pool ∧
    (State.takePart s f w).stations = s.stations ∧ (State.takePart s f w).exchanges = s.exchanges ∧
    (State.takePart s f w).drops = s.drops ∧ (State.takePart s f w).trunk = s.trunk ∧
    (State.takePart s f w).upstream = s.upstream ∧ (State.takePart s f w).settings = s.settings ∧
    (State.takePart s f w).mgmt = s.mgmt ∧ (State.takePart s f w).image = s.image ∧
    (State.takePart s f w).pending = s.pending := by
  simp [State.takePart]

@[simp] theorem State.handResult_keeps (s : State) (seq : Byte) (b : BufId) (code : ResultCode) (op : Byte) (data : List Byte) :
    (State.handResult s seq b code op data).now = s.now ∧
    (State.handResult s seq b code op data).stations = s.stations ∧
    (State.handResult s seq b code op data).exchanges = s.exchanges ∧
    (State.handResult s seq b code op data).drops = s.drops ∧
    (State.handResult s seq b code op data).trunk = s.trunk ∧
    (State.handResult s seq b code op data).settings = s.settings ∧
    (State.handResult s seq b code op data).mgmt = s.mgmt ∧ (State.handResult s seq b code op data).image = s.image ∧
    (State.handResult s seq b code op data).memory = s.memory ∧
    (State.handResult s seq b code op data).chance = s.chance ∧
    (State.handResult s seq b code op data).pending = s.pending := by
  simp [State.handResult]

@[simp] theorem State.endStore_keeps (s : State) (ok : Bool) :
    (State.endStore s ok).now = s.now ∧ (State.endStore s ok).stations = s.stations ∧
    (State.endStore s ok).exchanges = s.exchanges ∧ (State.endStore s ok).drops = s.drops ∧
    (State.endStore s ok).trunk = s.trunk ∧ (State.endStore s ok).settings = s.settings ∧
    (State.endStore s ok).memory = s.memory ∧ (State.endStore s ok).chance = s.chance ∧
    (State.endStore s ok).pending = s.pending := by
  simp only [State.endStore]; (repeat' split) <;> simp

@[simp] theorem State.portFails_keeps (s : State) (f : PortFailure) :
    (State.portFails s f).now = s.now ∧ (State.portFails s f).settings = s.settings ∧
    (State.portFails s f).pending = s.pending := by
  unfold State.portFails; split <;> simp

@[simp] theorem State.restartCore_keeps (s : State) :
    (State.restartCore s).now = s.now ∧ (State.restartCore s).stations = s.stations ∧
    (State.restartCore s).drops = s.drops.map (fun x => { x with tx := s.cutOff x.tx }) ∧
    (State.restartCore s).settings = s.settings ∧
    (State.restartCore s).image = s.image ∧ (State.restartCore s).memory = s.memory ∧
    (State.restartCore s).chance = s.chance ∧ (State.restartCore s).pending = s.pending := by
  simp [State.restartCore]

@[simp] theorem State.restartResult_keeps (s : State) (seq : Byte) (kind : RestartKind) :
    (State.restartResult s seq kind).now = s.now ∧ (State.restartResult s seq kind).stations = s.stations ∧
    (State.restartResult s seq kind).exchanges = s.exchanges ∧ (State.restartResult s seq kind).drops = s.drops ∧
    (State.restartResult s seq kind).trunk = s.trunk ∧ (State.restartResult s seq kind).settings = s.settings ∧
    (State.restartResult s seq kind).mgmt = s.mgmt ∧ (State.restartResult s seq kind).image = s.image ∧
    (State.restartResult s seq kind).memory = s.memory ∧ (State.restartResult s seq kind).chance = s.chance ∧
    (State.restartResult s seq kind).pending = s.pending := by
  unfold State.restartResult; split <;> simp

@[simp] theorem State.warmDrop_keeps (s : State) (d : DropId) :
    (State.warmDrop s d).now = s.now ∧ (State.warmDrop s d).stations = s.stations ∧
    (State.warmDrop s d).exchanges = s.exchanges ∧ (State.warmDrop s d).trunk = s.trunk ∧
    (State.warmDrop s d).upstream = s.upstream ∧ (State.warmDrop s d).settings = s.settings ∧
    (State.warmDrop s d).mgmt = s.mgmt ∧ (State.warmDrop s d).image = s.image ∧
    (State.warmDrop s d).memory = s.memory ∧ (State.warmDrop s d).chance = s.chance ∧
    (State.warmDrop s d).pending = s.pending := by
  simp only [State.warmDrop]; (repeat' split) <;> simp

@[simp] theorem State.restartWarm_keeps (s : State) (seq : Byte) :
    (State.restartWarm s seq).now = s.now ∧ (State.restartWarm s seq).settings = s.settings ∧
    (State.restartWarm s seq).image = s.image ∧ (State.restartWarm s seq).memory = s.memory ∧
    (State.restartWarm s seq).chance = s.chance ∧ (State.restartWarm s seq).pending = s.pending := by
  simp only [State.restartWarm]
  refine ⟨?_, ?_, ?_, ?_, ?_, ?_⟩
  · simp; rw [foldl_keeps State.now _ (fun _ _ => by simp)]; simp; split <;> simp
  · simp; rw [foldl_keeps State.settings _ (fun _ _ => by simp)]; simp; split <;> simp
  · simp; rw [foldl_keeps State.image _ (fun _ _ => by simp)]; simp; split <;> simp
  · simp; rw [foldl_keeps State.memory _ (fun _ _ => by simp)]; simp; split <;> simp
  · simp; rw [foldl_keeps State.chance _ (fun _ _ => by simp)]; simp; split <;> simp
  · simp; rw [foldl_keeps State.pending _ (fun _ _ => by simp)]; simp; split <;> simp

@[simp] theorem State.restartReload_keeps (s : State) (seq : Byte) :
    (State.restartReload s seq).now = s.now ∧ (State.restartReload s seq).memory = s.memory ∧
    (State.restartReload s seq).chance = s.chance ∧ (State.restartReload s seq).pending = s.pending := by
  simp [State.restartReload]

@[simp] theorem State.restart_keeps (s : State) (seq : Byte) (z : RestartKind) :
    (State.restart s seq z).now = s.now ∧ (State.restart s seq z).memory = s.memory ∧
    (State.restart s seq z).chance = s.chance ∧ (State.restart s seq z).pending = s.pending := by
  cases z <;> simp [State.restart]

@[simp] theorem State.cutOffWrite_keeps (s : State) :
    (State.cutOffWrite s).now = s.now ∧ (State.cutOffWrite s).pool = s.pool ∧
    (State.cutOffWrite s).stations = s.stations ∧ (State.cutOffWrite s).exchanges = s.exchanges ∧
    (State.cutOffWrite s).drops = s.drops ∧ (State.cutOffWrite s).trunk = s.trunk ∧
    (State.cutOffWrite s).upstream = s.upstream ∧ (State.cutOffWrite s).settings = s.settings ∧
    (State.cutOffWrite s).mgmt = s.mgmt ∧ (State.cutOffWrite s).image = s.image ∧
    (State.cutOffWrite s).pending = s.pending := by
  unfold State.cutOffWrite; (repeat' split) <;> simp

@[simp] theorem State.coldReset_keeps (s : State) (straps : Rate) :
    (State.coldReset s straps).now = s.now ∧ (State.coldReset s straps).pending = s.pending := by
  simp [State.coldReset]

@[simp] theorem State.readCounters_keeps (s : State) (clear : Bool) (z : CounterGroup) :
    (State.readCounters s clear z).1.now = s.now ∧ (State.readCounters s clear z).1.pool = s.pool ∧
    (State.readCounters s clear z).1.stations = s.stations ∧
    (State.readCounters s clear z).1.exchanges = s.exchanges ∧
    (State.readCounters s clear z).1.upstream = s.upstream ∧ (State.readCounters s clear z).1.settings = s.settings ∧
    (State.readCounters s clear z).1.mgmt = s.mgmt ∧ (State.readCounters s clear z).1.image = s.image ∧
    (State.readCounters s clear z).1.memory = s.memory ∧ (State.readCounters s clear z).1.chance = s.chance ∧
    (State.readCounters s clear z).1.pending = s.pending := by
  cases z <;> simp only [State.readCounters] <;> (repeat' split) <;> simp

@[simp] theorem State.cancelExchange_keeps (s : State) (a : Byte) :
    (State.cancelExchange s a).1.now = s.now ∧ (State.cancelExchange s a).1.trunk = s.trunk ∧
    (State.cancelExchange s a).1.settings = s.settings ∧ (State.cancelExchange s a).1.mgmt = s.mgmt ∧
    (State.cancelExchange s a).1.image = s.image ∧ (State.cancelExchange s a).1.memory = s.memory ∧
    (State.cancelExchange s a).1.chance = s.chance ∧ (State.cancelExchange s a).1.pending = s.pending := by
  unfold State.cancelExchange; (repeat' split) <;> simp

@[simp] theorem State.setDrop_keeps (s : State) (d : DropId) (mode : Option Mode) (rate : Option Rate) :
    (State.setDrop s d mode rate).now = s.now ∧ (State.setDrop s d mode rate).trunk = s.trunk ∧
    (State.setDrop s d mode rate).settings = s.settings ∧ (State.setDrop s d mode rate).mgmt = s.mgmt ∧
    (State.setDrop s d mode rate).image = s.image ∧ (State.setDrop s d mode rate).memory = s.memory ∧
    (State.setDrop s d mode rate).chance = s.chance ∧ (State.setDrop s d mode rate).pending = s.pending := by
  unfold State.setDrop; (repeat' split) <;> simp

@[simp] theorem State.writeSettings_keeps (s : State) (f : SettingsFields) :
    (State.writeSettings s f).1.now = s.now ∧ (State.writeSettings s f).1.pool = s.pool ∧
    (State.writeSettings s f).1.exchanges = s.exchanges ∧ (State.writeSettings s f).1.drops = s.drops ∧
    (State.writeSettings s f).1.trunk = s.trunk ∧ (State.writeSettings s f).1.upstream = s.upstream ∧
    (State.writeSettings s f).1.image = s.image ∧ (State.writeSettings s f).1.memory = s.memory ∧
    (State.writeSettings s f).1.chance = s.chance ∧ (State.writeSettings s f).1.pending = s.pending := by
  unfold State.writeSettings; (repeat' split) <;> simp

@[simp] theorem State.beginStore_keeps (s : State) (seq : Byte) (b : BufId) :
    (State.beginStore s seq b).now = s.now ∧ (State.beginStore s seq b).pool = s.pool ∧
    (State.beginStore s seq b).stations = s.stations ∧ (State.beginStore s seq b).exchanges = s.exchanges ∧
    (State.beginStore s seq b).drops = s.drops ∧ (State.beginStore s seq b).trunk = s.trunk ∧
    (State.beginStore s seq b).upstream = s.upstream ∧ (State.beginStore s seq b).settings = s.settings ∧
    (State.beginStore s seq b).memory = s.memory ∧ (State.beginStore s seq b).chance = s.chance ∧
    (State.beginStore s seq b).pending = s.pending := by
  simp [State.beginStore]

@[simp] theorem State.carryOut_keeps (s : State) (z : MgmtRequest) :
    (State.carryOut s z).1.now = s.now ∧ (State.carryOut s z).1.image = s.image ∧
    (State.carryOut s z).1.memory = s.memory ∧ (State.carryOut s z).1.chance = s.chance ∧
    (State.carryOut s z).1.pending = s.pending := by
  cases z <;> simp only [State.carryOut, doneWith, noData] <;> (repeat' split) <;> simp

@[simp] theorem State.duplicate_keeps (s : State) (b : BufId) :
    (State.duplicate s b).now = s.now ∧ (State.duplicate s b).stations = s.stations ∧
    (State.duplicate s b).exchanges = s.exchanges ∧ (State.duplicate s b).drops = s.drops ∧
    (State.duplicate s b).trunk = s.trunk ∧ (State.duplicate s b).settings = s.settings ∧
    (State.duplicate s b).mgmt = s.mgmt ∧ (State.duplicate s b).image = s.image ∧
    (State.duplicate s b).memory = s.memory ∧ (State.duplicate s b).chance = s.chance ∧
    (State.duplicate s b).pending = s.pending := by
  simp only [State.duplicate]; (repeat' split) <;> simp

@[simp] theorem State.turnOver_keeps (s : State) (seq : Byte) (b : BufId) :
    (State.turnOver s seq b).now = s.now ∧ (State.turnOver s seq b).stations = s.stations ∧
    (State.turnOver s seq b).exchanges = s.exchanges ∧ (State.turnOver s seq b).drops = s.drops ∧
    (State.turnOver s seq b).trunk = s.trunk ∧ (State.turnOver s seq b).upstream = s.upstream ∧
    (State.turnOver s seq b).settings = s.settings ∧ (State.turnOver s seq b).image = s.image ∧
    (State.turnOver s seq b).memory = s.memory ∧ (State.turnOver s seq b).chance = s.chance ∧
    (State.turnOver s seq b).pending = s.pending := by
  unfold State.turnOver; split <;> simp

@[simp] theorem State.judge_keeps (s : State) (seq : Byte) (b : BufId) (body : List Byte) :
    (State.judge s seq b body).now = s.now ∧ (State.judge s seq b body).memory = s.memory ∧
    (State.judge s seq b body).chance = s.chance ∧ (State.judge s seq b body).pending = s.pending := by
  unfold State.judge; (repeat' split) <;> simp

@[simp] theorem State.manage_keeps (s : State) (b : BufId) :
    (State.manage s b).now = s.now ∧ (State.manage s b).memory = s.memory ∧ (State.manage s b).chance = s.chance ∧
    (State.manage s b).pending = s.pending := by
  simp only [State.manage]; (repeat' split) <;> simp

@[simp] theorem State.settingsDue_keeps (s : State) :
    (State.settingsDue s).now = s.now ∧ (State.settingsDue s).stations = s.stations ∧
    (State.settingsDue s).exchanges = s.exchanges ∧ (State.settingsDue s).drops = s.drops ∧
    (State.settingsDue s).upstream = s.upstream ∧ (State.settingsDue s).image = s.image ∧
    (State.settingsDue s).memory = s.memory ∧ (State.settingsDue s).chance = s.chance ∧
    (State.settingsDue s).pending = s.pending := by
  simp only [State.settingsDue]; (repeat' split) <;> simp

@[simp] theorem State.resultSent_keeps (s : State) (b : BufId) :
    (State.resultSent s b).now = s.now ∧ (State.resultSent s b).stations = s.stations ∧
    (State.resultSent s b).exchanges = s.exchanges ∧ (State.resultSent s b).drops = s.drops ∧
    (State.resultSent s b).upstream = s.upstream ∧ (State.resultSent s b).image = s.image ∧
    (State.resultSent s b).memory = s.memory ∧ (State.resultSent s b).chance = s.chance ∧
    (State.resultSent s b).pending = s.pending := by
  unfold State.resultSent; (repeat' split) <;> simp

@[simp] theorem State.discardForeign_keeps (s : State) (b : BufId) :
    (State.discardForeign s b).now = s.now ∧ (State.discardForeign s b).stations = s.stations ∧
    (State.discardForeign s b).exchanges = s.exchanges ∧ (State.discardForeign s b).drops = s.drops ∧
    (State.discardForeign s b).upstream = s.upstream ∧ (State.discardForeign s b).settings = s.settings ∧
    (State.discardForeign s b).mgmt = s.mgmt ∧ (State.discardForeign s b).image = s.image ∧
    (State.discardForeign s b).memory = s.memory ∧ (State.discardForeign s b).chance = s.chance ∧
    (State.discardForeign s b).pending = s.pending := by
  simp [State.discardForeign]

@[simp] theorem State.discardInvalid_keeps (s : State) (b : BufId) :
    (State.discardInvalid s b).now = s.now ∧ (State.discardInvalid s b).stations = s.stations ∧
    (State.discardInvalid s b).exchanges = s.exchanges ∧ (State.discardInvalid s b).drops = s.drops ∧
    (State.discardInvalid s b).upstream = s.upstream ∧ (State.discardInvalid s b).settings = s.settings ∧
    (State.discardInvalid s b).mgmt = s.mgmt ∧ (State.discardInvalid s b).image = s.image ∧
    (State.discardInvalid s b).memory = s.memory ∧ (State.discardInvalid s b).chance = s.chance ∧
    (State.discardInvalid s b).pending = s.pending := by
  simp [State.discardInvalid]

@[simp] theorem State.discardUnknown_keeps (s : State) (b : BufId) :
    (State.discardUnknown s b).now = s.now ∧ (State.discardUnknown s b).stations = s.stations ∧
    (State.discardUnknown s b).exchanges = s.exchanges ∧ (State.discardUnknown s b).drops = s.drops ∧
    (State.discardUnknown s b).upstream = s.upstream ∧ (State.discardUnknown s b).settings = s.settings ∧
    (State.discardUnknown s b).mgmt = s.mgmt ∧ (State.discardUnknown s b).image = s.image ∧
    (State.discardUnknown s b).memory = s.memory ∧ (State.discardUnknown s b).chance = s.chance ∧
    (State.discardUnknown s b).pending = s.pending := by
  simp [State.discardUnknown]

@[simp] theorem State.refuse_keeps (s : State) (b : BufId) (c : Class) (r : RefusalReason) :
    (State.refuse s b c r).now = s.now ∧ (State.refuse s b c r).stations = s.stations ∧
    (State.refuse s b c r).exchanges = s.exchanges ∧ (State.refuse s b c r).drops = s.drops ∧
    (State.refuse s b c r).settings = s.settings ∧ (State.refuse s b c r).mgmt = s.mgmt ∧
    (State.refuse s b c r).image = s.image ∧ (State.refuse s b c r).memory = s.memory ∧
    (State.refuse s b c r).chance = s.chance ∧ (State.refuse s b c r).pending = s.pending := by
  simp [State.refuse]

@[simp] theorem State.fastFail_keeps (s : State) (b : BufId) (c : Class) :
    (State.fastFail s b c).now = s.now ∧ (State.fastFail s b c).stations = s.stations ∧
    (State.fastFail s b c).exchanges = s.exchanges ∧ (State.fastFail s b c).drops = s.drops ∧
    (State.fastFail s b c).trunk = s.trunk ∧ (State.fastFail s b c).settings = s.settings ∧
    (State.fastFail s b c).mgmt = s.mgmt ∧ (State.fastFail s b c).image = s.image ∧
    (State.fastFail s b c).memory = s.memory ∧ (State.fastFail s b c).chance = s.chance ∧
    (State.fastFail s b c).pending = s.pending := by
  simp [State.fastFail]

@[simp] theorem State.joinQueue_keeps (s : State) (d : DropId) (it : Item) :
    (State.joinQueue s d it).now = s.now ∧ (State.joinQueue s d it).pool = s.pool ∧
    (State.joinQueue s d it).stations = s.stations ∧ (State.joinQueue s d it).exchanges = s.exchanges ∧
    (State.joinQueue s d it).trunk = s.trunk ∧ (State.joinQueue s d it).upstream = s.upstream ∧
    (State.joinQueue s d it).settings = s.settings ∧ (State.joinQueue s d it).mgmt = s.mgmt ∧
    (State.joinQueue s d it).image = s.image ∧ (State.joinQueue s d it).memory = s.memory ∧
    (State.joinQueue s d it).chance = s.chance ∧ (State.joinQueue s d it).pending = s.pending := by
  simp [State.joinQueue]

@[simp] theorem State.countDropped_keeps (s : State) (d : DropId) :
    (State.countDropped s d).now = s.now ∧ (State.countDropped s d).pool = s.pool ∧
    (State.countDropped s d).stations = s.stations ∧ (State.countDropped s d).exchanges = s.exchanges ∧
    (State.countDropped s d).trunk = s.trunk ∧ (State.countDropped s d).upstream = s.upstream ∧
    (State.countDropped s d).settings = s.settings ∧ (State.countDropped s d).mgmt = s.mgmt ∧
    (State.countDropped s d).image = s.image ∧ (State.countDropped s d).memory = s.memory ∧
    (State.countDropped s d).chance = s.chance ∧ (State.countDropped s d).pending = s.pending := by
  simp [State.countDropped]

@[simp] theorem State.stationNotice_keeps (s : State) (b : BufId) (st : Station) :
    (State.stationNotice s b st).now = s.now ∧ (State.stationNotice s b st).stations = s.stations ∧
    (State.stationNotice s b st).trunk = s.trunk ∧ (State.stationNotice s b st).upstream = s.upstream ∧
    (State.stationNotice s b st).settings = s.settings ∧ (State.stationNotice s b st).mgmt = s.mgmt ∧
    (State.stationNotice s b st).image = s.image ∧ (State.stationNotice s b st).memory = s.memory ∧
    (State.stationNotice s b st).chance = s.chance ∧ (State.stationNotice s b st).pending = s.pending := by
  simp only [State.stationNotice]; (repeat' split) <;> simp

@[simp] theorem State.offerBroadcast_keeps (b : BufId) (s : State) (d : DropId) :
    (State.offerBroadcast b s d).now = s.now ∧ (State.offerBroadcast b s d).stations = s.stations ∧
    (State.offerBroadcast b s d).exchanges = s.exchanges ∧ (State.offerBroadcast b s d).trunk = s.trunk ∧
    (State.offerBroadcast b s d).upstream = s.upstream ∧ (State.offerBroadcast b s d).settings = s.settings ∧
    (State.offerBroadcast b s d).mgmt = s.mgmt ∧ (State.offerBroadcast b s d).image = s.image ∧
    (State.offerBroadcast b s d).memory = s.memory ∧ (State.offerBroadcast b s d).chance = s.chance ∧
    (State.offerBroadcast b s d).pending = s.pending := by
  simp only [State.offerBroadcast]; (repeat' split) <;> simp

@[simp] theorem State.broadcast_keeps (s : State) (b : BufId) :
    (State.broadcast s b).now = s.now ∧ (State.broadcast s b).stations = s.stations ∧
    (State.broadcast s b).trunk = s.trunk ∧ (State.broadcast s b).upstream = s.upstream ∧
    (State.broadcast s b).settings = s.settings ∧ (State.broadcast s b).mgmt = s.mgmt ∧
    (State.broadcast s b).image = s.image ∧ (State.broadcast s b).memory = s.memory ∧
    (State.broadcast s b).chance = s.chance ∧ (State.broadcast s b).pending = s.pending := by
  simp only [State.broadcast]
  refine ⟨?_, ?_, ?_, ?_, ?_, ?_, ?_, ?_, ?_, ?_⟩
  · rw [foldl_keeps State.now _ (fun _ _ => by simp), State.release_now, foldl_keeps State.now _ (fun _ _ => by simp)]
  · rw [foldl_keeps State.stations _ (fun _ _ => by simp), State.release_stations, foldl_keeps State.stations _ (fun _ _ => by simp)]
  · rw [foldl_keeps State.trunk _ (fun _ _ => by simp), State.release_trunk, foldl_keeps State.trunk _ (fun _ _ => by simp)]
  · rw [foldl_keeps State.upstream _ (fun _ _ => by simp), State.release_upstream, foldl_keeps State.upstream _ (fun _ _ => by simp)]
  · rw [foldl_keeps State.settings _ (fun _ _ => by simp), State.release_settings, foldl_keeps State.settings _ (fun _ _ => by simp)]
  · rw [foldl_keeps State.mgmt _ (fun _ _ => by simp), State.release_mgmt, foldl_keeps State.mgmt _ (fun _ _ => by simp)]
  · rw [foldl_keeps State.image _ (fun _ _ => by simp), State.release_image, foldl_keeps State.image _ (fun _ _ => by simp)]
  · rw [foldl_keeps State.memory _ (fun _ _ => by simp), State.release_memory, foldl_keeps State.memory _ (fun _ _ => by simp)]
  · rw [foldl_keeps State.chance _ (fun _ _ => by simp), State.release_chance, foldl_keeps State.chance _ (fun _ _ => by simp)]
  · rw [foldl_keeps State.pending _ (fun _ _ => by simp), State.release_pending, foldl_keeps State.pending _ (fun _ _ => by simp)]

@[simp] theorem State.openExchange_keeps (s : State) (b : BufId) (st : Station) (t : Tag) :
    (State.openExchange s b st t).now = s.now ∧ (State.openExchange s b st t).stations = s.stations ∧
    (State.openExchange s b st t).trunk = s.trunk ∧ (State.openExchange s b st t).upstream = s.upstream ∧
    (State.openExchange s b st t).settings = s.settings ∧ (State.openExchange s b st t).mgmt = s.mgmt ∧
    (State.openExchange s b st t).image = s.image ∧ (State.openExchange s b st t).memory = s.memory ∧
    (State.openExchange s b st t).chance = s.chance ∧ (State.openExchange s b st t).pending = s.pending := by
  simp [State.openExchange]

@[simp] theorem State.admitLate_keeps (s : State) (b : BufId) (st : Station) :
    (State.admitLate s b st).now = s.now ∧ (State.admitLate s b st).stations = s.stations ∧
    (State.admitLate s b st).settings = s.settings ∧ (State.admitLate s b st).mgmt = s.mgmt ∧
    (State.admitLate s b st).image = s.image ∧ (State.admitLate s b st).memory = s.memory ∧
    (State.admitLate s b st).chance = s.chance ∧ (State.admitLate s b st).pending = s.pending := by
  unfold State.admitLate; (repeat' split) <;> simp

@[simp] theorem State.admit_keeps (s : State) (b : BufId) (st : Station) :
    (State.admitRequest s b st).now = s.now ∧ (State.admitRequest s b st).settings = s.settings ∧
    (State.admitRequest s b st).mgmt = s.mgmt ∧ (State.admitRequest s b st).image = s.image ∧
    (State.admitRequest s b st).memory = s.memory ∧ (State.admitRequest s b st).chance = s.chance ∧
    (State.admitRequest s b st).pending = s.pending := by
  simp only [State.admitRequest]; (repeat' split) <;> simp

@[simp] theorem State.loadingDisposal_keeps (s : State) (b : BufId) :
    (State.loadingDisposal s b).now = s.now ∧ (State.loadingDisposal s b).stations = s.stations ∧
    (State.loadingDisposal s b).exchanges = s.exchanges ∧ (State.loadingDisposal s b).drops = s.drops ∧
    (State.loadingDisposal s b).settings = s.settings ∧ (State.loadingDisposal s b).mgmt = s.mgmt ∧
    (State.loadingDisposal s b).image = s.image ∧ (State.loadingDisposal s b).memory = s.memory ∧
    (State.loadingDisposal s b).chance = s.chance ∧ (State.loadingDisposal s b).pending = s.pending := by
  unfold State.loadingDisposal; split <;> simp

@[simp] theorem State.unknownDestination_keeps (s : State) (b : BufId) :
    (State.unknownDestination s b).now = s.now ∧ (State.unknownDestination s b).stations = s.stations ∧
    (State.unknownDestination s b).exchanges = s.exchanges ∧ (State.unknownDestination s b).drops = s.drops ∧
    (State.unknownDestination s b).settings = s.settings ∧ (State.unknownDestination s b).mgmt = s.mgmt ∧
    (State.unknownDestination s b).image = s.image ∧ (State.unknownDestination s b).memory = s.memory ∧
    (State.unknownDestination s b).chance = s.chance ∧ (State.unknownDestination s b).pending = s.pending := by
  unfold State.unknownDestination; split <;> simp

@[simp] theorem State.classify_keeps (s : State) (b : BufId) :
    (State.classify s b).now = s.now ∧ (State.classify s b).memory = s.memory ∧
    (State.classify s b).chance = s.chance ∧ (State.classify s b).pending = s.pending := by
  simp only [State.classify]; (repeat' split) <;> simp

@[simp] theorem State.trunkArrival_keeps (s : State) (b : BufId) :
    (State.trunkArrival s b).now = s.now ∧ (State.trunkArrival s b).memory = s.memory ∧
    (State.trunkArrival s b).chance = s.chance ∧ (State.trunkArrival s b).pending = s.pending := by
  simp [State.trunkArrival]

@[simp] theorem State.heard_keeps (s : State) (m : Nat) (z : Line) :
    (State.heard s m z).now = s.now ∧ (State.heard s m z).pool = s.pool ∧ (State.heard s m z).stations = s.stations ∧
    (State.heard s m z).exchanges = s.exchanges ∧ (State.heard s m z).trunk = s.trunk ∧
    (State.heard s m z).upstream = s.upstream ∧ (State.heard s m z).settings = s.settings ∧
    (State.heard s m z).mgmt = s.mgmt ∧ (State.heard s m z).image = s.image ∧ (State.heard s m z).memory = s.memory ∧
    (State.heard s m z).chance = s.chance ∧ (State.heard s m z).pending = s.pending := by
  cases z <;> simp [State.heard]

@[simp] theorem State.frameLost_keeps (s : State) (z : Line) :
    (State.frameLost s z).now = s.now ∧ (State.frameLost s z).settings = s.settings ∧
    (State.frameLost s z).mgmt = s.mgmt ∧ (State.frameLost s z).image = s.image ∧
    (State.frameLost s z).memory = s.memory ∧ (State.frameLost s z).chance = s.chance ∧
    (State.frameLost s z).pending = s.pending := by
  cases z <;> simp [State.frameLost]

@[simp] theorem State.abandon_keeps (s : State) (l : Line) (next : RxState) :
    (State.abandon s l next).now = s.now ∧ (State.abandon s l next).settings = s.settings ∧
    (State.abandon s l next).mgmt = s.mgmt ∧ (State.abandon s l next).image = s.image ∧
    (State.abandon s l next).memory = s.memory ∧ (State.abandon s l next).chance = s.chance ∧
    (State.abandon s l next).pending = s.pending := by
  simp [State.abandon]

@[simp] theorem State.beginFrame_keeps (s : State) (l : Line) (b : BufId) :
    (State.beginFrame s l b).now = s.now ∧ (State.beginFrame s l b).pool = s.pool ∧
    (State.beginFrame s l b).stations = s.stations ∧ (State.beginFrame s l b).exchanges = s.exchanges ∧
    (State.beginFrame s l b).upstream = s.upstream ∧ (State.beginFrame s l b).settings = s.settings ∧
    (State.beginFrame s l b).mgmt = s.mgmt ∧ (State.beginFrame s l b).image = s.image ∧
    (State.beginFrame s l b).memory = s.memory ∧ (State.beginFrame s l b).chance = s.chance ∧
    (State.beginFrame s l b).pending = s.pending := by
  unfold State.beginFrame; split <;> simp

@[simp] theorem State.refuseSof_keeps (s : State) (z : Line) :
    (State.refuseSof s z).now = s.now ∧ (State.refuseSof s z).pool = s.pool ∧
    (State.refuseSof s z).stations = s.stations ∧ (State.refuseSof s z).exchanges = s.exchanges ∧
    (State.refuseSof s z).upstream = s.upstream ∧ (State.refuseSof s z).settings = s.settings ∧
    (State.refuseSof s z).mgmt = s.mgmt ∧ (State.refuseSof s z).image = s.image ∧
    (State.refuseSof s z).memory = s.memory ∧ (State.refuseSof s z).chance = s.chance ∧
    (State.refuseSof s z).pending = s.pending := by
  cases z <;> simp [State.refuseSof]

@[simp] theorem State.acceptSof_keeps (s : State) (l : Line) :
    (State.acceptSof s l).now = s.now ∧ (State.acceptSof s l).stations = s.stations ∧
    (State.acceptSof s l).exchanges = s.exchanges ∧ (State.acceptSof s l).upstream = s.upstream ∧
    (State.acceptSof s l).settings = s.settings ∧ (State.acceptSof s l).mgmt = s.mgmt ∧
    (State.acceptSof s l).image = s.image ∧ (State.acceptSof s l).memory = s.memory ∧
    (State.acceptSof s l).chance = s.chance ∧ (State.acceptSof s l).pending = s.pending := by
  unfold State.acceptSof; (repeat' split) <;> simp

@[simp] theorem State.restartFrame_keeps (s : State) (l : Line) :
    (State.restartFrame s l).now = s.now ∧ (State.restartFrame s l).settings = s.settings ∧
    (State.restartFrame s l).mgmt = s.mgmt ∧ (State.restartFrame s l).image = s.image ∧
    (State.restartFrame s l).memory = s.memory ∧ (State.restartFrame s l).chance = s.chance ∧
    (State.restartFrame s l).pending = s.pending := by
  simp only [State.restartFrame]; (repeat' split) <;> simp

@[simp] theorem State.storeByte_keeps (s : State) (l : Line) (v : Byte) :
    (State.storeByte s l v).now = s.now ∧ (State.storeByte s l v).settings = s.settings ∧
    (State.storeByte s l v).mgmt = s.mgmt ∧ (State.storeByte s l v).image = s.image ∧
    (State.storeByte s l v).memory = s.memory ∧ (State.storeByte s l v).chance = s.chance ∧
    (State.storeByte s l v).pending = s.pending := by
  simp only [State.storeByte]; (repeat' split) <;> simp

@[simp] theorem State.handOver_keeps (s : State) (l : Line) (b : BufId) :
    (State.handOver s l b).now = s.now ∧ (State.handOver s l b).memory = s.memory ∧
    (State.handOver s l b).chance = s.chance ∧ (State.handOver s l b).pending = s.pending := by
  unfold State.handOver; split <;> simp

@[simp] theorem State.endFrame_keeps (s : State) (l : Line) :
    (State.endFrame s l).now = s.now ∧ (State.endFrame s l).memory = s.memory ∧
    (State.endFrame s l).chance = s.chance ∧ (State.endFrame s l).pending = s.pending := by
  simp only [State.endFrame]; (repeat' split) <;> simp

@[simp] theorem State.assembleChar_keeps (s : State) (l : Line) (v : Byte) :
    (State.assembleChar s l v).now = s.now ∧ (State.assembleChar s l v).memory = s.memory ∧
    (State.assembleChar s l v).chance = s.chance ∧ (State.assembleChar s l v).pending = s.pending := by
  simp only [State.assembleChar]; (repeat' split) <;> simp

@[simp] theorem State.takeChar_keeps (s : State) (l : Line) (v : Byte) :
    (State.takeChar s l v).now = s.now ∧ (State.takeChar s l v).memory = s.memory ∧
    (State.takeChar s l v).chance = s.chance ∧ (State.takeChar s l v).pending = s.pending := by
  simp only [State.takeChar]; (repeat' split) <;> simp

/-- A character moves the clock to its time, and never back. -/
@[simp] theorem State.charAt_keeps (s : State) (l : LineAt) (v : Byte) :
    (State.charAt s l v).now = max s.now l.time ∧ (State.charAt s l v).memory = s.memory ∧
    (State.charAt s l v).chance = s.chance ∧ (State.charAt s l v).pending = s.pending := by
  simp [State.charAt]

@[simp] theorem State.breakFound_keeps (s : State) (z : Line) :
    (State.breakFound s z).now = s.now ∧ (State.breakFound s z).pool = s.pool ∧
    (State.breakFound s z).stations = s.stations ∧ (State.breakFound s z).exchanges = s.exchanges ∧
    (State.breakFound s z).trunk = s.trunk ∧ (State.breakFound s z).upstream = s.upstream ∧
    (State.breakFound s z).settings = s.settings ∧ (State.breakFound s z).mgmt = s.mgmt ∧
    (State.breakFound s z).image = s.image ∧ (State.breakFound s z).memory = s.memory ∧
    (State.breakFound s z).chance = s.chance ∧ (State.breakFound s z).pending = s.pending := by
  cases z <;> simp [State.breakFound]

@[simp] theorem State.trunkFrameSent_keeps (s : State) (z : TxSource) :
    (State.trunkFrameSent s z).now = s.now ∧ (State.trunkFrameSent s z).stations = s.stations ∧
    (State.trunkFrameSent s z).exchanges = s.exchanges ∧ (State.trunkFrameSent s z).drops = s.drops ∧
    (State.trunkFrameSent s z).image = s.image ∧ (State.trunkFrameSent s z).memory = s.memory ∧
    (State.trunkFrameSent s z).chance = s.chance ∧ (State.trunkFrameSent s z).pending = s.pending := by
  cases z <;> simp [State.trunkFrameSent]

/-- A record leaves alone what its own act leaves alone (R176). -/
theorem State.takeRecord_keeps {γ : Type} (F : State → γ) (s : State) (type : Byte) (fields : List Byte)
    (act : State → Load → State) (hl : ∀ s l, F (s.putLoad l) = F s) (hk : ∀ s : State, F s.skipRecord = F s)
    (ha : ∀ s l, F (act s l) = F s) : F (s.takeRecord type fields act) = F s := by
  unfold State.takeRecord
  split
  · rfl
  · simp only [State.stopRecords]
    split
    · rfl
    · split
      · rw [hl, hk]
      · rw [ha, hl]

end Sys2Proof.Machine
end

