-- ==== Sys2Proof/Laws/Access.lean ====
section
/-! SUPPORT. Reads after updates: a drop, a record or an entry read after one was changed; what the searches of the table
and of the records find; what the pool operations leave of the other buffers; and what the EOF of a valid frame is. -/

namespace Sys2Proof.Machine

/-! ### Drops and records -/

@[simp] theorem State.dropUnit_mapDrop_self (s : State) (d : DropId) (f : Drop → Drop) :
    (s.mapDrop d f).dropUnit d = f (s.dropUnit d) := by simp [State.mapDrop, State.dropUnit]

theorem State.dropUnit_mapDrop_ne (s : State) {d e : DropId} (f : Drop → Drop) (h : e ≠ d) :
    (s.mapDrop d f).dropUnit e = s.dropUnit e := by
  have : d.val ≠ e.val := fun hv => h (Fin.ext hv.symm)
  simp [State.mapDrop, State.dropUnit, this]

@[simp] theorem State.exchange_putExchange_self (s : State) (t : Tag) (e : Option Exchange) :
    (s.putExchange t e).exchange t = e := by simp [State.putExchange, State.exchange]

theorem State.exchange_putExchange_ne (s : State) {t u : Tag} (e : Option Exchange) (h : u ≠ t) :
    (s.putExchange t e).exchange u = s.exchange u := by
  have : t.val ≠ u.val := fun hv => h (Fin.ext hv.symm)
  simp [State.putExchange, State.exchange, this]

@[simp] theorem State.exchange_mapExchange_self (s : State) (t : Tag) (f : Exchange → Exchange) :
    (s.mapExchange t f).exchange t = (s.exchange t).map f := by simp [State.mapExchange]

theorem State.exchange_mapExchange_ne (s : State) {t u : Tag} (f : Exchange → Exchange) (h : u ≠ t) :
    (s.mapExchange t f).exchange u = s.exchange u := by simp [State.mapExchange, State.exchange_putExchange_ne s _ h]

/-- A drop set to what it is changes nothing. -/
@[simp] theorem State.mapDrop_id (s : State) (d : DropId) : s.mapDrop d (fun x => x) = s := by
  simp [State.mapDrop]

/-! ### Searches -/

/-- The entry found for an address has that address, and stands in the table. -/
theorem State.station_some {s : State} {a : Byte} {st : Station} (h : s.station a = some st) :
    st.address = a ∧ st ∈ s.stations := by
  refine ⟨?_, List.mem_of_find?_eq_some h⟩
  simpa using List.find?_some h

/-- No entry is found exactly when none has the address. -/
theorem State.station_none {s : State} {a : Byte} : s.station a = none ↔ ∀ st ∈ s.stations, st.address ≠ a := by
  simp [State.station]

/-- The entry of the address changed. -/
theorem State.station_mapStation_self (s : State) (a : Byte) {f : Station → Station}
    (hf : ∀ y, (f y).address = y.address) : (s.mapStation a f).station a = (s.station a).map f := by
  simp only [State.station, State.mapStation]
  induction s.stations with
  | nil => rfl
  | cons x xs ih =>
    rw [List.map_cons, List.find?_cons, List.find?_cons]
    by_cases hx : x.address = a
    · simp [hx, hf]
    · simpa [hx] using ih

/-- The other entries stay. -/
theorem State.station_mapStation_ne (s : State) {a b : Byte} {f : Station → Station}
    (hf : ∀ y, (f y).address = y.address) (h : b ≠ a) : (s.mapStation a f).station b = s.station b := by
  simp only [State.station, State.mapStation]
  induction s.stations with
  | nil => rfl
  | cons x xs ih =>
    rw [List.map_cons, List.find?_cons, List.find?_cons]
    by_cases hx : x.address = a
    · simpa [hx, hf, h.symm] using ih
    · by_cases hb : x.address = b
      · simp [hb, h]
      · simpa [hx, hb] using ih

/-- An OPEN record is found for an address exactly when one names it. -/
theorem State.openFor_isSome {s : State} {a : Byte} :
    (s.openFor a).isSome = true ↔ ∃ t e, s.exchange t = some e ∧ e.station = a := by
  simp only [State.openFor, List.find?_isSome, List.mem_finRange, true_and]
  constructor
  · rintro ⟨t, h⟩
    cases hx : s.exchange t with
    | none => simp [hx] at h
    | some e => exact ⟨t, e, hx, by simpa [hx] using h⟩
  · rintro ⟨t, e, h, rfl⟩
    exact ⟨t, by simp [h]⟩

/-- The record found names the address. -/
theorem State.openFor_some {s : State} {a : Byte} {t : Tag} (h : s.openFor a = some t) :
    ∃ e, s.exchange t = some e ∧ e.station = a := by
  have ht := List.find?_some h
  cases hx : s.exchange t with
  | none => simp [hx] at ht
  | some e => exact ⟨e, rfl, by simpa [hx] using ht⟩

/-- The FREE record found is FREE. -/
theorem State.freeTag_some {s : State} {t : Tag} (h : s.freeTag = some t) : s.exchange t = none := by
  simpa using List.find?_some h

/-! ### The pool: the buffers an operation does not name -/

theorem Pool.hold_buffers_ne (p : Pool) {b c : BufId} (h : c ≠ b) : (p.hold b).buffers[c] = p.buffers[c] := by
  have : b.val ≠ c.val := fun hv => h (Fin.ext hv.symm)
  unfold Pool.hold; split <;> simp [this]

theorem Pool.release_buffers_ne (p : Pool) {b c : BufId} (h : c ≠ b) : (p.release b).buffers[c] = p.buffers[c] := by
  have : b.val ≠ c.val := fun hv => h (Fin.ext hv.symm)
  unfold Pool.release; split
  · rfl
  · split <;> simp [this]

theorem Pool.write_buffers_ne (p : Pool) {b c : BufId} (v : List Byte) (h : c ≠ b) :
    (p.write b v).buffers[c] = p.buffers[c] := by
  have : b.val ≠ c.val := fun hv => h (Fin.ext hv.symm)
  unfold Pool.write; split <;> simp [this]

@[simp] theorem Pool.hold_free (p : Pool) (b : BufId) : (p.hold b).free = p.free := by
  unfold Pool.hold; split <;> rfl

@[simp] theorem Pool.write_free (p : Pool) (b : BufId) (v : List Byte) : (p.write b v).free = p.free := by
  unfold Pool.write; split <;> rfl

/-! ### A character heard by a drop unit -/

/-- In FAULT the marking measure counts from the moment the line came to mark; elsewhere it stands. -/
theorem State.heard_drop (s : State) (marks : Nat) (d : DropId) :
    s.heard marks (.drop d) = { s with
      drops := s.drops.set d { Drop.heard s.now (s.dropUnit d) with
        marking :=
          if (s.dropUnit d).line = .fault then .since (s.now - marks * bitTime (s.dropUnit d).rate)
          else (s.dropUnit d).marking } } := rfl

@[simp] theorem State.heard_trunk (s : State) (marks : Nat) : s.heard marks .trunk = s := rfl

/-! ### The EOF of a valid frame -/

/-- On the trunk: the frame is counted and classified, then the arbiter may choose. -/
theorem exec_eof_trunk {s : State} {b : BufId} {c : List Byte} (time : Nat) (h : TrunkFrameEnds s b c) :
    exec (.eofReceived ⟨.trunk, time⟩) s = .next ((trunkTaken time s).classify b).arbitrate := by
  obtain ⟨⟨h1, h2⟩, h3, h4, h5, h6⟩ := h
  have hc : codeEof ≠ codeSof ∧ codeEof ≠ codeAbt := by decide
  have h5' : s.pool.buffers[b.val] = some { content := c, count := 1 } := h5
  simp only [exec, execEofReceived, State.charAt, State.takeChar, State.heard, State.rxHeld, State.rx, State.advance_trunk,
    h1, State.assembleChar, hc, h3, State.endFrame, h2, State.content, Pool.content]
  simp [h5', h4, h6, State.handOver, State.trunkArrival, State.setRx, State.mapTrunkCounters, State.advance]
  rfl

/-- The content handed over is the frame's. -/
theorem trunkTaken_content {s : State} {b : BufId} {c : List Byte} (time : Nat) (h : TrunkFrameEnds s b c) :
    (trunkTaken time s).content b = c := by
  have h5 : s.pool.buffers[b.val] = some { content := c, count := 1 } := h.2.2.2.1
  simp [State.content, trunkTaken, Pool.content, h5]

/-- On a drop: the frame goes to the matching rule. -/
theorem exec_eof_drop {s : State} {d : DropId} {b : BufId} {c : List Byte} (time : Nat) (h : DropFrameEnds s d b c) :
    exec (.eofReceived ⟨.drop d, time⟩) s
      = .next (State.matchFrame { s with
          now := max s.now time
          drops := s.drops.set d (Drop.frameTaken (max s.now time) (s.dropUnit d)) } d b) := by
  obtain ⟨⟨h1, h2, l1, l2, l3⟩, h3, h4, h5, h6⟩ := h
  have hc : codeEof ≠ codeSof ∧ codeEof ≠ codeAbt := by decide
  have h5' : s.pool.buffers[b.val] = some { content := c, count := 1 } := h5
  simp only [State.dropUnit, Fin.getElem_fin] at h1 h2 l1 l2 l3 h3 h4
  by_cases hl : s.drops[d.val].line = .idle <;>
    simp [exec, execEofReceived, State.charAt, State.advance, State.takeChar, State.heard, State.rxHeld, State.rx,
      State.mapDrop, State.dropUnit, Drop.heard, Drop.atMark, Drop.holdsReceiver, State.assembleChar, State.endFrame,
      State.content, Pool.content, State.handOver, State.setRx, Drop.frameTaken, Receiver.idle, Receiver.emptied, hc, h1,
      h2, h3, h4, h5', h6, hl, l1, l2, l3]

end Sys2Proof.Machine
end

