-- ==== Sys2Proof/Laws/Characters.lean ====
section
/-! SUPPORT. The characters on the lines and the transfers on the memory port: one lemma for what each shared function can
do. -/

namespace Sys2Proof.Machine

theorem charTime_positive (r : Rate) : 0 < charTime r := by revert r; decide

/-! ### Characters -/

@[simp] theorem characterLevels_length (v : Byte) : (characterLevels v).length = 10 := by simp [characterLevels]

/-- The bits a character is sent with are read as its byte. -/
theorem dataByte_of_bits (v : Byte) : dataByte ((List.range 8).map (fun i => Level.ofBit (v.getLsbD i))) = v := by
  revert v; decide +kernel

/-- A good character ends at mark for its stop bit at least and for nine bits at most: its start bit is space (R1). -/
theorem marksAtEnd_range (v : Byte) : 1 ≤ marksAtEnd v ∧ marksAtEnd v ≤ 9 := by revert v; decide +kernel

@[simp] theorem characters_length (cs : List Byte) : (cs.flatMap characterLevels).length = 10 * cs.length := by
  induction cs with
  | nil => rfl
  | cons c cs ih => simp [ih]; omega

/-- Bit `i` of character `k` of a run of characters. -/
theorem characters_bit (cs : List Byte) (k i : Nat) (v : Byte) (hi : i < 10) (h : cs[k]? = some v) :
    (cs.flatMap characterLevels)[10 * k + i]? = (characterLevels v)[i]? := by
  induction cs generalizing k with
  | nil => simp at h
  | cons c cs ih =>
    cases k with
    | zero =>
      simp at h
      subst h
      simp [List.getElem?_append, hi]
    | succ k =>
      simp only [List.getElem?_cons_succ] at h
      rw [List.flatMap_cons, List.getElem?_append_right (by simp; omega), characterLevels_length,
        show 10 * (k + 1) + i - 10 = 10 * k + i by omega]
      exact ih k h

/-- The level of a line while bit `i` of character `k` is on it. -/
theorem levelOf_bit (cs : List Byte) (r : Rate) (began time k i : Nat) (v : Byte) (h : began ≤ time)
    (hk : (time - began) * 10 / charTime r = 10 * k + i) (hi : i < 10) (hv : cs[k]? = some v) :
    some (levelOf cs r began time) = (characterLevels v)[i]? := by
  unfold levelOf
  rw [if_neg (by omega), hk, characters_bit cs k i v hi hv, List.getElem?_eq_getElem (by simp [hi])]
  rfl

/-- A line is at mark before its first character and after its last. -/
theorem levelOf_outside (cs : List Byte) (r : Rate) (began time : Nat)
    (h : time < began ∨ began + cs.length * charTime r ≤ time) : levelOf cs r began time = .mark := by
  unfold levelOf
  split
  · rfl
  · have hp := charTime_positive r
    rw [List.getElem?_eq_none]
    · rfl
    · rw [characters_length, Nat.le_div_iff_mul_le hp]
      have : cs.length * charTime r ≤ time - began := by omega
      nlinarith

/-- What a transmitter cut off finishes: the character in progress, from when it began. -/
theorem cutOff_sending (s : State) (src : TxSource) (r : Rate) (began k : Nat) (v : Byte)
    (hk : k = min ((s.now - began) / charTime r) ((lineCharacters (s.sourceContent src)).length - 1))
    (hv : (lineCharacters (s.sourceContent src))[k]? = some v) :
    s.cutOff (.sending src r began) = .aborting v r (began + k * charTime r) := by
  simp only [State.cutOff, ← hk]
  simp [List.getD, hv]

@[simp] theorem cutOff_idle (s : State) : s.cutOff .idle = .idle := rfl

@[simp] theorem cutOff_aborting (s : State) (last : Byte) (r : Rate) (began : Nat) :
    s.cutOff (.aborting last r began) = .aborting last r began := rfl

@[simp] theorem sample_mark_at_rest : Hearing.rest.sample .mark = (.rest, none) := rfl

@[simp] theorem sample_space_at_rest : Hearing.rest.sample .space = (.within [], none) := rfl

/-! ### The memory port -/

/-- The read of block `k` among the reads of `n` bytes. -/
theorem blockReads_block (n k : Nat) (h : 256 * k < n) :
    (blockReads n)[k]? = some (.read (256 * k) (min 256 (n - 256 * k))) := by
  unfold blockReads
  rw [List.getElem?_map, List.getElem?_range (by omega)]
  rfl

@[simp] theorem blockReads_length (n : Nat) : (blockReads n).length = (n + 255) / 256 := by simp [blockReads]

@[simp] theorem clocksOf_nil : clocksOf [] = 0 := rfl

@[simp] theorem clocksOf_cons (x : PortSignal) (xs : List PortSignal) : clocksOf (x :: xs) = x.clocks + clocksOf xs := by
  simp [clocksOf]

@[simp] theorem clocksOf_append (xs ys : List PortSignal) : clocksOf (xs ++ ys) = clocksOf xs + clocksOf ys := by
  simp [clocksOf]

/-- The pulses after which the transfer of an attempt begins (R169). -/
theorem startAfter_attempt (x : Attempt) : startAfter x.msda = if x.held ≤ 9 then some x.held else none := by
  unfold startAfter
  split
  · rw [List.find?_range_eq_some]
    refine ⟨by simp [Attempt.msda], by simp; omega, fun j h => by simp [Attempt.msda]; omega⟩
  · rw [List.find?_range_eq_none]
    intro j h
    simp [Attempt.msda]
    omega

theorem addresses_iff (x : Attempt) : x.addresses = true ↔ x.held ≤ 9 ∧ x.acknowledged = true := by
  unfold Attempt.addresses selected
  rw [startAfter_attempt]
  split <;> simp [*]

@[simp] theorem poll_nil (b : Byte) : poll b [] = ([], false) := rfl

theorem poll_late (b : Byte) (x : Attempt) (xs : List Attempt) (h : 1000 < x.time) : poll b (x :: xs) = poll b xs := by
  simp [poll, h]

theorem poll_addressed (b : Byte) (x : Attempt) (xs : List Attempt) (h : x.time ≤ 1000) (ha : x.addresses = true) :
    poll b (x :: xs) = (x.signals b, true) := by
  simp [poll, Nat.not_lt.2 h, ha]

theorem poll_refused (b : Byte) (x : Attempt) (xs : List Attempt) (h : x.time ≤ 1000) (ha : x.addresses = false) :
    poll b (x :: xs) = (x.signals b ++ (poll b xs).1, (poll b xs).2) := by
  simp [poll, Nat.not_lt.2 h, ha]

/-- Polling that finds no memory is polling that fails. -/
theorem poll_answer (b : Byte) (xs : List Attempt) :
    (poll b xs).2 = !pollFails (xs.map (fun x => (x.time, x.addresses))) := by
  induction xs with
  | nil => rfl
  | cons x xs ih =>
    by_cases h : 1000 < x.time
    · rw [poll_late b x xs h, ih]
      simp [pollFails, Nat.not_le.2 h]
    · cases ha : x.addresses
      · rw [poll_refused b x xs (by omega) ha]
        simp only [ih]
        simp [pollFails, ha]
      · rw [poll_addressed b x xs (by omega) ha]
        simp [pollFails, ha]
        omega

@[simp] theorem runSteps_nil (polls : List (List Attempt)) (acks : List Bool) : runSteps [] polls acks = ([.stop], none) :=
  rfl

/-- A device select: polled, and the rest runs where it is acknowledged. -/
@[simp] theorem runSteps_select (b : Byte) (rest : List PortStep) (xs : List Attempt) (polls : List (List Attempt))
    (acks : List Bool) : runSteps (.select b :: rest) (xs :: polls) acks
      = if (poll b xs).2 then ((poll b xs).1 ++ (runSteps rest polls acks).1, (runSteps rest polls acks).2)
        else ((poll b xs).1, some .polling) := rfl

/-- A byte sent: a stop at once where it is not acknowledged. -/
@[simp] theorem runSteps_send (b : Byte) (rest : List PortStep) (polls : List (List Attempt)) (k : Bool)
    (acks : List Bool) : runSteps (.send b :: rest) polls (k :: acks)
      = if k then (.sent b true :: (runSteps rest polls acks).1, (runSteps rest polls acks).2)
        else ([.sent b false, .stop], some .byte) := rfl

/-- Bytes sent and acknowledged, one after another. -/
theorem runSteps_sent (data : List Byte) (rest : List PortStep) (polls : List (List Attempt)) (acks : List Bool) :
    runSteps (data.map .send ++ rest) polls (List.replicate data.length true ++ acks)
      = (data.map (fun b => .sent b true) ++ (runSteps rest polls acks).1, (runSteps rest polls acks).2) := by
  induction data with
  | nil => rfl
  | cons v data ih => simp [List.replicate_succ, ih]

/-- Bytes read, one after another. -/
theorem runSteps_taken (data : List (Byte × Bool)) (rest : List PortStep) (polls : List (List Attempt))
    (acks : List Bool) : runSteps (data.map (fun x => .take x.1 x.2) ++ rest) polls acks
      = (data.map (fun x => .taken x.1 x.2) ++ (runSteps rest polls acks).1, (runSteps rest polls acks).2) := by
  induction data with
  | nil => rfl
  | cons x data ih => simp [runSteps, ih]

end Sys2Proof.Machine
end

