-- ==== Sys2Proof/Laws/Memory.lean ====
section
/-! SUPPORT. What the operations on the serial memory do: a read after a write, and the canonical form kept. -/

namespace Sys2Proof.Machine

/-! ### The canonical form as two facts -/

/-- Memory.wf as propositions: rising addresses, and no erased byte listed. -/
theorem Memory.wf_iff (m : List Host.Cell) :
    Memory.wf m = true ↔ m.Pairwise (fun x y => x.1 < y.1) ∧ ∀ c ∈ m, c.2 ≠ erased := by
  simp [Memory.wf]

/-- The erased memory, State.reset's, is in canonical form. -/
theorem Memory.wf_nil : Memory.wf [] = true := by decide

/-! ### Reading -/

theorem readCell_of_notMem {m : List Host.Cell} {a : Nat} (h : ∀ c ∈ m, c.1 ≠ a) : readCell m a = erased := by
  induction m with
  | nil => rfl
  | cons c m ih =>
    have hc : c.1 ≠ a := h c (by simp)
    simp only [readCell, hc, if_false]
    exact ih (fun d hd => h d (by simp [hd]))

/-- Erasing an address makes it read as erased. -/
theorem readCell_eraseCell_self (m : List Host.Cell) (a : Nat) : readCell (eraseCell m a) a = erased :=
  readCell_of_notMem (fun c hc => by simpa [eraseCell] using (List.mem_filter.1 hc).2)

/-- Erasing an address leaves every other byte. -/
theorem readCell_eraseCell_ne {m : List Host.Cell} {a b : Nat} (h : b ≠ a) :
    readCell (eraseCell m a) b = readCell m b := by
  induction m with
  | nil => rfl
  | cons c m ih =>
    obtain ⟨k, v⟩ := c
    by_cases hk : k = a
    · subst hk
      have : eraseCell ((k, v) :: m) k = eraseCell m k := by simp [eraseCell]
      rw [this, ih]
      simp [readCell, h.symm]
    · have : eraseCell ((k, v) :: m) a = (k, v) :: eraseCell m a := by simp [eraseCell, hk]
      rw [this]
      simp only [readCell]
      split
      · rfl
      · exact ih

/-- An entry put into a memory that has none for its address is read there. -/
theorem readCell_insertCell_self {m : List Host.Cell} {a : Nat} (v : Byte) (h : ∀ c ∈ m, c.1 ≠ a) :
    readCell (insertCell m a v) a = v := by
  induction m with
  | nil => simp [insertCell, readCell]
  | cons c m ih =>
    obtain ⟨k, w⟩ := c
    have hk : k ≠ a := h (k, w) (by simp)
    simp only [insertCell]
    split
    · simp [readCell]
    · simp only [readCell, hk, if_false]
      exact ih (fun d hd => h d (by simp [hd]))

/-- An entry put in leaves every other byte. -/
theorem readCell_insertCell_ne {m : List Host.Cell} {a b : Nat} (v : Byte) (h : b ≠ a) :
    readCell (insertCell m a v) b = readCell m b := by
  induction m with
  | nil => simp [insertCell, readCell, h.symm]
  | cons c m ih =>
    obtain ⟨k, w⟩ := c
    simp only [insertCell]
    split
    · simp [readCell, h.symm]
    · simp only [readCell, ih]

theorem eraseCell_notMem (m : List Host.Cell) (a : Nat) : ∀ c ∈ eraseCell m a, c.1 ≠ a :=
  fun c hc => by simpa [eraseCell] using (List.mem_filter.1 hc).2

/-- A read after a write to the same address gives the value written. -/
theorem readCell_writeCell_self (m : List Host.Cell) (a : Nat) (v : Byte) : readCell (writeCell m a v) a = v := by
  simp only [writeCell]
  split
  · next hv => rw [readCell_eraseCell_self, hv]
  · exact readCell_insertCell_self v (eraseCell_notMem m a)

/-- A write leaves every other address alone. -/
theorem readCell_writeCell_ne {m : List Host.Cell} {a b : Nat} (v : Byte) (h : b ≠ a) :
    readCell (writeCell m a v) b = readCell m b := by
  simp only [writeCell]
  split
  · exact readCell_eraseCell_ne h
  · rw [readCell_insertCell_ne v h, readCell_eraseCell_ne h]

/-- What every address reads as after consecutive bytes were written. -/
theorem readCell_writeCells (m : List Host.Cell) (a : Nat) (vs : List Byte) (b : Nat) :
    readCell (writeCells m a vs) b = if a ≤ b then vs.getD (b - a) (readCell m b) else readCell m b := by
  induction vs generalizing m a with
  | nil => simp [writeCells]
  | cons v vs ih =>
    simp only [writeCells]
    rw [ih]
    by_cases hab : a = b
    · subst hab
      simp [readCell_writeCell_self]
    · by_cases hle : a ≤ b
      · have h1 : a + 1 ≤ b := by omega
        have h2 : b - a = (b - (a + 1)) + 1 := by omega
        rw [if_pos h1, if_pos hle, h2, readCell_writeCell_ne v (fun h => hab h.symm)]
        simp
      · rw [if_neg (by omega), if_neg hle, readCell_writeCell_ne v (fun h => hab h.symm)]

/-! ### The canonical form is kept -/

theorem mem_insertCell {m : List Host.Cell} {a : Nat} {v : Byte} {c : Host.Cell} :
    c ∈ insertCell m a v ↔ c = (a, v) ∨ c ∈ m := by
  induction m with
  | nil => simp [insertCell]
  | cons d m ih =>
    obtain ⟨k, w⟩ := d
    simp only [insertCell]
    split
    · simp
    · simp only [List.mem_cons, ih]
      tauto

/-- Erasing keeps the canonical form. -/
theorem eraseCell_wf {m : List Host.Cell} (a : Nat) (h : Memory.wf m = true) : Memory.wf (eraseCell m a) = true := by
  rw [Memory.wf_iff] at h ⊢
  exact ⟨h.1.filter _, fun c hc => h.2 c (List.mem_of_mem_filter hc)⟩

/-- Putting an entry in keeps the canonical form, if none was there and its byte is not an erased one. -/
theorem insertCell_wf {m : List Host.Cell} {a : Nat} {v : Byte} (hv : v ≠ erased) (hm : ∀ c ∈ m, c.1 ≠ a)
    (h : Memory.wf m = true) : Memory.wf (insertCell m a v) = true := by
  rw [Memory.wf_iff] at h ⊢
  refine ⟨?_, fun c hc => ?_⟩
  · obtain ⟨hp, -⟩ := h
    induction m with
    | nil => simp [insertCell]
    | cons d m ih =>
      obtain ⟨k, w⟩ := d
      rw [List.pairwise_cons] at hp
      simp only [insertCell]
      split
      · next hak =>
        refine List.pairwise_cons.2 ⟨fun c hc => ?_, List.pairwise_cons.2 hp⟩
        rcases List.mem_cons.1 hc with rfl | hc
        · exact hak
        · exact Nat.lt_trans hak (hp.1 c hc)
      · next hak =>
        have hk : k ≠ a := hm (k, w) (by simp)
        refine List.pairwise_cons.2 ⟨fun c hc => ?_, ih (fun c hc => hm c (by simp [hc])) hp.2⟩
        rcases mem_insertCell.1 hc with rfl | hc
        · exact Nat.lt_of_le_of_ne (Nat.le_of_not_lt hak) hk
        · exact hp.1 c hc
  · rcases mem_insertCell.1 hc with rfl | hc
    · exact hv
    · exact h.2 c hc

/-- A write keeps the canonical form. -/
theorem writeCell_wf {m : List Host.Cell} (a : Nat) (v : Byte) (h : Memory.wf m = true) :
    Memory.wf (writeCell m a v) = true := by
  simp only [writeCell]
  split
  · exact eraseCell_wf a h
  · next hv => exact insertCell_wf hv (eraseCell_notMem m a) (eraseCell_wf a h)

/-- Consecutive writes keep the canonical form. -/
theorem writeCells_wf {m : List Host.Cell} (a : Nat) (vs : List Byte) (h : Memory.wf m = true) :
    Memory.wf (writeCells m a vs) = true := by
  induction vs generalizing m a with
  | nil => exact h
  | cons v vs ih => exact ih (a + 1) (writeCell_wf a v h)

end Sys2Proof.Machine
end

