-- ==== Sys2Proof/Laws/PerInstr.lean ====
section
/-! SUPPORT. What holds of every command as syntax, said per constructor. -/

/-- A well-formed command reports the character SOF exactly when its row is SOF_RECEIVED. -/
def Sys2Proof.Laws.SofRow.Statement (i : Sys2Proof.Instr) : Prop :=
  i.wellFormed = true → ∀ l v, Sys2Proof.Machine.characterOf i = some (l, v) →
    (v = Sys2Proof.codeSof ↔ i = .sofReceived l)

namespace Sys2Proof.Laws

open Sys2Proof Sys2Proof.Machine

theorem SofRow.coldReset (straps : Rate) : SofRow.Statement (.coldReset straps) := by
  intro _ l v h
  exact nomatch (show (none : Option (LineAt × Byte)) = some (l, v) from h)

theorem SofRow.sofReceived (line : LineAt) : SofRow.Statement (.sofReceived line) := by
  intro _ l v h
  cases show some (line, codeSof) = some (l, v) from h
  simp

theorem SofRow.contentCharacter (line : LineAt) (data : Byte) : SofRow.Statement (.contentCharacter line data) := by
  intro hw l v h
  cases show some (line, data) = some (l, v) from h
  exact ⟨fun hv => absurd hw (by subst hv; simp [Instr.wellFormed]), fun h => (nomatch h)⟩

theorem SofRow.eofReceived (line : LineAt) : SofRow.Statement (.eofReceived line) := by
  intro _ l v h
  cases show some (line, codeEof) = some (l, v) from h
  exact ⟨fun h => absurd h (by decide), fun h => (nomatch h)⟩

theorem SofRow.abtReceived (line : LineAt) : SofRow.Statement (.abtReceived line) := by
  intro _ l v h
  cases show some (line, codeAbt) = some (l, v) from h
  exact ⟨fun h => absurd h (by decide), fun h => (nomatch h)⟩

theorem SofRow.framingError (line : LineAt) : SofRow.Statement (.framingError line) := by
  intro _ l v h
  exact nomatch (show (none : Option (LineAt × Byte)) = some (l, v) from h)

theorem SofRow.breakRecognised (line : LineAt) : SofRow.Statement (.breakRecognised line) := by
  intro _ l v h
  exact nomatch (show (none : Option (LineAt × Byte)) = some (l, v) from h)

theorem SofRow.breakEnd (line : LineAt) : SofRow.Statement (.breakEnd line) := by
  intro _ l v h
  exact nomatch (show (none : Option (LineAt × Byte)) = some (l, v) from h)

theorem SofRow.lineFallsToSpace (drop : DropAt) : SofRow.Statement (.lineFallsToSpace drop) := by
  intro _ l v h
  exact nomatch (show (none : Option (LineAt × Byte)) = some (l, v) from h)

theorem SofRow.gapExpiry (line : Line) : SofRow.Statement (.gapExpiry line) := by
  intro _ l v h
  exact nomatch (show (none : Option (LineAt × Byte)) = some (l, v) from h)

theorem SofRow.dropEofSent (drop : DropId) : SofRow.Statement (.dropEofSent drop) := by
  intro _ l v h
  exact nomatch (show (none : Option (LineAt × Byte)) = some (l, v) from h)

theorem SofRow.windowExpiry (drop : DropId) : SofRow.Statement (.windowExpiry drop) := by
  intro _ l v h
  exact nomatch (show (none : Option (LineAt × Byte)) = some (l, v) from h)

theorem SofRow.guardEnd (drop : DropId) : SofRow.Statement (.guardEnd drop) := by
  intro _ l v h
  exact nomatch (show (none : Option (LineAt × Byte)) = some (l, v) from h)

theorem SofRow.deadlineExpiry (tag : Tag) : SofRow.Statement (.deadlineExpiry tag) := by
  intro _ l v h
  exact nomatch (show (none : Option (LineAt × Byte)) = some (l, v) from h)

theorem SofRow.dropFault (drop : DropId) : SofRow.Statement (.dropFault drop) := by
  intro _ l v h
  exact nomatch (show (none : Option (LineAt × Byte)) = some (l, v) from h)

theorem SofRow.dropRecovery (drop : DropId) : SofRow.Statement (.dropRecovery drop) := by
  intro _ l v h
  exact nomatch (show (none : Option (LineAt × Byte)) = some (l, v) from h)

theorem SofRow.trunkEofSent : SofRow.Statement (.trunkEofSent) := by
  intro _ l v h
  exact nomatch (show (none : Option (LineAt × Byte)) = some (l, v) from h)

theorem SofRow.memoryPollTimeout : SofRow.Statement (.memoryPollTimeout) := by
  intro _ l v h
  exact nomatch (show (none : Option (LineAt × Byte)) = some (l, v) from h)

theorem SofRow.memoryByteNotAcknowledged : SofRow.Statement (.memoryByteNotAcknowledged) := by
  intro _ l v h
  exact nomatch (show (none : Option (LineAt × Byte)) = some (l, v) from h)

theorem SofRow.loadHeaderRead (magic0 magic1 version lengthHigh lengthLow : Byte) : SofRow.Statement (.loadHeaderRead magic0 magic1 version lengthHigh lengthLow) := by
  intro _ l v h
  exact nomatch (show (none : Option (LineAt × Byte)) = some (l, v) from h)

theorem SofRow.settingsRecord (fields : List Byte) : SofRow.Statement (.settingsRecord fields) := by
  intro _ l v h
  exact nomatch (show (none : Option (LineAt × Byte)) = some (l, v) from h)

theorem SofRow.dropRecord (fields : List Byte) : SofRow.Statement (.dropRecord fields) := by
  intro _ l v h
  exact nomatch (show (none : Option (LineAt × Byte)) = some (l, v) from h)

theorem SofRow.stationRecord (fields : List Byte) : SofRow.Statement (.stationRecord fields) := by
  intro _ l v h
  exact nomatch (show (none : Option (LineAt × Byte)) = some (l, v) from h)

theorem SofRow.endRecord (rest : List Byte) : SofRow.Statement (.endRecord rest) := by
  intro _ l v h
  exact nomatch (show (none : Option (LineAt × Byte)) = some (l, v) from h)

theorem SofRow.unknownRecord (type : Byte) (fields : List Byte) : SofRow.Statement (.unknownRecord type fields) := by
  intro _ l v h
  exact nomatch (show (none : Option (LineAt × Byte)) = some (l, v) from h)

theorem SofRow.truncatedRecord (bytes : List Byte) : SofRow.Statement (.truncatedRecord bytes) := by
  intro _ l v h
  exact nomatch (show (none : Option (LineAt × Byte)) = some (l, v) from h)

theorem SofRow.loadEnd (checkHigh checkLow : Byte) : SofRow.Statement (.loadEnd checkHigh checkLow) := by
  intro _ l v h
  exact nomatch (show (none : Option (LineAt × Byte)) = some (l, v) from h)

theorem SofRow.storeWriteAcknowledged : SofRow.Statement (.storeWriteAcknowledged) := by
  intro _ l v h
  exact nomatch (show (none : Option (LineAt × Byte)) = some (l, v) from h)

theorem SofRow.abtSent (line : LineAt) : SofRow.Statement (.abtSent line) := by
  intro _ l v h
  exact nomatch (show (none : Option (LineAt × Byte)) = some (l, v) from h)

theorem SofRow.ignoredCharacter (line : LineAt) (data : Byte) : SofRow.Statement (.ignoredCharacter line data) := by
  intro hw l v h
  cases show some (line, data) = some (l, v) from h
  exact ⟨fun hv => absurd hw (by subst hv; simp [Instr.wellFormed]), fun h => (nomatch h)⟩

end Sys2Proof.Laws
end

