-- ==== Sys2Proof/Tests/Slice0.lean ====
section
/-! SUPPORT. Tests on small states, their expected results taken from the data book's worked examples and tables, and a
witness for every statement that has hypotheses. -/

namespace Sys2Proof.Tests

set_option Elab.async false

open Sys2Proof Sys2Proof.Machine

/-! ### Small states -/

/-- The state after a command. -/
def after (c : Instr) (s : State) : State :=
  match exec c s with
  | .next t => t
  | .fault _ => s
  | .refused _ => s

/-- Entry 0x23: D0, alias 0x03 (A Plain Poll). -/
def poll : Station := { Station.fresh 0x23#8 0 with aliasAddr := some 0x03#8 }

/-- Entry 0x52: D3, deferral allowed, fetch limit 2, miss count 2 (Deferral up to the Fetch Limit). -/
def slow : Station :=
  { Station.fresh 0x52#8 3 with deferral := true, fetchLimit := 2, miss := 2, liveness := .silent }

/-- READY, every drop ENABLED and IDLE, the two entries. -/
def ready : State :=
  { State.reset with
    image := { State.reset.image with config := .ready, result := .noImage, load := none }
    stations := [poll, slow]
    drops := Vector.replicate 4 { Drop.cold with mode := .enabled, line := .idle } }

/-- A frame content in buffer 0, whole but for its EOF, in a receiver. -/
def assembling (c : List Byte) : Receiver :=
  { state := .assemble, slot := some 0, count := c.length, escape := false, gap := some 12000 }

/-- Buffer 0 carries a content. -/
def State.withFrame (s : State) (c : List Byte) : State :=
  { s with pool := (s.pool.taken 0 (s.pool.free.filter (· ≠ 0))).write 0 c }

/-- The trunk receiver assembles it. -/
def State.onTrunk (s : State) (c : List Byte) : State :=
  { State.withFrame s c with trunk := { s.trunk with rx := assembling c } }

/-- A drop's receiver assembles it, the drop in a line state. -/
def State.onDrop (s : State) (d : DropId) (line : LineState) (c : List Byte) : State :=
  (State.withFrame s c).mapDrop d (fun x => { x with line := line, rx := assembling c })

/-- The request of A Plain Poll, readdressed, and a FREE buffer 5 made its buffer. -/
def pollRequest : List Byte := frame 0x23#8 0x00#8 0x10#8 0x30#8 [0x07#8, 0x08#8]

/-- Its exchange in a state. -/
def pollExchange (st : ExState) : Exchange :=
  { station := 0x23#8, drop := 0, seq := 0x30#8, cls := .routine, state := st, attempts := 1, fetches := 0,
    deadline := some 11520, cancelPending := false, buffer := 5, limit := some 1, dueSince := none, removal := .none }

/-- The exchange in tag 0 and in service on D0, the drop in a line state, its buffer held twice. -/
def State.serving (s : State) (e : Exchange) (line : LineState) : State :=
  { s with
    pool := { (s.pool.held 5 pollRequest 2) with free := s.pool.free.filter (· ≠ 5) }
    exchanges := s.exchanges.set 0 (some e)
    drops := s.drops.set 0 { s.dropUnit 0 with
      line := line, service := some { work := .exchange 0, cls := e.cls, buffer := 5 } } }

/-- The poll in service on a ready D0, the drop SENDING. -/
def onLine0 (st : ExState) : State := State.serving ready (pollExchange st) .sending

/-- D0 is sending the request since time 0. -/
def State.sendingNow (s : State) : State :=
  s.mapDrop 0 (fun x => { x with line := .sending, tx := .sending (.pool 5) 3 0 })

/-- The exchange in tag 0, off the line, its buffer held once. -/
def State.offTheLine (s : State) (st : ExState) : State :=
  { s with
    pool := { (s.pool.held 5 pollRequest 1) with free := s.pool.free.filter (· ≠ 5) }
    exchanges := s.exchanges.set 0 (some { pollExchange st with dueSince := some 3 }) }

/-- A drop in a line state, with a mode. -/
def State.inLine (s : State) (d : DropId) (mode : Mode) (line : LineState) : State :=
  s.mapDrop d (fun x => { x with mode := mode, line := line })

/-- A load reading records, so many bytes left. -/
def reading (left : Nat) : State :=
  { State.reset with image := { State.reset.image with load := some { Load.start with phase := .records, left := left } } }

/-- A store with its image just built. -/
def storingNow : State := (ready.beginStore 0x60#8 0)

/-! ### Well-formedness: what each check refuses -/

theorem test_content_character_is_no_sof : (Instr.contentCharacter ⟨.trunk, 0⟩ 0xD3#8).wellFormed = false := by decide
theorem test_content_character_is_no_eof : (Instr.contentCharacter ⟨.trunk, 0⟩ 0xD5#8).wellFormed = false := by decide
theorem test_content_character_is_no_abt : (Instr.contentCharacter ⟨.trunk, 0⟩ 0xD9#8).wellFormed = false := by decide
theorem test_content_character_may_be_esc : (Instr.contentCharacter ⟨.trunk, 0⟩ 0xD7#8).wellFormed = true := by decide
theorem test_ignored_character_is_no_sof : (Instr.ignoredCharacter ⟨.drop 2, 0⟩ 0xD3#8).wellFormed = false := by decide

theorem test_record_fields_fit_a_length_byte :
    (Instr.settingsRecord (List.replicate 256 0#8)).wellFormed = false
      ∧ (Instr.dropRecord (List.replicate 256 0#8)).wellFormed = false
      ∧ (Instr.stationRecord (List.replicate 256 0#8)).wellFormed = false
      ∧ (Instr.unknownRecord 0x77#8 (List.replicate 256 0#8)).wellFormed = false := by decide +kernel

theorem test_end_record_fits_the_records : (Instr.endRecord (List.replicate 2038 0#8)).wellFormed = false := by
  decide +kernel

theorem test_unknown_record_is_unknown : (Instr.unknownRecord 0x52#8 []).wellFormed = false := by decide

theorem test_truncated_record_has_bytes_and_an_end :
    (Instr.truncatedRecord []).wellFormed = false
      ∧ (Instr.truncatedRecord (List.replicate 257 0#8)).wellFormed = false := by decide +kernel

/-! ### Formats -/

/-- "For the nine ASCII bytes 123456789 this procedure gives 0x29B1" (R5). -/
theorem test_check_of_the_nine_digits :
    check [0x31#8, 0x32#8, 0x33#8, 0x34#8, 0x35#8, 0x36#8, 0x37#8, 0x38#8, 0x39#8] = 0x29B1#16 := by decide +kernel

/-- Escaping a Request: 10 content bytes, 2 escapes, 14 characters. -/
theorem test_escaping_a_request :
    (lineCharacters (frame 0x21#8 0x00#8 0x10#8 0xD5#8 [0x01#8, 0xD9#8, 0x7F#8])).length = 14 := by decide +kernel

/-- Its first characters on the line. -/
theorem test_escaping_a_request_characters :
    (lineCharacters (frame 0x21#8 0x00#8 0x10#8 0xD5#8 [0x01#8, 0xD9#8, 0x7F#8])).take 11
      = [0xD3#8, 0x21#8, 0x00#8, 0x10#8, 0xD7#8, 0xF5#8, 0x03#8, 0x01#8, 0xD7#8, 0xF9#8, 0x7F#8] := by decide +kernel

/-- A FETCH is 9 characters, 9.4 ms at 9600 baud (R80): 5400 units of 1/576 ms are 9.375 ms. -/
theorem test_fetch_time : ready.sendingTime (.fetch (fetchFrame 0x52#8 0x41#8)) 3 = 5400 := by decide +kernel

/-! ### Bits on the lines -/

/-- 0xD3 is 1101 0011: after the start bit its data bits go out as 1, 1, 0, 0, 1, 0, 1, 1 (R1). -/
theorem test_character_bits :
    characterLevels 0xD3#8 = [.space, .mark, .mark, .space, .space, .mark, .space, .mark, .mark, .mark] := by decide

/-- A stop bit at mark, one at space with mark after it, and with space (R1). -/
theorem test_stop_bit :
    Hearing.rest.hear (characterLevels 0xD3#8) = [.character 0xD3#8]
      ∧ Hearing.rest.hear ((characterLevels 0xD3#8).take 9 ++ [.space, .mark]) = [.framingError]
      ∧ Hearing.rest.hear (List.replicate 11 .space ++ [.mark]) = [.lineBreak, .breakEnd] := by decide

/-- D0 sends from time 0, a character 600 units at 9600 baud: SOF's start bit, its first data bit, and before it mark. -/
theorem test_line_levels :
    (State.sendingNow (onLine0 .sending)).txd (.drop 0) 59 = .space
      ∧ (State.sendingNow (onLine0 .sending)).txd (.drop 0) 60 = .mark
      ∧ (State.sendingNow (onLine0 .sending)).txd .trunk 60 = .mark := by decide +kernel

/-! ### Receivers -/

/-- Damage on the Trunk: with six free the SOF takes one. -/
theorem test_trunk_sof_takes_a_buffer :
    (after (.sofReceived ⟨.trunk, 0⟩) { ready with pool := { ready.pool with free := [9, 8, 7, 6, 5, 4] } }).pool.free
      = [8, 7, 6, 5, 4] := by decide +kernel

/-- With four free it enters DISCARD, pool-empty rising by one. -/
theorem test_trunk_sof_meets_the_reserve :
    (after (.sofReceived ⟨.trunk, 0⟩) { ready with pool := { ready.pool with free := [9, 8, 7, 6] } }).trunk.rx.state = .discard
      ∧ (after (.sofReceived ⟨.trunk, 0⟩) { ready with pool := { ready.pool with free := [9, 8, 7, 6] } }).trunk.counters.poolEmpty
        = 1 := by decide +kernel

/-- Escaping a Request: after ESC, 0xF5 stores 0xD5 and the count is 4. -/
theorem test_content_character_after_esc :
    (after (.contentCharacter ⟨.trunk, 0⟩ 0xF5#8)
      { State.onTrunk ready [0x21#8, 0x00#8, 0x10#8] with
        trunk := { ready.trunk with rx := { assembling [0x21#8, 0x00#8, 0x10#8] with escape := true } } }).content 0
      = [0x21#8, 0x00#8, 0x10#8, 0xD5#8] := by decide +kernel

/-- Damage on the Trunk: after ESC, 0x41 is malformed: DISCARD, broken one higher, the buffer back at the tail. -/
theorem test_content_character_malformed :
    (after (.contentCharacter ⟨.trunk, 0⟩ 0x41#8)
      { State.onTrunk ready [0x21#8, 0x00#8] with
        trunk := { ready.trunk with rx := { assembling [0x21#8, 0x00#8] with escape := true } } }).trunk.counters.broken
      = 1 := by decide +kernel

/-- A Plain Poll: the request is admitted, tag 0 is SENDING, its frame goes to line address 0x03, its buffer has count 2. -/
theorem test_eof_admits_a_request :
    ((after (.eofReceived ⟨.trunk, 0⟩) (State.onTrunk ready pollRequest)).exchange 0).map Exchange.state = some .sending
      ∧ ((after (.eofReceived ⟨.trunk, 0⟩) (State.onTrunk ready pollRequest)).pool.content 0).take 4
        = [0x03#8, 0x00#8, 0x10#8, 0x30#8]
      ∧ (after (.eofReceived ⟨.trunk, 0⟩) (State.onTrunk ready pollRequest)).pool.count 0 = 2 := by decide +kernel

/-- A Plain Poll: the ANSWER from 0x03 closes the exchange and goes upstream as 0x23's, being sent at once. -/
theorem test_eof_takes_an_answer :
    (after (.eofReceived ⟨.drop 0, 0⟩) (State.onDrop (State.serving ready (pollExchange .awaiting) .listening) 0 .receiving
      (frame 0x00#8 0x03#8 0x20#8 0x30#8 [1#8, 2#8, 3#8, 4#8]))).trunk.tx = .sending (.pool 0) 0 0
      ∧ ((after (.eofReceived ⟨.drop 0, 0⟩) (State.onDrop (State.serving ready (pollExchange .awaiting) .listening) 0 .receiving
        (frame 0x00#8 0x03#8 0x20#8 0x30#8 [1#8, 2#8, 3#8, 4#8]))).content 0).take 2 = [0x00#8, 0x23#8] := by
  decide +kernel

/-- An ABT returns the receiver to HUNT and its buffer to the tail (R10, R23). -/
theorem test_abt_frees_the_buffer :
    (after (.abtReceived ⟨.trunk, 0⟩) (State.onTrunk ready [0x21#8])).pool.free = (List.finRange 40).tail ++ [0] := by
  decide +kernel

/-- A framing error in a frame on a drop is a bad frame; RECEIVING is LISTENING again (R12, R83). -/
theorem test_framing_error_in_receiving :
    ((after (.framingError ⟨.drop 0, 0⟩)
      (State.onDrop (State.serving ready (pollExchange .awaiting) .listening) 0 .receiving [0x00#8])).dropUnit 0).line
      = .listening := by decide +kernel

/-- A break takes a receiver out of DISCARD (R13). -/
theorem test_break_ends_discard :
    (after (.breakRecognised ⟨.trunk, 0⟩)
      { ready with trunk := { ready.trunk with rx := Receiver.emptied .discard } }).trunk.rx.state = .hunt := by
  decide +kernel

/-- The end of a break is a character received: an IDLE drop enters GUARD (R89). -/
theorem test_break_end_enters_guard : ((after (.breakEnd ⟨.drop 1, 0⟩) ready).dropUnit 1).line = .guard := by
  decide +kernel

/-- So does a character nobody takes, but not on the trunk. -/
theorem test_ignored_character :
    ((after (.ignoredCharacter ⟨.drop 1, 0⟩ 0x05#8) ready).dropUnit 1).line = .guard
      ∧ exec (.ignoredCharacter ⟨.trunk, 70⟩ 0x05#8) ready = .next { ready with now := 70 } := ⟨by decide +kernel, rfl⟩

/-- The break measure starts at the fall (R90). -/
theorem test_line_falls :
    ((after (.lineFallsToSpace ⟨2, 70⟩) ready).dropUnit 2).breakSince = some 70 := by decide +kernel

/-- Damage on the Trunk: a gap counts the frame broken. -/
theorem test_gap_expiry :
    (after (.gapExpiry .trunk) (State.onTrunk ready [0x21#8, 0x00#8, 0x10#8])).trunk.counters.broken = 1
      ∧ (after (.gapExpiry .trunk) (State.onTrunk ready [0x21#8, 0x00#8, 0x10#8])).now = 12000 := by decide +kernel

/-! ### Drop lines -/

/-- A Plain Poll: the window of 20 ms runs from the EOF. The request is 11 characters: 6600 units, and 11520 more. -/
theorem test_drop_eof_sent_opens_the_window :
    ((after (.dropEofSent 0) (State.sendingNow (State.serving ready (pollExchange .sending) .sending))).exchange 0).map
      Exchange.deadline = some (some (6600 + 11520)) := by decide +kernel

/-- A Poll Needing One Retry: at the expiry with the line quiet the retry goes out in the same step, attempt 2. -/
theorem test_window_expiry_retries_at_once :
    ((after (.windowExpiry 0) (State.serving ready (pollExchange .awaiting) .listening)).exchange 0).map
      (fun e => (e.state, e.attempts)) = some (.sending, 2) := by decide +kernel

/-- Past the retry limit it closes SILENT: the miss count of 0x23 is 1. -/
theorem test_window_expiry_closes_silent :
    ((after (.windowExpiry 0)
      (State.serving ready { pollExchange .awaiting with attempts := 2 } .listening)).station 0x23#8).map Station.miss
      = some 1 := by decide +kernel

/-- A character 2.6 ms before the expiry: the drop is in GUARD with the retry pending, and it goes out at the guard time's
end, four quiet character times after the character (R109). -/
theorem test_window_expiry_after_a_character :
    ((after (.windowExpiry 0) (after (.ignoredCharacter ⟨.drop 0, 10000⟩ 0x05#8) (State.serving ready
        (pollExchange .awaiting) .listening))).exchange 0).map (fun e => (e.state, e.attempts)) = some (.awaiting, 1)
      ∧ ((after (.guardEnd 0) (after (.windowExpiry 0) (after (.ignoredCharacter ⟨.drop 0, 10000⟩ 0x05#8) (State.serving ready
        (pollExchange .awaiting) .listening)))).dropUnit 0).tx = .sending (.pool 5) 3 12400 := by decide +kernel

/-- Two fetches are due of which the higher tag expired first, both reported late: it is the candidate (R112). -/
theorem test_deadline_expiry_order :
    (after (.deadlineExpiry 2) (after (.deadlineExpiry 5) { State.inLine ready 0 .enabled .guard with
      now := 115
      exchanges := (ready.exchanges.set 5 (some { pollExchange .deferred with deadline := some 111 })).set 2
        (some { pollExchange .deferred with station := 0x24#8, deadline := some 112 }) })).fetchCandidate 0 = some 5 := by
  decide +kernel

/-- The guard time at 9600 baud is 4.17 ms: 2400 units (R89). -/
theorem test_guard_end :
    ((after (.guardEnd 1) (ready.mapDrop 1 (fun x => { x with line := .guard, lastChar := 10 }))).dropUnit 1).line = .idle
      ∧ (after (.guardEnd 1) (ready.mapDrop 1 (fun x => { x with line := .guard, lastChar := 10 }))).now = 2410 := by
  decide +kernel

/-- A due fetch is taken by an IDLE drop and its FETCH goes to the line address (R80, R112). -/
theorem test_deadline_expiry_fetches :
    ((after (.deadlineExpiry 0) (State.offTheLine ready .deferred)).dropUnit 0).tx
      = .sending (.fetch (frame 0x03#8 0x00#8 0x12#8 0x30#8 [])) 3 11520 := by decide +kernel

/-- A fault closes the exchange in service DROP FAULT, reason 0x07, and FLT goes low (R90, R91). -/
theorem test_drop_fault :
    (after (.dropFault 0) ((State.serving ready (pollExchange .awaiting) .listening).mapDrop 0
      (fun x => { x with rxSpace := true, breakSince := some 0 }))).flt = false
      ∧ (((after (.dropFault 0) ((State.serving ready (pollExchange .awaiting) .listening).mapDrop 0
        (fun x => { x with rxSpace := true, breakSince := some 0 }))).content 5).drop 5).head? = some 0x07#8 := by
  decide +kernel

/-- Recovery after 256 character times of mark, 266.7 ms at 9600 baud, with the mode DISABLED (R92). -/
theorem test_drop_recovery :
    ((after (.dropRecovery 2)
      (State.reset.mapDrop 2 (fun x => { x with line := .fault, marking := .since 0 }))).dropUnit 2).line = .disabled
      ∧ (after (.dropRecovery 2)
        (State.reset.mapDrop 2 (fun x => { x with line := .fault, marking := .since 0 }))).now = 153600 := by decide +kernel

/-- In FAULT at 9600 baud a character 0x60, 0110 0000, ends at time 1000 with its stop bit alone after the last 0, and
0xF0, 1111 0000, with four data bits more at mark: 60 units and 300 (R92). -/
theorem test_marking_measure :
    ((after (.ignoredCharacter ⟨.drop 0, 1000⟩ 0x60#8) (State.inLine ready 0 .enabled .fault)).dropUnit 0).marking = .since 940
      ∧ ((after (.ignoredCharacter ⟨.drop 0, 1000⟩ 0xF0#8) (State.inLine ready 0 .enabled .fault)).dropUnit 0).marking
        = .since 700 := by decide +kernel

/-- A break that begins inside a character is measured from its own fall (R90). -/
theorem test_fall_inside_a_character :
    ((after (.lineFallsToSpace ⟨1, 300⟩) (after (.lineFallsToSpace ⟨1, 0⟩) ready)).dropUnit 1).breakSince = some 300 := by
  decide +kernel

/-- A reload has cut a trunk frame off at 1200 baud, and its load has ended with rate 7 before the ABT has. -/
def reloadedFast : State :=
  State.succeedLoad (State.restartReload { ready with trunk := { ready.trunk with tx := .sending (.pool 3) 0 0 } } 0x07#8)
    { Load.start.staged with trunkRate := some 7 }

/-- The RESULT goes at 1200 baud, the rate before the reload, and the rate kept for it is gone (R141, R180). -/
theorem test_reload_result_at_the_old_rate :
    (after (.abtSent ⟨.trunk, 0⟩) reloadedFast).trunk.tx = .sending (.pool 0) 0 9600
      ∧ (after (.abtSent ⟨.trunk, 0⟩) reloadedFast).trunk.rate = 7
      ∧ (after (.abtSent ⟨.trunk, 0⟩) reloadedFast).trunk.keptRate = none := by decide +kernel

/-- The EOF of the RESULT the slot holds makes it HELD, and the pending own address is in force (R147, R161). -/
theorem test_trunk_eof_sent :
    (after .trunkEofSent { State.withFrame ready [1#8] with
      trunk := { ready.trunk with tx := .sending (.pool 0) 0 0 }
      mgmt := { ready.mgmt with slot := .inFlight 0x07#8 0 false, pendingAddress := some 0xE0#8 } }).mgmt.slot
      = .held 0x07#8 0
      ∧ (after .trunkEofSent { State.withFrame ready [1#8] with
        trunk := { ready.trunk with tx := .sending (.pool 0) 0 0 }
        mgmt := { ready.mgmt with slot := .inFlight 0x07#8 0 false, pendingAddress := some 0xE0#8 } }).settings.ownAddress
        = 0xE0#8 := by decide +kernel

/-- The trunk transmitter cut off by a restart in a character 0x41 that began at a time. -/
def State.cutOffAt (s : State) (began : Nat) : State :=
  { s with trunk := { s.trunk with tx := .aborting 0x41#8 0 began } }

/-- After its ABT, two characters of 4800 units at 1200 baud, a trunk transmitter takes what waits (R20, R131). -/
theorem test_abt_sent :
    (after (.abtSent ⟨.trunk, 0⟩) { State.cutOffAt (State.withFrame ready [1#8]) 70 with
      upstream := { ready.upstream with urgent := [0] } }).trunk.tx = .sending (.pool 0) 0 9670 := by decide +kernel

/-- A restart 6000 units into a FETCH at 1200 baud, whose second character, the line address 0x52, is then on the line:
that character is finished and ABT follows (R20). A second restart adds no ABT (log entry 21). -/
theorem test_restart_cuts_a_frame_off :
    ((({ ready.mapDrop 3 (fun x => { x with line := .sending, tx := .sending (.fetch (fetchFrame 0x52#8 0x41#8)) 0 0 })
        with now := 6000 } : State).restartWarm 0x07#8).dropUnit 3).tx = .aborting 0x52#8 0 4800
      ∧ ((({ ready.mapDrop 3 (fun x => { x with tx := .aborting 0x52#8 0 4800 }) with now := 10000 } : State).restartWarm
        0x08#8).dropUnit 3).tx = .aborting 0x52#8 0 4800 := by decide +kernel

/-! ### The image -/

/-- The straps give the trunk rate; every drop is at 9600 baud (R2). -/
theorem test_cold_reset :
    (after (.coldReset 5) ready).trunk.rate = 5 ∧ ((after (.coldReset 5) ready).dropUnit 3).rate = 3
      ∧ (after (.coldReset 5) ready).rdy = false := by decide +kernel

/-- No memory: NO IMAGE, and RDY high (R175, R180). -/
theorem test_poll_timeout_at_the_header :
    (after .memoryPollTimeout State.reset).image.result = .noImage ∧ (after .memoryPollTimeout State.reset).rdy = true := by
  decide +kernel

/-- Later it is BAD IMAGE (R176). -/
theorem test_byte_not_acknowledged_in_records :
    (after .memoryByteNotAcknowledged (reading 20)).image.result = .badImage := by decide +kernel

/-- The header of an image whose records are 2038 bytes (R175), and of one too long. -/
theorem test_load_header :
    (after (.loadHeaderRead 0x57#8 0x42#8 0x01#8 0x07#8 0xF6#8) State.reset).image.load.map Load.left = some 2038
      ∧ (after (.loadHeaderRead 0x57#8 0x42#8 0x01#8 0x07#8 0xF7#8) State.reset).image.result = .badImage := by
  decide +kernel

/-- A magic of 0x0000 gives BAD IMAGE (R175). -/
theorem test_load_header_of_a_cut_off_store :
    (after (.loadHeaderRead 0x00#8 0x00#8 0x01#8 0x00#8 0x8D#8) State.reset).image.result = .badImage := by decide +kernel

/-- A Load with Skipped Records: own address 0xE0 and down threshold 4 staged, nothing yet in force. -/
theorem test_settings_record :
    (after (.settingsRecord [0x09#8, 0xE0#8, 0x04#8]) (reading 60)).image.load.map
        (fun l => (l.staged.ownAddress, l.staged.downThreshold)) = some (some 0xE0#8, some 4)
      ∧ (after (.settingsRecord [0x09#8, 0xE0#8, 0x04#8]) (reading 60)).settings.ownAddress = 0xEF#8 := by decide +kernel

/-- DROP 1, ENABLED, rate 5: pending, the line still DISABLED. -/
theorem test_drop_record :
    ((after (.dropRecord [0x01#8, 0x01#8, 0x05#8]) (reading 60)).dropUnit 1).pendingRate = some 5
      ∧ ((after (.dropRecord [0x01#8, 0x01#8, 0x05#8]) (reading 60)).dropUnit 1).line = .disabled := by decide +kernel

/-- STATION 0x12, drop 7: a bad value, skipped. -/
theorem test_station_record_bad_value :
    (after (.stationRecord [0x12#8, 0x01#8, 0x07#8]) (reading 60)).image.skipped = 1
      ∧ (after (.stationRecord [0x12#8, 0x01#8, 0x07#8]) (reading 60)).stations = [] := by decide +kernel

/-- STATION 0x10, drop 1, class URGENT, replaces the 0x10 of drop 0. -/
theorem test_station_record_replaces :
    (after (.stationRecord [0x10#8, 0x05#8, 0x01#8, 0x01#8])
      { reading 60 with stations := [Station.fresh 0x10#8 0] }).stations
      = [{ Station.fresh 0x10#8 1 with cls := .urgent }] := by decide +kernel

/-- A record of unknown type, 4 field bytes: stepped over, skipped. -/
theorem test_unknown_record :
    (after (.unknownRecord 0x77#8 [1#8, 2#8, 3#8, 4#8]) (reading 60)).image.skipped = 1
      ∧ (after (.unknownRecord 0x77#8 [1#8, 2#8, 3#8, 4#8]) (reading 60)).image.load.map Load.left = some 54 := by
  decide +kernel

/-- An END stops the records; nothing is counted. -/
theorem test_end_record :
    (after (.endRecord [0x00#8]) (reading 2)).image.load.map Load.phase = some .check
      ∧ (after (.endRecord [0x00#8]) (reading 2)).image.skipped = 0 := by decide +kernel

/-- A record cut short is counted, and the records stop (R176). -/
theorem test_truncated_record :
    (after (.truncatedRecord [0x53#8, 0x09#8, 0x10#8]) (reading 3)).image.load.map Load.phase = some .check
      ∧ (after (.truncatedRecord [0x53#8, 0x09#8, 0x10#8]) (reading 3)).image.skipped = 1 := by decide +kernel

/-- The check right: LOADED. Wrong in its low byte: BAD IMAGE. -/
theorem test_load_end :
    (after (.loadEnd 0xFF#8 0xFF#8) (reading 0)).image.result = .loaded
      ∧ (after (.loadEnd 0xFF#8 0xFE#8) (reading 0)).image.result = .badImage := by decide +kernel

/-- The first write of a store leaves a magic of 0x0000 (R183). -/
theorem test_store_write :
    readCell (after .storeWriteAcknowledged storingNow).memory 0 = 0x00#8
      ∧ readCell (after .storeWriteAcknowledged storingNow).memory 1 = 0x00#8
      ∧ (after .storeWriteAcknowledged storingNow).image.store.map Store.position = some 1 := by decide +kernel

/-- Address 0x1F0 is in block 1, its device select byte for reading 1010 001 1, its address byte 0xF0 (R169). -/
theorem test_device_select : deviceSelect 0x1F0 true = 0b10100011#8 ∧ addressByte 0x1F0 = 0xF0#8 := by decide

/-- 9 clock periods for each byte, 11 for an attempt; the device select 1010 000 0 on the wire, most significant bit first,
acknowledged in the ninth clock (R169, R170). -/
theorem test_port_wires :
    clocksOf ((Transfer.read 0 5).signals (fun _ => 0x00#8)) = 75 ∧ clocksOf (refusedAttempt 0 true) = 11
      ∧ ((PortSignal.sent (deviceSelect 0 false) true).levels.filter PortLevels.mscl).map PortLevels.msda
        = [true, false, true, false, false, false, false, false, false] := by decide

/-- MSDA free at once, after the ninth pulse, not even then (R169). -/
theorem test_start_after :
    startAfter (fun _ => true) = some 0 ∧ startAfter (fun k => k = 9) = some 9 ∧ startAfter (fun k => 10 ≤ k) = none := by
  decide

/-- A read of one byte at 0x123 whose device select for reading is refused once: stop, and start with the same device
select again. Refused for 10 ms, the polling fails (R169, R170). -/
theorem test_read_select_refused :
    (Transfer.read 0x123 1).run (fun _ => 0x57#8) [[⟨0, 0, true⟩], [⟨0, 0, false⟩, ⟨11, 0, true⟩]] [true]
        = ([.start, .sent 0xA2#8 true, .sent 0x23#8 true, .start, .sent 0xA3#8 false, .stop, .start, .sent 0xA3#8 true,
          .taken 0x57#8 false, .stop], none)
      ∧ Machine.poll 0xA3#8 [⟨0, 0, false⟩, ⟨1001, 0, true⟩] = (refusedAttempt 0x123 true, false) := by decide

/-- The invalid magic with its second byte not acknowledged, and an address byte not acknowledged: a stop at once (R184).
MSDA high after the second pulse; held low for nine and longer, no start (R169). -/
theorem test_byte_refused :
    (Transfer.write 0 [0x00#8, 0x00#8]).run (fun _ => 0xFF#8) [[⟨0, 2, true⟩]] [true, true, false]
        = ([.pulse false, .pulse true, .start, .sent 0xA0#8 true, .sent 0x00#8 true, .sent 0x00#8 true,
          .sent 0x00#8 false, .stop], some .byte)
      ∧ (Transfer.read 0 5).run (fun _ => 0xFF#8) [[⟨0, 0, true⟩]] [false]
        = ([.start, .sent 0xA0#8 true, .sent 0x00#8 false, .stop], some .byte)
      ∧ (lastPolling [⟨0, 10, true⟩]).2 = some .polling
      ∧ (lastPolling [⟨0, 0, true⟩]) = ([.start, .sent 0xA0#8 true, .stop], none) := by decide

/-- A load's next read: the header alone, then, 300 bytes into an image, the second block as far as it goes (R174, R176). -/
theorem test_port_transfer :
    State.reset.portTransfer = some (.read 0 5)
      ∧ ({ State.reset with image := { State.reset.image with load := some { Load.start with
          phase := .records, position := 300, left := 40 } } } : State).portTransfer = some (.read 256 86) := by decide

/-- A STORE Interrupted by Reset: ten stations with no aliases make an image of 148 bytes and 12 writes. -/
theorem test_store_image_of_ten :
    ({ ready with stations := List.replicate 10 (Station.fresh 0x10#8 0) }).storeImage.length = 148
      ∧ (storeWrites (List.replicate 148 0#8)).length = 12 := by decide +kernel

/-! ### Management, through the EOF of a request -/

/-- Line Addresses on One Drop: a create whose line address is taken on its drop is BAD ARGUMENT; on another drop it is
DONE. -/
theorem test_write_station :
    (ready.writeStation 0x30#8 (stationFields 3 [0x00#8, 0x03#8])).2 = .badArgument
      ∧ (ready.writeStation 0x30#8 (stationFields 3 [0x02#8, 0x03#8])).2 = .done := by decide +kernel

/-- A Threshold Change: a miss count of 2 is DOWN under threshold 2, and its station joins the notice set. -/
theorem test_threshold_change :
    ((ready.writeSettings { settingsFields 0 [] with downThreshold := some 0x02#8 }).1.station 0x52#8).map
      (fun st => (st.miss, st.liveness, st.noticePending)) = some (2, .down, true) := by decide +kernel

/-- READ STATUS answers 15 data bytes in a RESULT of 24 content bytes (R143, R150). -/
theorem test_read_status :
    ((after (.eofReceived ⟨.trunk, 0⟩)
      (State.onTrunk ready (frame 0xEF#8 0x00#8 0x10#8 0x01#8 [0x01#8]))).content 0).length = 24 := by decide +kernel

/-! ## Witnesses

One theorem for each clause of a statement that has hypotheses: a state and operands that meet them together, at a
boundary of their range where they have one. A hypothesis that only names a value (`u = …`) is met by that value. -/

/-! ### Words for the witnesses -/

/-- Every open record meets a test. -/
theorem all_open {s : State} {p : Exchange → Bool} (h : ∀ t : Tag, (s.exchange t).all p = true) :
    ∀ t e, s.exchange t = some e → p e = true := by
  intro t e he
  have := h t
  rw [he] at this
  exact this

/-- An open record with a property, as a test. -/
theorem some_open {o : Option Exchange} {p : Exchange → Prop} [DecidablePred p] :
    (∃ e, o = some e ∧ p e) ↔ o.any (fun e => decide (p e)) = true := by
  cases o <;> simp

/-- A step that answers a next state. -/
theorem steps {s : State} (h : (match step s with | .next _ => true | _ => false) = true) : ∃ t, step s = .next t := by
  cases hs : step s with
  | next t => exact ⟨t, rfl⟩
  | fault r => rw [hs] at h; cases h
  | refused r => rw [hs] at h; cases h

/-- The trunk frame placed by `onTrunk` is about to end. -/
theorem trunk_ends (s : State) (c : List Byte) (h : validFrame c = true) : TrunkFrameEnds (State.onTrunk s c) 0 c :=
  ⟨⟨rfl, rfl⟩, rfl, rfl, by simp [State.onTrunk, State.withFrame, Pool.taken, Pool.write], h⟩

/-- The drop frame placed by `onDrop` is about to end. -/
theorem drop_ends (s : State) (d : DropId) (line : LineState) (c : List Byte) (h : validFrame c = true)
    (h1 : line ≠ .sending) (h2 : line ≠ .disabled) (h3 : line ≠ .fault) :
    DropFrameEnds (State.onDrop s d line c) d 0 c := by
  refine ⟨⟨?_, ?_, ?_, ?_, ?_⟩, ?_, ?_, ?_, h⟩ <;>
    simp [State.onDrop, State.mapDrop, State.dropUnit, State.withFrame, Pool.taken, Pool.write, assembling, *]

/-- The word 0x07 of a kind to an address. -/
def word (dest kind : Byte) : List Byte := frame dest 0x00#8 kind 0x30#8 [0x07#8]

/-- A receiver in DISCARD on the trunk. -/
def discarding : State := { ready with trunk := { ready.trunk with rx := Receiver.emptied .discard } }

/-- `n` buffers of the pool are free. -/
def State.withFree (s : State) (n : Nat) : State :=
  { s with pool := { s.pool with free := s.pool.free.take n } }

/-- The window expiry of drop 0 is held. -/
def State.expiryHeld (s : State) : State := s.mapDrop 0 (fun x => { x with expiryHeld := true })

/-- Station 0x52 is DOWN, with a probe count. -/
def downAt (probe : Nat) : State :=
  { ready with stations := [poll, { slow with miss := 3, liveness := .down, probe := probe }] }

/-- A drop queue of `n` broadcasts. -/
def noticeItems (n : Nat) : List Item := List.replicate n { work := .notice 0xFF#8, cls := .routine, buffer := 7 }

def State.queueOf (s : State) (d : DropId) (q : List Item) : State := s.mapDrop d (fun x => { x with queue := q })

/-- All sixteen records open, for station 0x77. -/
def State.exhausted (s : State) : State :=
  { s with exchanges := Vector.replicate 16 (some { pollExchange .deferred with station := 0x77#8 }) }

/-- The exchange of station 0x23, on the line of drop 0 or waiting there. -/
def onLine (st : ExState) (line : LineState) : State := State.serving ready (pollExchange st) line

/-- Drop 3 sends the FETCH of 0x52 from time 70. -/
def fetching70 : State :=
  ready.mapDrop 3 (fun x => { x with line := .sending, tx := .sending (.fetch (fetchFrame 0x52#8 0x41#8)) 3 70 })

/-! ### The queue and the formats -/

theorem witness_StepRunsFront :
    ({ ready with pending := [.trunkEofSent, .dropEofSent 0] } : State).pending = .trunkEofSent :: [.dropEofSent 0] := rfl

theorem witness_EveryCommandCompletes : ready.pending = [] := rfl

theorem witness_FrameFormat : (List.replicate 240 0x07#8 : List Byte).length ≤ 240 := by decide +kernel

theorem witness_TrunkRoundTrip :
    ready.trunk.rx.state ≠ .assemble ∧ ready.pool.free = 0 :: (List.finRange 40).tail ∧ 4 < ready.pool.free.length
      ∧ (List.replicate 247 codeSof).length ≤ 247
      ∧ (((List.replicate 247 codeSof).flatMap escapeByte).map (fun v => (v, 70))).map Prod.fst
        = (List.replicate 247 codeSof).flatMap escapeByte := by decide +kernel

theorem witness_ColdResetState :
    ready.image.store = none ∧ (∃ x, storingNow.image.store = some x) := ⟨rfl, _, rfl⟩

/-! ### The lines -/

/-- Eight data bits, all at space and all at mark. -/
theorem witness_LineCharacters :
    ((List.replicate 8 .space : List Level).length = 8) ∧ ((List.replicate 8 .mark : List Level).length = 8) := by decide

/-- D3 sends a FETCH of 9 characters from time 70: its last character and that one's last bit, one unit before mark. -/
theorem witness_LineLevels_sending :
    (ready.tx (.drop 3) = .idle)
      ∧ ((fetching70.tx (.drop 3) = .sending (.fetch (fetchFrame 0x52#8 0x41#8)) 3 70)
        ∧ (lineCharacters (fetching70.sourceContent (.fetch (fetchFrame 0x52#8 0x41#8)))).length = 9
        ∧ (5469 - 70) * 10 / charTime 3 = 10 * 8 + 9
        ∧ (lineCharacters (fetching70.sourceContent (.fetch (fetchFrame 0x52#8 0x41#8))))[8]? = some 0xD5#8
        ∧ 70 + 9 * charTime 3 ≤ 5470)
      ∧ ((State.cutOffAt ready 70).tx .trunk = .aborting 0x41#8 0 70
        ∧ (9669 - 70) * 10 / charTime 0 = 10 * 1 + 9) := by decide +kernel

/-- It is cut off in its first character, at the boundary to its second, and in its EOF, however late. -/
theorem witness_LineLevels_cutOff :
    (min ((669 - 70) / charTime 3) (9 - 1) = 0 ∧ min ((670 - 70) / charTime 3) (9 - 1) = 1
        ∧ min ((9000 - 70) / charTime 3) (9 - 1) = 8)
      ∧ (70 + 1 * charTime 3 ≤ 670 ∧ 1269 < 70 + (1 + 1) * charTime 3)
      ∧ ({ fetching70 with drops := fetching70.drops.set 3 { fetching70.dropUnit 3 with
          tx := fetching70.cutOff (fetching70.tx (.drop 3)) } } : State).tx (.drop 3)
        = fetching70.cutOff (fetching70.tx (.drop 3)) := by decide +kernel

/-- An IDLE drop whose transmitter still sends the ABT of a restart. -/
theorem witness_LineLevels_enable :
    ServiceLaw (ready.mapDrop 0 (fun x => { x with tx := .aborting 0x41#8 3 0 }))
      ∧ ((ready.mapDrop 0 (fun x => { x with tx := .aborting 0x41#8 3 0 })).dropUnit 0).line ≠ .sending
      ∧ ((ready.mapDrop 0 (fun x => { x with tx := .aborting 0x41#8 3 0 })).dropUnit 0).driverEnable = true
      ∧ ∃ t, exec (.coldReset 7) ready = .next t := by
  refine ⟨fun d => ?_, by decide +kernel, by decide +kernel, _, rfl⟩
  have h : ∀ d : DropId, ((ready.mapDrop 0 (fun x => { x with tx := .aborting 0x41#8 3 0 })).dropUnit d).line = .idle
      ∧ ((ready.mapDrop 0 (fun x => { x with tx := .aborting 0x41#8 3 0 })).dropUnit d).service = none
      ∧ ((ready.mapDrop 0 (fun x => { x with tx := .aborting 0x41#8 3 0 })).dropUnit d).tx
        = if d = 0 then .aborting 0x41#8 3 0 else .idle := by decide +kernel
  obtain ⟨h1, h2, h3⟩ := h d
  rw [h1, h2, h3]
  refine ⟨fun _ => rfl, fun h => ?_, fun it a h => ?_, fun h => ?_, fun h => ?_, fun ⟨_, _, _, h⟩ => ?_⟩
  · rcases h with h | h <;> cases h
  · cases h
  · cases h
  · cases h
  · split at h <;> cases h

/-! ### The receivers -/

theorem witness_CharactersIgnored_trunk :
    (characterOf (.eofReceived ⟨.trunk, 0⟩) = some (⟨.trunk, 0⟩, 0xD5#8) ∧ 0xD5#8 ≠ codeSof ∧ ready.trunk.rx.state = .hunt)
      ∧ (discarding.trunk.rx.state = .discard ∧ 0xD5#8 ≠ codeAbt ∧ discarding.trunk.rx.state ≠ .assemble) := by
  decide +kernel

theorem witness_CharactersIgnored_drop :
    (characterOf (.sofReceived ⟨.drop 3, 0⟩) = some (⟨.drop 3, 0⟩, codeSof)
        ∧ (State.inLine ready 3 .enabled .sending).dropUnit 3 = { ready.dropUnit 3 with line := .sending })
      ∧ ((State.inLine ready 3 .enabled .fault).dropUnit 3).line = .fault
      ∧ ((ready.dropUnit 3).rx.state = .hunt ∧ codeAbt ≠ codeSof) := by decide +kernel

theorem witness_DropLineLevel :
    ((ready.dropUnit 3).breakSince = none ∧ (ready.dropUnit 3).rxSpace = false ∧ (ready.dropUnit 3).rx.state = .hunt)
      ∧ ((ready.mapDrop 3 (fun x => { x with rxSpace := true })).dropUnit 3).rxSpace = true
      ∧ ((ready.mapDrop 3 (fun x => { x with rxSpace := true })).dropUnit 3).rx.state = .hunt
      ∧ ((ready.mapDrop 3 (fun x => { x with rxSpace := true, rx := Receiver.emptied .discard })).dropUnit 3).rx.state
        = .discard := by decide +kernel

theorem witness_SofReceived_outside :
    (ready.trunk.rx.state ≠ .assemble ∧ (State.withFree ready 5).pool.free = 0 :: [1, 2, 3, 4]
        ∧ 4 < (State.withFree ready 5).pool.free.length)
      ∧ (State.withFree ready 4).pool.free.length ≤ 4
      ∧ ((ready.dropUnit 3).rx.state ≠ .assemble ∧ (ready.dropUnit 3).line ≠ .sending
        ∧ (ready.dropUnit 3).line ≠ .disabled ∧ (ready.dropUnit 3).line ≠ .fault
        ∧ (State.withFree ready 1).pool.free = 0 :: []) := by decide +kernel

theorem witness_SofReceived_inside :
    TrunkAssembles (State.onTrunk ready [0x21#8]) 0
      ∧ (DropAssembles (State.onDrop (onLine .awaiting .listening) 0 .receiving [0x00#8]) 0 0
        ∧ ¬ ExpiryWaits (State.onDrop (onLine .awaiting .listening) 0 .receiving [0x00#8]) 0)
      ∧ (DropAssembles (State.expiryHeld (State.onDrop (onLine .awaiting .listening) 0 .receiving [0x00#8])) 0 0
        ∧ ExpiryWaits (State.expiryHeld (State.onDrop (onLine .awaiting .listening) 0 .receiving [0x00#8])) 0) := by
  unfold TrunkAssembles DropAssembles ExpiryWaits; decide +kernel

theorem witness_FrameFilled :
    (TrunkAssembles (State.onTrunk ready (List.replicate 246 0x07#8)) 0
        ∧ (State.onTrunk ready (List.replicate 246 0x07#8)).trunk.rx.count < 247
        ∧ StandsFor (State.onTrunk ready (List.replicate 246 0x07#8)).trunk.rx 0x08#8 0x08#8)
      ∧ StandsFor { assembling [] with escape := true } 0xF5#8 0xD5#8
      ∧ (DropAssembles (State.onDrop ready 2 .receiving [0x00#8]) 2 0
        ∧ ((State.onDrop ready 2 .receiving [0x00#8]).dropUnit 2).rx.count < 247
        ∧ StandsFor ((State.onDrop ready 2 .receiving [0x00#8]).dropUnit 2).rx 0x08#8 0x08#8
        ∧ ((State.onDrop ready 2 .receiving [0x00#8]).dropUnit 2).rx.escape = false) := by
  unfold TrunkAssembles DropAssembles StandsFor; decide +kernel

/-- What spoils a frame: a framing error, a malformed escape, an EOF after ESC, a 248th content byte. -/
theorem witness_FrameSpoiled_causes :
    SpoilsFrame (.framingError ⟨.trunk, 0⟩) ⟨.trunk, 0⟩ (assembling [])
      ∧ SpoilsFrame (.contentCharacter ⟨.trunk, 0⟩ 0x41#8) ⟨.trunk, 0⟩ { assembling [] with escape := true }
      ∧ SpoilsFrame (.eofReceived ⟨.trunk, 0⟩) ⟨.trunk, 0⟩ { assembling [] with escape := true }
      ∧ SpoilsFrame (.contentCharacter ⟨.trunk, 0⟩ 0x41#8) ⟨.trunk, 0⟩ (assembling (List.replicate 247 0x07#8)) :=
  ⟨.inl rfl, .inr ⟨0x41#8, rfl, .inl (by decide +kernel)⟩, .inr ⟨0xD5#8, rfl, .inl (by decide +kernel)⟩,
    .inr ⟨0x41#8, rfl, .inr ⟨by decide +kernel, 0x41#8, .inl (by decide +kernel)⟩⟩⟩

theorem witness_FrameSpoiled :
    (TrunkAssembles (State.onTrunk ready [0x21#8]) 0 ∧ SpoilsFrame (.framingError ⟨.trunk, 0⟩) ⟨.trunk, 0⟩ (assembling [0x21#8]))
      ∧ (DropAssembles (State.onDrop (onLine .awaiting .listening) 0 .receiving [0x00#8]) 0 0
        ∧ ¬ ExpiryWaits (State.onDrop (onLine .awaiting .listening) 0 .receiving [0x00#8]) 0
        ∧ SpoilsFrame (.framingError ⟨.drop 0, 0⟩) ⟨.drop 0, 0⟩ (assembling [0x00#8]))
      ∧ (DropAssembles (State.expiryHeld (State.onDrop (onLine .awaiting .listening) 0 .receiving [0x00#8])) 0 0
        ∧ ExpiryWaits (State.expiryHeld (State.onDrop (onLine .awaiting .listening) 0 .receiving [0x00#8])) 0) := by
  refine ⟨⟨?_, .inl rfl⟩, ⟨?_, ?_, .inl rfl⟩, ?_⟩ <;>
    simp only [TrunkAssembles, DropAssembles, ExpiryWaits] <;> decide +kernel

/-- An ABT, a break whose fall was reported or was not, and the gap limit, a window expiry held or not. -/
theorem witness_FrameAbandoned :
    (TrunkAssembles (State.onTrunk ready [0x21#8]) 0 ∧ (State.onTrunk ready [0x21#8]).trunk.rx.gap = some 12000)
      ∧ discarding.trunk.rx.state = .discard
      ∧ (DropAssembles (State.onDrop (onLine .awaiting .listening) 0 .receiving [0x00#8]) 0 0
        ∧ ¬ ExpiryWaits (State.onDrop (onLine .awaiting .listening) 0 .receiving [0x00#8]) 0
        ∧ ((State.onDrop (onLine .awaiting .listening) 0 .receiving [0x00#8]).dropUnit 0).rx.gap = some 12000
        ∧ ((State.onDrop (onLine .awaiting .listening) 0 .receiving [0x00#8]).dropUnit 0).rxSpace = false
        ∧ (((State.onDrop (onLine .awaiting .listening) 0 .receiving [0x00#8]).mapDrop 0
          (fun x => { x with rxSpace := true })).dropUnit 0).rxSpace = true)
      ∧ (DropAssembles (State.expiryHeld (State.onDrop (onLine .awaiting .listening) 0 .receiving [0x00#8])) 0 0
        ∧ ExpiryWaits (State.expiryHeld (State.onDrop (onLine .awaiting .listening) 0 .receiving [0x00#8])) 0)
      ∧ (((State.inLine ready 0 .enabled .guard).mapDrop 0 (fun x => { x with rx := Receiver.emptied .discard })).dropUnit
          0).rx.state = .discard := by
  simp only [TrunkAssembles, DropAssembles, ExpiryWaits]; decide +kernel

/-- A content of 6 bytes is too short to be a frame (R14). -/
theorem witness_BadFrameDropped :
    (TrunkAssembles (State.onTrunk ready (List.replicate 6 0x21#8)) 0
        ∧ (State.onTrunk ready (List.replicate 6 0x21#8)).trunk.rx.escape = false
        ∧ validFrame (((State.onTrunk ready (List.replicate 6 0x21#8)).content 0).take 6) = false
        ∧ (State.onTrunk ready (List.replicate 6 0x21#8)).trunk.rx.count = 6)
      ∧ (DropAssembles (State.onDrop ready 0 .idle (List.replicate 6 0x21#8)) 0 0
        ∧ ¬ ExpiryWaits (State.onDrop ready 0 .idle (List.replicate 6 0x21#8)) 0
        ∧ ((State.onDrop ready 0 .idle (List.replicate 6 0x21#8)).dropUnit 0).rx.escape = false
        ∧ validFrame (((State.onDrop ready 0 .idle (List.replicate 6 0x21#8)).content 0).take 6) = false)
      ∧ (DropAssembles (State.expiryHeld (State.onDrop (onLine .awaiting .listening) 0 .receiving
          (List.replicate 6 0x21#8))) 0 0
        ∧ ExpiryWaits (State.expiryHeld (State.onDrop (onLine .awaiting .listening) 0 .receiving
          (List.replicate 6 0x21#8))) 0
        ∧ ((State.expiryHeld (State.onDrop (onLine .awaiting .listening) 0 .receiving
          (List.replicate 6 0x21#8))).dropUnit 0).rx.escape = false
        ∧ validFrame (((State.expiryHeld (State.onDrop (onLine .awaiting .listening) 0 .receiving
          (List.replicate 6 0x21#8))).content 0).take 6) = false) := by
  simp only [TrunkAssembles, DropAssembles, ExpiryWaits]; decide +kernel

/-! ### The pool -/

theorem witness_PoolOperations :
    (State.withFree ready 0).pool.free = [] ∧ (State.withFree ready 1).pool.free = 0 :: []
      ∧ (Pool.cold.held 3 [0x07#8] 1).buffers[(3 : BufId)] = some { content := [0x07#8], count := 1 }
      ∧ (Pool.cold.held 3 [0x07#8] 2).buffers[(3 : BufId)] = some { content := [0x07#8], count := 2 } := by
  decide +kernel

/-! ### Trunk arrival -/

/-- Its four causes: a wrong SRC, another KIND, a NOTICE to the own address, a REQUEST to 0xFF. -/
theorem witness_FramesDiscarded_foreign :
    (TrunkFrameEnds (State.onTrunk ready (frame 0x23#8 0x05#8 0x10#8 0x30#8 [])) 0 (frame 0x23#8 0x05#8 0x10#8 0x30#8 [])
        ∧ srcOf (frame 0x23#8 0x05#8 0x10#8 0x30#8 []) ≠ 0x00#8)
      ∧ (TrunkFrameEnds (State.onTrunk ready (word 0x23#8 0x12#8)) 0 (word 0x23#8 0x12#8)
        ∧ kindOf (word 0x23#8 0x12#8) ≠ 0x10#8 ∧ kindOf (word 0x23#8 0x12#8) ≠ 0x11#8)
      ∧ (TrunkFrameEnds (State.onTrunk ready (word 0xEF#8 0x11#8)) 0 (word 0xEF#8 0x11#8)
        ∧ kindOf (word 0xEF#8 0x11#8) = 0x11#8 ∧ destOf (word 0xEF#8 0x11#8) = ready.settings.ownAddress)
      ∧ (TrunkFrameEnds (State.onTrunk ready (word 0xFF#8 0x10#8)) 0 (word 0xFF#8 0x10#8)
        ∧ kindOf (word 0xFF#8 0x10#8) = 0x10#8 ∧ destOf (word 0xFF#8 0x10#8) = 0xFF#8
        ∧ ready.settings.ownAddress ≠ 0xFF#8) := by
  refine ⟨⟨trunk_ends _ _ ?_, ?_⟩, ⟨trunk_ends _ _ ?_, ?_⟩, ⟨trunk_ends _ _ ?_, ?_⟩, trunk_ends _ _ ?_, ?_⟩ <;>
    decide +kernel

/-- Its three boundaries: 0x00, 0xF0, 0xFE. -/
theorem witness_FramesDiscarded_invalid :
    (TrunkFrameEnds (State.onTrunk ready (word 0x00#8 0x10#8)) 0 (word 0x00#8 0x10#8)
        ∧ srcOf (word 0x00#8 0x10#8) = 0x00#8 ∧ destOf (word 0x00#8 0x10#8) = 0x00#8
        ∧ destOf (word 0x00#8 0x10#8) ≠ ready.settings.ownAddress)
      ∧ (TrunkFrameEnds (State.onTrunk ready (word 0xF0#8 0x11#8)) 0 (word 0xF0#8 0x11#8)
        ∧ 0xF0 ≤ (destOf (word 0xF0#8 0x11#8)).toNat)
      ∧ (TrunkFrameEnds (State.onTrunk ready (word 0xFE#8 0x10#8)) 0 (word 0xFE#8 0x10#8)
        ∧ (destOf (word 0xFE#8 0x10#8)).toNat ≤ 0xFE) := by
  refine ⟨⟨trunk_ends _ _ ?_, ?_⟩, ⟨trunk_ends _ _ ?_, ?_⟩, trunk_ends _ _ ?_, ?_⟩ <;> decide +kernel

/-- Boundary station addresses 0x01 and 0xEE, with no entry, refused or discarded. -/
theorem witness_DestinationNotServed_unknown :
    (TrunkFrameEnds (State.onTrunk ready (word 0x01#8 0x10#8)) 0 (word 0x01#8 0x10#8)
        ∧ StationFrame (State.onTrunk ready (word 0x01#8 0x10#8)) (word 0x01#8 0x10#8) 0x10#8
        ∧ ready.image.config ≠ .loading ∧ ready.station (destOf (word 0x01#8 0x10#8)) = none
        ∧ ready.settings.refuseUnknown = true)
      ∧ (TrunkFrameEnds (State.onTrunk ready (word 0xEE#8 0x11#8)) 0 (word 0xEE#8 0x11#8)
        ∧ StationFrame (State.onTrunk ready (word 0xEE#8 0x11#8)) (word 0xEE#8 0x11#8) 0x11#8) := by
  refine ⟨⟨trunk_ends _ _ ?_, ?_⟩, trunk_ends _ _ ?_, ?_⟩ <;> (try simp only [StationFrame]) <;> decide +kernel

theorem witness_DestinationNotServed_loading :
    (TrunkFrameEnds (State.onTrunk State.reset (word 0x01#8 0x10#8)) 0 (word 0x01#8 0x10#8)
        ∧ StationFrame (State.onTrunk State.reset (word 0x01#8 0x10#8)) (word 0x01#8 0x10#8) 0x10#8
        ∧ (State.onTrunk State.reset (word 0x01#8 0x10#8)).image.config = .loading)
      ∧ (TrunkFrameEnds (State.onTrunk State.reset (word 0xEE#8 0x11#8)) 0 (word 0xEE#8 0x11#8)
        ∧ StationFrame (State.onTrunk State.reset (word 0xEE#8 0x11#8)) (word 0xEE#8 0x11#8) 0x11#8)
      ∧ (TrunkFrameEnds (State.onTrunk State.reset (word 0xFF#8 0x11#8)) 0 (word 0xFF#8 0x11#8)
        ∧ LoadingLaw (State.onTrunk State.reset (word 0xFF#8 0x11#8)) ∧ srcOf (word 0xFF#8 0x11#8) = 0x00#8
        ∧ kindOf (word 0xFF#8 0x11#8) = 0x11#8 ∧ destOf (word 0xFF#8 0x11#8) = 0xFF#8) := by
  refine ⟨⟨trunk_ends _ _ ?_, ?_⟩, ⟨trunk_ends _ _ ?_, ?_⟩, trunk_ends _ _ ?_, ?_⟩ <;>
    (try simp only [StationFrame, LoadingLaw]) <;> decide +kernel

/-- A frame of a kind for 0x23 that the trunk receiver is about to hand over. -/
def Offered (s : State) (kind : Byte) : Prop :=
  TrunkFrameEnds (State.onTrunk s (word 0x23#8 kind)) 0 (word 0x23#8 kind)
    ∧ StationFrame (State.onTrunk s (word 0x23#8 kind)) (word 0x23#8 kind) kind
    ∧ (State.onTrunk s (word 0x23#8 kind)).image.config ≠ .loading
    ∧ (State.onTrunk s (word 0x23#8 kind)).station (destOf (word 0x23#8 kind)) = some poll

theorem offered (s : State) (kind : Byte) (h : validFrame (word 0x23#8 kind) = true
    ∧ srcOf (word 0x23#8 kind) = 0x00#8 ∧ kindOf (word 0x23#8 kind) = kind
    ∧ destOf (word 0x23#8 kind) ≠ s.settings.ownAddress ∧ stationAddress (destOf (word 0x23#8 kind)) = true
    ∧ s.image.config ≠ .loading ∧ s.station (destOf (word 0x23#8 kind)) = some poll) : Offered s kind :=
  ⟨trunk_ends _ _ h.1, ⟨h.2.1, h.2.2.1, h.2.2.2.1, h.2.2.2.2.1⟩, h.2.2.2.2.2.1, h.2.2.2.2.2.2⟩

theorem witness_AdmissionRefused_tests :
    (Offered (State.inLine ready 0 .disabled .disabled) 0x10#8
        ∧ ((State.inLine ready 0 .disabled .disabled).dropUnit poll.drop).mode = .disabled)
      ∧ (Offered (State.inLine ready 0 .enabled .fault) 0x10#8
        ∧ ((State.inLine ready 0 .enabled .fault).dropUnit poll.drop).mode = .enabled
        ∧ ((State.inLine ready 0 .enabled .fault).dropUnit poll.drop).line = .fault)
      ∧ (Offered (onLine .awaiting .listening) 0x10#8
        ∧ ((onLine .awaiting .listening).dropUnit poll.drop).mode = .enabled
        ∧ ((onLine .awaiting .listening).dropUnit poll.drop).line ≠ .fault
        ∧ ∃ t e, (onLine .awaiting .listening).exchange t = some e ∧ e.station = destOf (word 0x23#8 0x10#8)) := by
  refine ⟨⟨offered _ _ ?_, ?_⟩, ⟨offered _ _ ?_, ?_⟩, offered _ _ ?_, ?_, ?_, 0, pollExchange .awaiting, ?_⟩ <;>
    decide +kernel

/-- The boundary of the liveness test with a ratio of 8: a probe count of 7 probes, one of 6 fails fast. -/
theorem witness_AdmissionRefused_liveness :
    poll.liveness ≠ .down ∧ (∃ st, (downAt 7).station 0x52#8 = some st ∧ st.liveness = .down ∧ 8 - 1 ≤ st.probe)
      ∧ ∃ st, (downAt 6).station 0x52#8 = some st ∧ st.liveness = .down ∧ st.probe < 8 - 1 :=
  ⟨by decide +kernel, ⟨{ slow with miss := 3, liveness := .down, probe := 7 }, by decide +kernel⟩,
    { slow with miss := 3, liveness := .down, probe := 6 }, by decide +kernel⟩

/-- A REQUEST to 0x23 that comes as far as the liveness test. -/
def OfferedLate (s : State) : Prop :=
  TrunkFrameEnds (State.onTrunk s (word 0x23#8 0x10#8)) 0 (word 0x23#8 0x10#8)
    ∧ MeetsLiveness (State.onTrunk s (word 0x23#8 0x10#8)) (word 0x23#8 0x10#8) poll
    ∧ poll.livenessTest s.settings.probeRatio ≠ .fastFail

theorem offered_late (s : State) (h : validFrame (word 0x23#8 0x10#8) = true
    ∧ srcOf (word 0x23#8 0x10#8) = 0x00#8 ∧ kindOf (word 0x23#8 0x10#8) = 0x10#8
    ∧ destOf (word 0x23#8 0x10#8) ≠ s.settings.ownAddress ∧ stationAddress (destOf (word 0x23#8 0x10#8)) = true
    ∧ s.image.config ≠ .loading ∧ s.station (destOf (word 0x23#8 0x10#8)) = some poll)
    (hd : (s.dropUnit poll.drop).mode = .enabled ∧ (s.dropUnit poll.drop).line ≠ .fault
      ∧ poll.livenessTest s.settings.probeRatio ≠ .fastFail)
    (ho : ∀ t : Tag, (s.exchange t).all (fun e => decide (e.station ≠ destOf (word 0x23#8 0x10#8))) = true) :
    OfferedLate s :=
  have o := offered s _ h
  ⟨o.1, ⟨o.2.1, o.2.2.1, o.2.2.2, hd.1, hd.2.1, fun t e he => of_decide_eq_true (all_open (s := s) ho t e he)⟩, hd.2.2⟩

/-- Every record open; and one free with the queue full. -/
theorem witness_AdmissionRefused_late :
    (OfferedLate (State.exhausted ready) ∧ ∀ t : Tag, ((State.exhausted ready).exchange t).isSome = true)
      ∧ (OfferedLate (State.queueOf ready 0 (noticeItems 4))
        ∧ (State.queueOf ready 0 (noticeItems 4)).exchange 15 = none
        ∧ 4 ≤ ((State.queueOf ready 0 (noticeItems 4)).dropUnit poll.drop).queue.length) := by
  refine ⟨⟨offered_late _ ?_ ?_ ?_, ?_⟩, offered_late _ ?_ ?_ ?_, ?_⟩ <;> decide +kernel

/-- Station 0x52 DOWN at a probe count of 6 fails fast with a ratio of 8; at 7 its request is the probe. -/
theorem witness_FastFail (p : Nat) (hp : p = 6 ∨ p = 7) :
    TrunkFrameEnds (State.onTrunk (downAt p) (word 0x52#8 0x10#8)) 0 (word 0x52#8 0x10#8)
      ∧ MeetsLiveness (State.onTrunk (downAt p) (word 0x52#8 0x10#8)) (word 0x52#8 0x10#8)
          { slow with miss := 3, liveness := .down, probe := p }
      ∧ ({ slow with miss := 3, liveness := .down, probe := p } : Station).liveness = .down
      ∧ (p < (downAt p).settings.probeRatio - 1 ↔ p = 6) := by
  refine ⟨trunk_ends _ _ (by decide +kernel), ⟨?_, ?_, ?_, ?_, ?_, ?_⟩, rfl, ?_⟩
  · simp only [StationFrame]; rcases hp with rfl | rfl <;> decide +kernel
  · rcases hp with rfl | rfl <;> decide +kernel
  · rcases hp with rfl | rfl <;> decide +kernel
  · rcases hp with rfl | rfl <;> decide +kernel
  · rcases hp with rfl | rfl <;> decide +kernel
  · intro t e he
    have h := all_open (s := downAt 0) (p := fun _ => false) (by decide +kernel) t e he
    cases h
  · rcases hp with rfl | rfl <;> decide +kernel

/-- Tag 0 open for 0x77, so that the lowest FREE tag is 1; the queue has room for one. -/
def oneOpen : State :=
  { State.queueOf ready 0 (noticeItems 3) with
    exchanges := ready.exchanges.set 0 (some { pollExchange .deferred with station := 0x77#8, drop := 1 }) }

theorem witness_ExchangeOpened :
    (OfferedLate oneOpen ∧ oneOpen.exchange 1 = none ∧ (∀ u : Tag, u < 1 → (oneOpen.exchange u).isSome = true)
        ∧ (oneOpen.dropUnit poll.drop).queue.length < 4)
      ∧ ∀ x ∈ noticeItems 3, x.cls = .routine := by
  refine ⟨⟨offered_late _ ?_ ?_ ?_, ?_⟩, ?_⟩ <;> decide +kernel

theorem witness_NoticesQueued :
    (Offered (State.queueOf ready 0 (noticeItems 3)) 0x11#8
        ∧ ((State.queueOf ready 0 (noticeItems 3)).dropUnit poll.drop).mode = .enabled
        ∧ ((State.queueOf ready 0 (noticeItems 3)).dropUnit poll.drop).line ≠ .fault
        ∧ ((State.queueOf ready 0 (noticeItems 3)).dropUnit poll.drop).queue.length < 4)
      ∧ (Offered (State.queueOf ready 0 (noticeItems 4)) 0x11#8
        ∧ 4 ≤ ((State.queueOf ready 0 (noticeItems 4)).dropUnit poll.drop).queue.length)
      ∧ (Offered (State.inLine ready 0 .disabled .sending) 0x11#8
        ∧ ((State.inLine ready 0 .disabled .sending).dropUnit poll.drop).mode = .disabled)
      ∧ (Offered (State.inLine ready 0 .enabled .fault) 0x11#8
        ∧ ((State.inLine ready 0 .enabled .fault).dropUnit poll.drop).line = .fault) := by
  refine ⟨⟨offered _ _ ?_, ?_⟩, ⟨offered _ _ ?_, ?_⟩, ⟨offered _ _ ?_, ?_⟩, offered _ _ ?_, ?_⟩ <;> decide +kernel

/-- A broadcast to three drops: one takes it, one has no room, one is in FAULT; the fourth is DISABLED. -/
theorem witness_NoticesQueued_broadcast :
    (TrunkFrameEnds (State.onTrunk ready (word 0xFF#8 0x11#8)) 0 (word 0xFF#8 0x11#8)
        ∧ srcOf (word 0xFF#8 0x11#8) = 0x00#8 ∧ kindOf (word 0xFF#8 0x11#8) = 0x11#8
        ∧ destOf (word 0xFF#8 0x11#8) = 0xFF#8 ∧ ready.settings.ownAddress ≠ 0xFF#8)
      ∧ ((ready.dropUnit 0).mode = .enabled ∧ (ready.dropUnit 0).line ≠ .fault ∧ (ready.dropUnit 0).line ≠ .disabled
        ∧ (ready.dropUnit 0).queue.length < 4)
      ∧ 4 ≤ ((State.queueOf ready 1 (noticeItems 4)).dropUnit 1).queue.length
      ∧ ((State.inLine ready 2 .enabled .fault).dropUnit 2).line = .fault
      ∧ ((State.inLine ready 3 .disabled .disabled).dropUnit 3).mode = .disabled := by
  refine ⟨⟨trunk_ends _ _ ?_, ?_⟩, ?_⟩ <;> decide +kernel

/-! ### Drop replies and closures -/

/-- The reply of line address 0x03, ANSWER or DEFER. -/
def reply (kind : Byte) : List Byte := frame 0x00#8 0x03#8 kind 0x30#8 [0x01#8]

/-- Drop 0 receives the reply to an exchange of 0x23, a station that may defer. -/
def replying (e : Exchange) (c : List Byte) : State :=
  State.onDrop (State.serving { ready with stations := [{ poll with deferral := true }, slow] } e .listening) 0 .receiving c

/-- The reply is a match. -/
theorem matches_reply (e : Exchange) (kind : Byte) (he : e.station = 0x23#8 ∧ e.seq = 0x30#8 ∧ e.drop = 0)
    (hk : srcOf (reply kind) = 0x03#8 ∧ destOf (reply kind) = 0x00#8 ∧ seqOf (reply kind) = 0x30#8
      ∧ (kindOf (reply kind) = 0x20#8 ∨ kindOf (reply kind) = 0x21#8)) :
    Matches (replying e (reply kind)) 0 (reply kind) 0 e { poll with deferral := true } := by
  obtain ⟨h1, h2, h3⟩ := he
  obtain ⟨k1, k2, k3, k4⟩ := hk
  refine ⟨rfl, rfl, rfl, ?_, k1, k2, ?_, ?_⟩
  · rw [h1]; rfl
  · rw [h2, k3]
  · exact k4.imp id (fun h => ⟨h, rfl⟩)

theorem witness_ReplyMatched_answer :
    DropFrameEnds (replying (pollExchange .awaiting) (reply 0x20#8)) 0 0 (reply 0x20#8)
      ∧ Matches (replying (pollExchange .awaiting) (reply 0x20#8)) 0 (reply 0x20#8) 0 (pollExchange .awaiting)
        { poll with deferral := true }
      ∧ kindOf (reply 0x20#8) = 0x20#8 ∧ (pollExchange .awaiting).drop = 0 ∧ (pollExchange .awaiting).inService = true
      ∧ (pollExchange .awaiting).buffer ≠ 0
      ∧ (replying (pollExchange .awaiting) (reply 0x20#8)).pool.buffers[(5 : BufId)]
        = some { content := pollRequest, count := 2 } := by
  refine ⟨drop_ends _ _ _ _ ?_ ?_ ?_ ?_, matches_reply _ _ ?_ ?_, ?_⟩ <;> decide +kernel

/-- Cancelled; FETCHING with as many fetches as its limit, and one fewer; AWAITING. -/
theorem witness_ReplyMatched_defer :
    DropFrameEnds (replying (pollExchange .awaiting) (reply 0x21#8)) 0 0 (reply 0x21#8)
      ∧ (∀ e, e = { pollExchange .awaiting with cancelPending := true } ∨ e = pollExchange .awaiting
          ∨ e = { pollExchange .fetching with fetches := 2, limit := some 2 }
          ∨ e = { pollExchange .fetching with fetches := 1, limit := some 2 } →
        Matches (replying e (reply 0x21#8)) 0 (reply 0x21#8) 0 e { poll with deferral := true })
      ∧ ({ pollExchange .fetching with fetches := 2, limit := some 2 } : Exchange).limit.getD 0 ≤ 2
      ∧ 1 < ({ pollExchange .fetching with fetches := 1, limit := some 2 } : Exchange).limit.getD 0 := by
  refine ⟨drop_ends _ _ _ _ ?_ ?_ ?_ ?_, fun e he => matches_reply _ _ ?_ ?_, ?_⟩
  · decide +kernel
  · decide +kernel
  · decide +kernel
  · decide +kernel
  · rcases he with rfl | rfl | rfl | rfl <;> decide +kernel
  · decide +kernel
  · decide +kernel

/-- In GUARD nothing matches; in RECEIVING a frame of another SEQ does not, whether an expiry waits or not. -/
theorem witness_StrayDropped :
    (∀ t e st, ¬ Matches (State.onDrop ready 0 .guard (reply 0x20#8)) 0 (reply 0x20#8) t e st)
      ∧ DropFrameEnds (State.onDrop ready 0 .guard (reply 0x20#8)) 0 0 (reply 0x20#8)
      ∧ (∀ t e st, ¬ Matches (State.expiryHeld (replying { pollExchange .awaiting with seq := 0x31#8 } (reply 0x20#8))) 0
          (reply 0x20#8) t e st)
      ∧ ExpiryWaits (State.expiryHeld (replying { pollExchange .awaiting with seq := 0x31#8 } (reply 0x20#8))) 0
      ∧ ¬ ExpiryWaits (replying { pollExchange .awaiting with seq := 0x31#8 } (reply 0x20#8)) 0
      ∧ DropFrameEnds (replying { pollExchange .awaiting with seq := 0x31#8 } (reply 0x20#8)) 0 0 (reply 0x20#8) := by
  refine ⟨?_, drop_ends _ _ _ _ ?_ ?_ ?_ ?_, ?_, ?_, ?_, drop_ends _ _ _ _ ?_ ?_ ?_ ?_⟩
  · intro t e st h
    have := h.1
    revert this
    decide +kernel
  · decide +kernel
  · decide +kernel
  · decide +kernel
  · decide +kernel
  · intro t e st ⟨_, _, he, _, _, _, hq, _⟩
    have h := all_open (p := fun e => decide (e.seq = 0x31#8)) (by decide +kernel) t e he
    have hs : e.seq = 0x31#8 := of_decide_eq_true h
    rw [hs] at hq
    revert hq
    decide +kernel
  · simp only [ExpiryWaits]; decide +kernel
  · simp only [ExpiryWaits]; decide +kernel
  · decide +kernel
  · decide +kernel
  · decide +kernel
  · decide +kernel

/-- Miss counts at the threshold, below it and 0; counts at their ends; an exchange on the line, queued and deferred. -/
theorem witness_ClosureWithoutAnswer :
    ((0 < 2 ∧ 2 < 3) ∧ (0 < 3 ∧ 3 ≤ 3))
      ∧ (({ slow with miss := 15, failed := 65535 } : Station).miss ≤ 15
        ∧ ({ slow with miss := 15, failed := 65535 } : Station).failed ≤ 65535)
      ∧ ((onLine .awaiting .listening).exchange 0 = some (pollExchange .awaiting)
        ∧ (onLine .awaiting .listening).pool.buffers[(5 : BufId)] = some { content := pollRequest, count := 2 })
      ∧ ((State.offTheLine ready .deferred).exchange 0 = some { pollExchange .deferred with dueSince := some 3 }
        ∧ (State.offTheLine ready .deferred).pool.buffers[(5 : BufId)] = some { content := pollRequest, count := 1 }) := by
  decide +kernel

/-! ### A drop's work -/

/-- Drop 0 is IDLE with the exchange of 0x23 FETCH DUE, its queue and alternation flag as given. -/
def due (q : List Item) (flag : Alternation) : State :=
  (State.offTheLine ready .fetchDue).mapDrop 0 (fun x => { x with queue := q, alternation := flag })

theorem witness_WorkChosen_candidate :
    (due [] .queue).fetchCandidate 0 = some 0 ∧ ready.fetchCandidate 0 = none := by decide +kernel

theorem witness_WorkChosen_choice :
    (((onLine .awaiting .listening).dropUnit 0).line ≠ .idle
        ∧ ((ready.mapDrop 0 (fun x => { x with tx := .aborting 0x41#8 3 0 })).dropUnit 0).tx ≠ .idle)
      ∧ ((ready.dropUnit 0).line = .idle ∧ (ready.dropUnit 0).tx = .idle ∧ ready.fetchCandidate 0 = none
        ∧ (ready.dropUnit 0).queue = [])
      ∧ ((State.queueOf ready 0 (noticeItems 2)).fetchCandidate 0 = none
        ∧ ((State.queueOf ready 0 (noticeItems 2)).dropUnit 0).queue
          = { work := .notice 0xFF#8, cls := .routine, buffer := 7 } :: noticeItems 1)
      ∧ ((due [] .fetch).fetchCandidate 0 = some 0 ∧ ((due [] .fetch).dropUnit 0).queue = []
        ∧ ((due [] .fetch).dropUnit 0).line = .idle ∧ ((due [] .fetch).dropUnit 0).tx = .idle)
      ∧ ((due (noticeItems 1) .queue).fetchCandidate 0 = some 0
        ∧ ((due (noticeItems 1) .queue).dropUnit 0).alternation = .queue)
      ∧ ((due (noticeItems 1) .fetch).fetchCandidate 0 = some 0
        ∧ ((due (noticeItems 1) .fetch).dropUnit 0).queue
          = { work := .notice 0xFF#8, cls := .routine, buffer := 7 } :: []
        ∧ ((due (noticeItems 1) .fetch).dropUnit 0).alternation = .fetch) := by decide +kernel

/-- Drop 0 with a pending rate of 7 beside its rate of 3, its receiver assembling. -/
def ratePending (rate : Rate) : State :=
  (State.onDrop ready 0 .guard [0x00#8]).mapDrop 0 (fun x => { x with pendingRate := some rate })

theorem witness_WorkChosen_rate :
    ((State.queueOf ready 0 (noticeItems 2)).dropUnit 0).pendingRate = none
      ∧ ((ratePending 3).dropUnit 0).pendingRate = some ((ratePending 3).dropUnit 0).rate
      ∧ (((State.queueOf (ratePending 7) 0 (noticeItems 2)).dropUnit 0).pendingRate = some 7
        ∧ (7 : Rate) ≠ ((State.queueOf (ratePending 7) 0 (noticeItems 2)).dropUnit 0).rate
        ∧ ((State.queueOf (ratePending 7) 0 (noticeItems 2)).dropUnit 0).rx.state = .assemble
        ∧ ((State.queueOf (ratePending 7) 0 (noticeItems 2)).dropUnit 0).rx.slot = some 0)
      ∧ ((ready.mapDrop 0 (fun x => { x with pendingRate := some 7 })).dropUnit 0).rx.state ≠ .assemble := by
  decide +kernel

theorem witness_WorkStarted :
    ((ready.dropUnit 0).rx.state ≠ .assemble ∧ ((State.onDrop ready 0 .guard [0x00#8]).dropUnit 0).rx.state = .assemble
        ∧ ((State.onDrop ready 0 .guard [0x00#8]).dropUnit 0).rx.slot = some 0)
      ∧ ((due [] .queue).exchange 0 = some { pollExchange .fetchDue with dueSince := some 3 }
        ∧ (due [] .queue).station 0x23#8 = some poll
        ∧ (due [] .queue).pool.buffers[(5 : BufId)] = some { content := pollRequest, count := 1 })
      ∧ ((State.serving ready (pollExchange .queued) .idle).pool.buffers[(5 : BufId)]
          = some { content := pollRequest, count := 2 }
        ∧ (State.serving ready (pollExchange .queued) .idle).exchange 0 = some (pollExchange .queued)
        ∧ (State.serving ready (pollExchange .queued) .idle).station 0x23#8 = some poll ∧ 0x23#8 ≠ 0xFF#8) := by
  decide +kernel

/-- The request, or the FETCH, of the exchange is being sent. -/
theorem witness_WindowOpened :
    (((State.sendingNow (onLine .sending .sending)).dropUnit 0).line = .sending
        ∧ ((State.sendingNow (onLine .sending .sending)).dropUnit 0).tx = .sending (.pool 5) 3 0
        ∧ ((State.sendingNow (onLine .sending .sending)).dropUnit 0).mode = .enabled
        ∧ ((State.sendingNow (onLine .sending .sending)).dropUnit 0).serving = some 0
        ∧ (State.sendingNow (onLine .sending .sending)).exchange 0 = some (pollExchange .sending)
        ∧ (pollExchange .sending).state ≠ .fetching ∧ (pollExchange .sending).removal = .none
        ∧ (State.sendingNow (onLine .sending .sending)).station (pollExchange .sending).station = some poll)
      ∧ (((State.sendingNow (onLine .fetching .sending)).dropUnit 0).serving = some 0
        ∧ (State.sendingNow (onLine .fetching .sending)).exchange 0 = some (pollExchange .fetching)
        ∧ ((State.sendingNow (onLine .fetching .sending)).dropUnit 0).tx = .sending (.pool 5) 3 0
        ∧ (pollExchange .fetching).state = .fetching ∧ (pollExchange .fetching).removal = .none) := by decide +kernel

/-- A notice in service and being sent. -/
def notifying : State :=
  ready.mapDrop 0 (fun x => { x with
    line := .sending, tx := .sending (.pool 7) 3 0
    service := some { work := .notice 0x23#8, cls := .routine, buffer := 7 } })

theorem witness_SendingEnded_notice :
    (notifying.dropUnit 0).line = .sending ∧ (notifying.dropUnit 0).tx = .sending (.pool 7) 3 0
      ∧ (notifying.dropUnit 0).service = some { work := .notice 0x23#8, cls := .routine, buffer := 7 }
      ∧ (notifying.dropUnit 0).mode = .enabled
      ∧ ((notifying.mapDrop 0 (fun x => { x with mode := .disabled })).dropUnit 0).mode = .disabled
      ∧ ((notifying.mapDrop 0 (fun x => { x with mode := .disabled })).dropUnit 0).line = .sending := by decide +kernel

/-- A forced removal waits for the EOF, a disable does, both do. -/
theorem witness_SendingEnded_exchange :
    (((State.sendingNow (State.serving ready { pollExchange .sending with removal := .waiting } .sending)).dropUnit 0).mode
          = .enabled
        ∧ (State.sendingNow (State.serving ready { pollExchange .sending with removal := .waiting } .sending)).exchange 0
          = some { pollExchange .sending with removal := .waiting }
        ∧ ((State.sendingNow (State.serving ready { pollExchange .sending with removal := .waiting } .sending)).dropUnit 0).tx
          = .sending (.pool 5) 3 0)
      ∧ ((State.inLine (State.sendingNow (State.serving ready { pollExchange .fetching with removal := .waiting } .sending)) 0
          .disabled .sending).dropUnit 0).mode = .disabled
      ∧ ((State.inLine (State.sendingNow (onLine .sending .sending)) 0 .disabled .sending).dropUnit 0).mode = .disabled
      ∧ (State.inLine (State.sendingNow (onLine .sending .sending)) 0 .disabled .sending).exchange 0
        = some (pollExchange .sending)
      ∧ (State.cutOffAt ready 70).trunk.tx = .aborting 0x41#8 0 70
      ∧ ((ready.mapDrop 0 (fun x => { x with tx := .aborting 0x41#8 3 0 })).dropUnit 0).tx = .aborting 0x41#8 3 0 := by
  decide +kernel

theorem witness_WindowExpires :
    (((onLine .awaiting .receiving).dropUnit 0).line = .receiving ∧ ((onLine .awaiting .receiving).dropUnit 0).serving = some 0
        ∧ (onLine .awaiting .receiving).exchange 0 = some (pollExchange .awaiting)
        ∧ (pollExchange .awaiting).deadline = some 11520)
      ∧ (((onLine .awaiting .listening).dropUnit 0).line = .listening
        ∧ ((onLine .awaiting .listening).dropUnit 0).serving = some 0
        ∧ (onLine .awaiting .listening).exchange 0 = some (pollExchange .awaiting))
      ∧ (onLine .awaiting .listening).station (pollExchange .awaiting).station = some poll
      ∧ ((ready.dropUnit 0).serving = none ∧ (pollExchange .awaiting).cancelPending = false
        ∧ (State.serving ready { pollExchange .awaiting with cancelPending := true } .guard).exchange 0
          = some { pollExchange .awaiting with cancelPending := true }) := by decide +kernel

/-- The boundary of the two clauses of an expiry taken: the guard time over at its last moment, or one unit short. -/
theorem witness_WindowExpires_guard :
    (({ onLine .awaiting .guard with now := 2400 } : State).dropUnit 0).line = .guard
      ∧ (({ onLine .awaiting .guard with now := 2400 } : State).dropUnit 0).lastChar
          + 4 * charTime (({ onLine .awaiting .guard with now := 2400 } : State).dropUnit 0).rate ≤ 2400
      ∧ 2399 < (({ onLine .awaiting .guard with now := 2399 } : State).dropUnit 0).lastChar
          + 4 * charTime (({ onLine .awaiting .guard with now := 2399 } : State).dropUnit 0).rate := by decide +kernel

theorem witness_GuardAndDeadline :
    (((onLine .awaiting .guard).dropUnit 0).line = .guard ∧ ((onLine .awaiting .guard).dropUnit 0).serving = some 0
        ∧ (onLine .awaiting .guard).exchange 0 = some (pollExchange .awaiting)
        ∧ (pollExchange .awaiting).cancelPending = false)
      ∧ (((State.inLine ready 0 .enabled .guard).dropUnit 0).line = .guard
        ∧ ((State.inLine ready 0 .enabled .guard).dropUnit 0).serving = none)
      ∧ ((State.serving ready { pollExchange .awaiting with cancelPending := true } .guard).exchange 0
          = some { pollExchange .awaiting with cancelPending := true })
      ∧ ((State.offTheLine ready .deferred).exchange 0 = some { pollExchange .deferred with dueSince := some 3 }
        ∧ (pollExchange .deferred).state = .deferred ∧ (pollExchange .deferred).deadline = some 11520) := by decide +kernel

theorem witness_FaultAndRecovery :
    (((ready.mapDrop 0 (fun x => { x with breakSince := some 0 })).dropUnit 0).breakSince = some 0
        ∧ ((ready.mapDrop 0 (fun x => { x with breakSince := some 0 })).dropUnit 0).line ≠ .sending
        ∧ ((ready.mapDrop 0 (fun x => { x with breakSince := some 0 })).dropUnit 0).line ≠ .fault
        ∧ ready.image.config ≠ .loading)
      ∧ (((ready.mapDrop 0 (fun x => { x with line := .fault, marking := .since 9 })).dropUnit 0).line = .fault
        ∧ ((ready.mapDrop 0 (fun x => { x with line := .fault, marking := .since 9 })).dropUnit 0).marking = .since 9
        ∧ ((ready.mapDrop 0 (fun x => { x with line := .fault, marking := .since 9 })).dropUnit 0).mode = .enabled)
      ∧ ((State.inLine ready 0 .disabled .fault).dropUnit 0).mode = .disabled := by decide +kernel

/-- Drop 0 with an exchange in service, one queued before a notice, one deferred. -/
def busy : State :=
  let s := State.serving ready (pollExchange .awaiting) .listening
  { s with
    pool := { ((s.pool.held 6 pollRequest 2).held 8 pollRequest 1).held 9 (word 0x23#8 0x11#8) 1 with
      free := s.pool.free.filter (fun b => b ≠ 6 ∧ b ≠ 8 ∧ b ≠ 9) }
    exchanges := (s.exchanges.set 1 (some { pollExchange .queued with station := 0x24#8, buffer := 6 })).set 2
      (some { pollExchange .deferred with station := 0x25#8, buffer := 8 })
    drops := s.drops.set 0 { s.dropUnit 0 with
      queue := [{ work := .exchange 1, cls := .routine, buffer := 6 }, { work := .notice 0x23#8, cls := .routine, buffer := 9 }]
      } }

theorem busy_work : WorkLaw busy := by
  simp only [WorkLaw, some_open]
  decide +kernel

/-- The law of the free list, as a test. -/
theorem pool_law {s : State} (h1 : s.pool.free.Nodup) (h2 : ∀ b : BufId, b ∈ s.pool.free ↔ s.pool.buffers[b] = none)
    (h3 : ∀ b : BufId, (s.pool.buffers[b]).all (fun x => decide (1 ≤ x.count)) = true) : PoolLaw s := by
  refine ⟨h1, h2, fun b x hx => ?_⟩
  have := h3 b
  rw [hx] at this
  exact of_decide_eq_true this

/-- The law of the request holds, as a test of the sixteen records. -/
theorem request_law {s : State} (h : ∀ t : Tag, (s.exchange t).all (fun e =>
    (decide (e.state = .queued) → (s.dropUnit e.drop).queue.any (fun it => it.work = .exchange t ∧ it.buffer = e.buffer))
      ∧ (e.inService → (s.dropUnit e.drop).service.any (fun it => it.work = .exchange t ∧ it.buffer = e.buffer))
      ∧ s.pool.count e.buffer = if e.state = .deferred ∨ e.state = .fetchDue then 1 else 2) = true) : RequestLaw s := by
  intro t e he
  have := h t
  rw [he] at this
  obtain ⟨h1, h2, h3⟩ := of_decide_eq_true this
  refine ⟨fun hq => ?_, fun hs => ?_, h3⟩
  · obtain ⟨it, hm, hi⟩ := List.any_eq_true.mp (h1 (decide_eq_true hq))
    exact ⟨it, hm, of_decide_eq_true hi⟩
  · have h4 := h2 hs
    match hv : (s.dropUnit e.drop).service with
    | none => rw [hv] at h4; cases h4
    | some it => rw [hv] at h4; exact ⟨it, rfl, of_decide_eq_true h4⟩

theorem busy_requests : RequestLaw busy := request_law (by decide +kernel)

theorem busy_pool : PoolLaw busy := pool_law (by decide +kernel) (by decide +kernel) (by decide +kernel)

theorem busy_holds : HoldLaw busy := by simp only [HoldLaw]; decide +kernel

theorem witness_WorkClosedInOrder :
    (WorkLaw busy ∧ PoolLaw busy ∧ HoldLaw busy ∧ RequestLaw busy) ∧ (busy.dropUnit 0).serving = some 0
      ∧ busy.endings 0 .removed .dropDisabled
        = [.close 0 .removed, .close 1 .dropDisabled, .discard 9, .close 2 .dropDisabled] :=
  ⟨⟨busy_work, busy_pool, busy_holds, busy_requests⟩, by decide +kernel, by decide +kernel⟩

/-! ### Upstream -/

/-- The upstream queues, the run counter, and whether station 0x52 is in the notice set. -/
def waiting (urgent routine : List BufId) (run : Nat) (notice : Bool) : State :=
  { ready with
    upstream := { ready.upstream with urgent := urgent, routine := routine, run := run }
    stations := [poll, { slow with noticePending := notice }] }

/-- The run counter at its limit of 4, and one below it. -/
theorem witness_ArbiterChoice :
    (State.cutOffAt ready 70).trunk.tx ≠ .idle
      ∧ ((waiting [1] [2] 4 true).upstream.routine ≠ [] ∧ (waiting [1] [2] 4 true).settings.urgentLimit ≤ 4
        ∧ (waiting [1] [2] 4 true).trunk.tx = .idle)
      ∧ (¬ ((waiting [1] [2] 3 true).settings.urgentLimit ≤ 3) ∧ (waiting [1] [2] 3 true).upstream.urgent = 1 :: [])
      ∧ ((waiting [] [2] 0 false).upstream.urgent = [] ∧ ∀ y ∈ (waiting [] [2] 0 false).stations, y.noticePending = false)
      ∧ (waiting [] [2] 3 true).upstream.urgent = []
      ∧ (∀ y ∈ (waiting [] [2] 3 true).stations, y.noticePending = true →
        ({ slow with noticePending := true } : Station).address.toNat ≤ y.address.toNat)
      ∧ (waiting [] [] 0 false).upstream.routine = [] := by decide +kernel

theorem witness_ArbiterChoice_shape : TableShape (waiting [] [2] 3 true) := by
  simp only [TableShape]; decide +kernel

/-- Buffer 0 is being sent, the slot as given, a trunk rate pending or not. -/
def sendingUp (slot : ReplaySlot) (rate : Option Rate) : State :=
  { State.withFrame ready [1#8] with
    trunk := { ready.trunk with tx := .sending (.pool 0) 0 0 }
    mgmt := { ready.mgmt with slot := slot, pendingRate := rate } }

theorem witness_TrunkFrameSent :
    (sendingUp .empty none).trunk.tx = .sending (.pool 0) 0 0
      ∧ ({ ready with trunk := { ready.trunk with tx := .sending .notice 0 0 } } : State).trunk.tx = .sending .notice 0 0
      ∧ (sendingUp .empty none).mgmt.slot.buffer ≠ some 0
      ∧ ((sendingUp (.held 0x07#8 0) none).mgmt.slot = .held 0x07#8 0
        ∧ (sendingUp (.held 0x07#8 0) none).mgmt.pendingRate = none)
      ∧ ((sendingUp (.inFlight 0x07#8 0 false) (some 5)).mgmt.slot = .inFlight 0x07#8 0 false
        ∧ (sendingUp (.inFlight 0x07#8 0 false) (some 5)).mgmt.pendingRate = some 5) := by decide +kernel

theorem witness_TrunkFrameSent_rate :
    (0 : Rate) = ready.trunk.rate ∧ (5 : Rate) ≠ ready.trunk.rate ∧ ready.trunk.rx.state ≠ .assemble
      ∧ TrunkAssembles (State.onTrunk ready [0x21#8]) 0 ∧ (5 : Rate) ≠ (State.onTrunk ready [0x21#8]).trunk.rate := by
  unfold TrunkAssembles; decide +kernel

/-! ### Management -/

/-- A REQUEST to the own address, its SEQ 0x07. -/
def ask (body : List Byte) : List Byte := frame 0xEF#8 0x00#8 0x10#8 0x07#8 body

/-- It is about to end in a state with the slot given. -/
def asked (s : State) (slot : ReplaySlot) (body : List Byte) : State :=
  { State.onTrunk s (ask body) with mgmt := { s.mgmt with slot := slot } }

theorem asked_ends (s : State) (slot : ReplaySlot) (body : List Byte) (h : validFrame (ask body) = true) :
    TrunkFrameEnds (asked s slot body) 0 (ask body) := trunk_ends s (ask body) h

theorem ask_fields : srcOf (ask [0x01#8]) = 0x00#8 ∧ kindOf (ask [0x01#8]) = 0x10#8 ∧ seqOf (ask [0x01#8]) = 0x07#8
    ∧ destOf (ask [0x01#8]) = ready.settings.ownAddress := by decide +kernel

/-- IN FLIGHT; HELD with the RESULT upstream; HELD with it not there. -/
theorem witness_DuplicateRequest :
    (∀ slot, TrunkFrameEnds (asked ready slot [0x01#8]) 0 (ask [0x01#8]))
      ∧ (asked ready (.inFlight 0x07#8 9 false) [0x01#8]).mgmt.slot = .inFlight (seqOf (ask [0x01#8])) 9 false
      ∧ ((asked (waiting [9] [] 0 false) (.held 0x07#8 9) [0x01#8]).mgmt.slot = .held (seqOf (ask [0x01#8])) 9
        ∧ 9 ∈ (asked (waiting [9] [] 0 false) (.held 0x07#8 9) [0x01#8]).upstream.urgent)
      ∧ ((asked ready (.held 0x07#8 9) [0x01#8]).mgmt.slot = .held (seqOf (ask [0x01#8])) 9
        ∧ 9 ∉ (asked ready (.held 0x07#8 9) [0x01#8]).upstream.urgent)
      ∧ ∀ rate began, (asked ready (.held 0x07#8 9) [0x01#8]).trunk.tx ≠ .sending (.pool 9) rate began := by
  refine ⟨fun slot => asked_ends _ _ _ ?_, ?_, ?_, ?_, ?_⟩
  · decide +kernel
  · decide +kernel
  · decide +kernel
  · decide +kernel
  · intro rate began h
    cases h

/-- A new SEQ, and the conditions of each result: no body, codes 0x00 and 0x0E, LOADING, STORING, bad arguments, an
operation carried out, a store, the two restarts. -/
theorem witness_NewRequest :
    (∀ body, body ∈ [[], [0x00#8], [0x0E#8], [0x01#8], [0x02#8], [0x05#8], [0x0C#8], [0x0D#8, 0x01#8],
          [0x0D#8, 0x02#8]] →
        TrunkFrameEnds (asked ready (.held 0x06#8 9) body) 0 (ask body)
        ∧ srcOf (ask body) = 0x00#8 ∧ kindOf (ask body) = 0x10#8 ∧ destOf (ask body) = ready.settings.ownAddress
        ∧ (asked ready (.held 0x06#8 9) body).mgmt.slot.seq ≠ some (seqOf (ask body))
        ∧ body = ((ask body).take ((ask body).length - 2)).drop 5)
      ∧ (State.reset.image.config = .loading ∧ 0x02#8 ≠ 0x01#8)
      ∧ (storingNow.image.config = .storing
        ∧ 0x05#8 ∉ [0x01#8, 0x02#8, 0x03#8, 0x06#8, 0x07#8, 0x08#8, 0x0A#8])
      ∧ (ready.image.config = .ready ∧ parseRequest 0x02#8 [] = none ∧ parseRequest 0x01#8 [] = some .readStatus
        ∧ parseRequest 0x0C#8 [] = some .storeImage ∧ parseRequest 0x0D#8 [0x01#8] = some (.restart .warm)
        ∧ parseRequest 0x0D#8 [0x02#8] = some (.restart .reload)) := by
  refine ⟨fun body hb => ⟨asked_ends _ _ _ ?_, ?_⟩, ?_, ?_, ?_⟩
  · revert hb body; decide +kernel
  · revert hb body; decide +kernel
  · decide +kernel
  · decide +kernel
  · decide +kernel

/-- The boundaries of the argument ranges. -/
theorem witness_RequestsRead :
    (0x03#8 : Byte).toNat = (3 : DropId).val ∧ 3 < (0x04#8 : Byte).toNat ∧ (0x01#8 : Byte).toNat ≤ 1
      ∧ 1 < (0x02#8 : Byte).toNat ∧ 4 < (0x05#8 : Byte).toNat ∧ (0x07#8 : Byte).toNat ≤ 7 ∧ 7 < (0x08#8 : Byte).toNat
      ∧ (0x02#8 : Byte) ≠ 0xFF#8 ∧ ([0x21#8, 0x00#8] : List Byte).length < 3
      ∧ ([0x00#8, 0x03#8] : List Byte).length = bitsBelow 3 11 := by decide +kernel

theorem lone_exchange (st : ExState) : ExchangeLaw (onLine st .listening) := by
  intro t u e f ht hu _
  have h : ∀ t : Tag, (onLine st .listening).exchange t ≠ none → t = 0 := by
    cases st <;> decide +kernel
  rw [h t (by rw [ht]; exact Option.some_ne_none _), h u (by rw [hu]; exact Option.some_ne_none _)]

/-- No exchange for 0x52; the exchange of 0x23 on the line, or off it. -/
theorem witness_CancelAndSetDrop_cancel :
    (∀ t e, (onLine .awaiting .listening).exchange t = some e → e.station ≠ 0x52#8)
      ∧ (∀ st, ExchangeLaw (onLine st .listening) ∧ (onLine st .listening).exchange 0 = some (pollExchange st)
        ∧ (pollExchange st).station = 0x23#8 ∧ (pollExchange st).state = st) := by
  refine ⟨fun t e he => ?_, fun st => ⟨lone_exchange st, ?_, rfl, rfl⟩⟩
  · exact of_decide_eq_true (all_open (p := fun e => decide (e.station ≠ 0x52#8)) (by decide +kernel) t e he)
  · cases st <;> decide +kernel

/-- A request being sent on a DISABLED drop, its removal as given. -/
def removing (r : Removal) : State :=
  State.inLine (State.serving ready { pollExchange .sending with removal := r } .sending) 0 .disabled .sending

/-- A drop in each of its line states; a removal taken after a disable. -/
theorem witness_CancelAndSetDrop_drop :
    (∀ line ∈ [LineState.disabled, .idle, .sending, .listening, .receiving, .guard, .fault],
        ((State.inLine ready 0 .enabled line).dropUnit 0).line = line)
      ∧ (removing .waitingAfterDisable).exchange 0
        = some { pollExchange .sending with removal := .waitingAfterDisable }
      ∧ ((removing .waitingAfterDisable).dropUnit 0).serving = some 0
      ∧ ((removing .waitingAfterDisable).dropUnit 0).line = .sending := by decide +kernel

/-- A down threshold of 15 and of 16; an own address that is an entry's, and one that is not. -/
theorem witness_WriteSettingsClaim :
    ({ settingsFields 0 [] with downThreshold := some 0x10#8 } : SettingsFields).quantitiesGood = false
      ∧ (ready.station 0x23#8).isSome = true
      ∧ ({ settingsFields 0 [] with downThreshold := some 0x0F#8, ownAddress := some 0xEE#8, trunkRate := some 0x07#8 }
          : SettingsFields).quantitiesGood = true
      ∧ ready.station 0xEE#8 = none
      ∧ ((0x07#8 : Byte).toNat ≤ 7 ∧ (7 : Rate).val = (0x07#8 : Byte).toNat) := by decide +kernel

/-- A table of sixty-four entries. -/
def full : State :=
  { ready with stations := (List.range 64).map (fun n => Station.fresh (Byte.ofNat (n + 1)) 0) }

/-- A create: its refusals in order, and one that passes, at address 0xEE. -/
theorem witness_StationWritten_create :
    (ready.station 0xF0#8 = none ∧ stationAddress 0xF0#8 = false)
      ∧ (ready.station 0xEE#8 = none ∧ stationAddress 0xEE#8 = true ∧ 0xEE#8 ≠ ready.settings.ownAddress
        ∧ ready.mgmt.pendingAddress ≠ some 0xEE#8 ∧ ready.stations.length < 64)
      ∧ (full.station 0xEE#8 = none ∧ 64 ≤ full.stations.length)
      ∧ (stationFields 0 []).drop = none
      ∧ ((stationFields 3 [0x00#8, 0x03#8]).drop ≠ none ∧ (stationFields 3 [0x00#8, 0x03#8]).requestGood = true
        ∧ ∃ y ∈ ready.stations, y.address ≠ 0xEE#8
          ∧ y.drop = ((stationFields 3 [0x00#8, 0x03#8]).applyTo (Station.fresh 0xEE#8 0)).drop
          ∧ y.lineAddress = ((stationFields 3 [0x00#8, 0x03#8]).applyTo (Station.fresh 0xEE#8 0)).lineAddress)
      ∧ ((stationFields 1 [0x03#8]).drop = some 0x03#8 ∧ (0x03#8 : Byte).toNat ≤ 3
        ∧ (stationFields 1 [0x03#8]).requestGood = true
        ∧ (∀ y ∈ ready.stations, y.address ≠ 0xEE#8 →
          y.drop = ((stationFields 1 [0x03#8]).applyTo (Station.fresh 0xEE#8 0)).drop →
          y.lineAddress ≠ ((stationFields 1 [0x03#8]).applyTo (Station.fresh 0xEE#8 0)).lineAddress)) := by decide +kernel

/-- A removed station's exchange may still be open when its address is created again (R49). -/
theorem witness_StationWritten_open :
    (∀ t e, ready.exchange t = some e → e.station ≠ 0xEE#8) ∧ TableShape ready
      ∧ ∃ t e, (State.exhausted ready).exchange t = some e ∧ e.station = 0x77#8
        ∧ (State.exhausted ready).station 0x77#8 = none := by
  refine ⟨fun t e he => ?_, ?_, 0, { pollExchange .deferred with station := 0x77#8 }, ?_⟩
  · cases all_open (s := ready) (p := fun _ => false) (by decide +kernel) t e he
  · simp only [TableShape]; decide +kernel
  · decide +kernel

/-- A change of 0x23: a window of 1 is refused; a move to drop 3 while it is in use, and while it is not. -/
theorem witness_StationWritten_change :
    (ready.station 0x23#8 = some poll ∧ ({ stationFields 0 [] with window := some 0x01#8 } : StationFields).requestGood = false)
      ∧ ((onLine .awaiting .listening).station 0x23#8 = some poll ∧ (stationFields 1 [0x03#8]).requestGood = true
        ∧ ((stationFields 1 [0x03#8]).applyTo poll).drop ≠ poll.drop ∧ (onLine .awaiting .listening).inUse 0x23#8 = true
        ∧ ∀ y ∈ (onLine .awaiting .listening).stations, y.address ≠ 0x23#8 →
          y.drop = ((stationFields 1 [0x03#8]).applyTo poll).drop →
          y.lineAddress ≠ ((stationFields 1 [0x03#8]).applyTo poll).lineAddress)
      ∧ (ready.inUse 0x23#8 = false ∧ ((stationFields 0 []).applyTo poll).drop = poll.drop
        ∧ ((stationFields 0 []).applyTo poll).lineAddress = poll.lineAddress) := by decide +kernel

/-- The station's exchange closed REMOVED and its drop in GUARD. -/
def removed (s : State) : State := (s.closeExchange 0 .removed).mapDrop 0 (fun x => { x with line := .guard })

theorem off_line_exchange : ExchangeLaw (State.offTheLine ready .deferred) := by
  intro t u e f ht hu _
  have h : ∀ t : Tag, (State.offTheLine ready .deferred).exchange t ≠ none → t = 0 := by decide +kernel
  rw [h t (by rw [ht]; exact Option.some_ne_none _), h u (by rw [hu]; exact Option.some_ne_none _)]

/-- No entry; not in use, in use; no exchange; one off the line, in LISTENING, in SENDING; the guard time over at its last
moment and one unit short of it. -/
theorem witness_StationRemoved :
    (ready.station 0x01#8 = none ∧ ready.station 0x52#8 = some slow ∧ ready.inUse 0x52#8 = false
        ∧ (onLine .awaiting .listening).station 0x23#8 = some poll ∧ (onLine .awaiting .listening).inUse 0x23#8 = true)
      ∧ ((∀ t e, (onLine .awaiting .listening).exchange t = some e → e.station ≠ 0x52#8)
        ∧ (ready.dropUnit slow.drop).line ≠ .guard)
      ∧ (ExchangeLaw (State.offTheLine ready .deferred) ∧ (pollExchange .deferred).inService = false
        ∧ (State.offTheLine ready .deferred).exchange 0 = some { pollExchange .deferred with dueSince := some 3 }
        ∧ (State.offTheLine ready .deferred).station 0x23#8 = some poll)
      ∧ (ExchangeLaw (onLine .awaiting .listening) ∧ (pollExchange .awaiting).inService = true
        ∧ ((onLine .awaiting .listening).dropUnit 0).line ≠ .sending ∧ ((onLine .awaiting .listening).dropUnit 0).line ≠ .guard)
      ∧ (ExchangeLaw (onLine .sending .listening) ∧ ((onLine .sending .sending).dropUnit 0).line = .sending
        ∧ (pollExchange .sending).inService = true)
      ∧ ((onLine .awaiting .guard).dropUnit poll.drop).line = .guard
      ∧ (2399 < ((removed (onLine .awaiting .listening)).dropUnit 0).lastChar
          + 4 * charTime ((removed (onLine .awaiting .listening)).dropUnit 0).rate
        ∧ ((removed (onLine .awaiting .listening)).dropUnit 0).lastChar
          + 4 * charTime ((removed (onLine .awaiting .listening)).dropUnit 0).rate ≤ 2400
        ∧ ((removed (onLine .awaiting .listening)).dropUnit 0).line = .guard) := by
  refine ⟨?_, ⟨fun t e he => ?_, ?_⟩, ⟨off_line_exchange, ?_⟩, ⟨lone_exchange _, ?_⟩, ⟨lone_exchange _, ?_⟩, ?_⟩
  · decide +kernel
  · exact of_decide_eq_true (all_open (p := fun e => decide (e.station ≠ 0x52#8)) (by decide +kernel) t e he)
  · decide +kernel
  · decide +kernel
  · decide +kernel
  · decide +kernel
  · decide +kernel

theorem witness_ReadsAnswered :
    TableShape full ∧ full.station 0x41#8 = none ∧ full.station 0x40#8 = some (Station.fresh 0x40#8 0) := by
  simp only [TableShape]; decide +kernel

/-- The five bytes of an item are given for an exchange and for a notice. -/
theorem witness_ReadsAnswered_item (s : State) : ∃ item : Item → List Byte, ∀ it,
    (∀ a, it.work = .notice a → item it = [0x01#8, it.cls.code, a, 0xFF#8, 0xFF#8])
      ∧ ∀ t, it.work = .exchange t → item it = [0x00#8, it.cls.code,
        ((s.exchange t).map Exchange.station).getD 0xFF#8, Byte.ofNat t.val,
        ((s.exchange t).map (fun e => e.state.code)).getD 0xFF#8] := by
  refine ⟨fun it => match it.work with
    | .notice a => [0x01#8, it.cls.code, a, 0xFF#8, 0xFF#8]
    | .exchange t => [0x00#8, it.cls.code, ((s.exchange t).map Exchange.station).getD 0xFF#8, Byte.ofNat t.val,
      ((s.exchange t).map (fun e => e.state.code)).getD 0xFF#8], fun it => ⟨fun a h => ?_, fun t h => ?_⟩⟩ <;> simp [h]

/-- A STATE is being sent when the restart comes; and a drop is in FAULT, another ENABLED, another DISABLED. -/
theorem witness_WarmRestart :
    ({ ready with
        trunk := { ready.trunk with tx := .sending .notice 0 0 }
        upstream := { ready.upstream with notice := some (stateFrame 0xEF#8 0x00#8 0x52#8 0x02#8 0x03#8) } }
        : State).upstream.notice = some (stateFrame 0xEF#8 0x00#8 0x52#8 0x02#8 0x03#8)
      ∧ (∀ r began, ready.trunk.tx ≠ .sending .notice r began)
      ∧ ((State.inLine ready 0 .enabled .fault).dropUnit 0).line = .fault
      ∧ ((ready.dropUnit 0).line ≠ .fault ∧ (ready.dropUnit 0).mode = .enabled)
      ∧ (State.reset.dropUnit 0).mode = .disabled
      ∧ ((ready.mapDrop 0 (fun x => { x with rxSpace := true })).dropUnit 0).rxSpace = true := by
  refine ⟨rfl, ?_, ?_, ?_, ?_, ?_⟩
  · intro r began h
    cases h
  · decide +kernel
  · decide +kernel
  · decide +kernel
  · decide +kernel

/-! ### The image -/

/-- The records length at its limit and one past it. -/
theorem witness_LoadReads_header :
    State.reset.image.config = .loading ∧ State.reset.image.load = some Load.start ∧ Load.start.phase = .header
      ∧ (0x07#8 : Byte).toNat * 256 + (0xF6#8 : Byte).toNat ≤ 2038
      ∧ 2038 < (0x07#8 : Byte).toNat * 256 + (0xF7#8 : Byte).toNat := by decide +kernel

/-- A record of 3 field bytes with 4 bytes left and with 5; truncated records and ENDs as long as what is left. -/
theorem witness_LoadReads_records :
    (∀ n ∈ [0, 1, 2, 3, 4, 5], (reading n).recordLoad = some { Load.start with phase := .records, left := n })
      ∧ 4 < ([0x00#8, 0x01#8, 0x05#8] : List Byte).length + 2
      ∧ ([0x00#8, 0x01#8, 0x05#8] : List Byte).length + 2 ≤ 5
      ∧ ([0x53#8] : List Byte).length = 1 ∧ ([0x00#8] : List Byte).length + 1 = 2 ∧ ([] : List Byte).length + 1 = 1 := by
  decide +kernel

theorem witness_DropRecord :
    (reading 5).recordLoad = some { Load.start with phase := .records, left := 5 }
      ∧ ([0x03#8, 0x01#8, 0x07#8] : List Byte).length + 2 ≤ 5 ∧ (0x03#8 : Byte).toNat = (3 : DropId).val
      ∧ (0x07#8 : Byte).toNat = (7 : Rate).val ∧ (0x01#8 : Byte).toNat ≤ 1
      ∧ 3 < (byteAt [0x04#8, 0x01#8, 0x07#8] 0).toNat ∧ 1 < (byteAt [0x03#8, 0x02#8, 0x07#8] 1).toNat
      ∧ 7 < (byteAt [0x03#8, 0x01#8, 0x08#8] 2).toNat := by decide +kernel

/-- A SETTINGS record with an undefined mask bit, and one that is staged. -/
theorem witness_RecordsJudged_settings :
    (reading 5).recordLoad = some { Load.start with phase := .records, left := 5 }
      ∧ 64 ≤ (0x40#8 : Byte).toNat
      ∧ ((0x09#8 : Byte).toNat < 64 ∧ ([0xE0#8, 0x0F#8] : List Byte).length = bitsBelow 0x09 6
        ∧ (settingsFields 0x09 [0xE0#8, 0x0F#8]).codesGood = true
        ∧ (settingsFields 0x09 [0xE0#8, 0x0F#8]).quantitiesGood = true
        ∧ (settingsFields 0x09 [0xE0#8, 0x0F#8]).ownAddress = some 0xE0#8 ∧ (reading 5).station 0xE0#8 = none
        ∧ ([0xE0#8, 0x0F#8] : List Byte).length + 3 ≤ 5) := by decide +kernel

/-- A STATION record skipped for each of its causes, and one that makes an entry. -/
theorem witness_RecordsJudged_station :
    ([0x00#8] : List Byte).length ≠ bitsBelow 0x03 8 ∧ stationAddress 0xF0#8 = false
      ∧ (stationFields 0 []).drop = none ∧ (stationFields 1 [0x04#8]).recordGood = false
      ∧ ((reading 5).recordLoad = some { Load.start with phase := .records, left := 5 }
        ∧ ([0x03#8] : List Byte).length + 4 ≤ 5 ∧ ([0x03#8] : List Byte).length = bitsBelow 0x01 8
        ∧ stationAddress 0x01#8 = true ∧ 0x01#8 ≠ (reading 5).settings.ownAddress
        ∧ Load.start.staged.ownAddress ≠ some 0x01#8 ∧ (stationFields 1 [0x03#8]).drop ≠ none
        ∧ (stationFields 1 [0x03#8]).recordGood = true ∧ (reading 5).stations.length < 64
        ∧ ∀ y ∈ (reading 5).stations, y.address ≠ 0x01#8 →
          y.drop = ((stationFields 1 [0x03#8]).applyTo (Station.fresh 0x01#8 0)).drop →
          y.lineAddress ≠ ((stationFields 1 [0x03#8]).applyTo (Station.fresh 0x01#8 0)).lineAddress)
      ∧ TableShape (reading 5) := by
  refine ⟨?_, ?_, ?_, ?_, ?_, ?_⟩ <;> (try simp only [TableShape]) <;> decide +kernel

/-- The check right and wrong; a drop ENABLED and one DISABLED at the end of a load. -/
theorem witness_LoadEnds :
    ((reading 0).image.load = some { Load.start with phase := .records, left := 0 }
        ∧ ({ Load.start with phase := .records, left := 0 } : Load).check = 0xFF#8 ++ 0xFF#8
        ∧ ({ Load.start with phase := .records, left := 0 } : Load).check ≠ 0xFF#8 ++ 0xFE#8)
      ∧ LoadingLaw (reading 0)
      ∧ (((reading 0).mapDrop 1 (fun x => { x with mode := .enabled, pendingRate := some 5 })).dropUnit 1).mode = .enabled
      ∧ ((reading 0).dropUnit 2).mode = .disabled := by
  refine ⟨?_, ?_, ?_, ?_⟩ <;> (try simp only [LoadingLaw]) <;> decide +kernel

/-- A store of the smallest image, at its first write and at its last. -/
def storeAt (position : Nat) : State :=
  { ready with image := { ready.image with
      config := .storing, store := some { image := 0x57#8 :: 0x42#8 :: List.replicate 5 0x00#8, position := position } } }

theorem witness_PortFailure :
    (State.reset.image.config = .loading ∧ State.reset.image.load = some Load.start)
      ∧ (∃ x, storingNow.image.config = .storing ∧ storingNow.image.store = some x)
      ∧ storingNow.mgmt.slot = .inFlight 0x60#8 0 true
      ∧ ((storeAt 2).image.config = .storing
        ∧ (storeAt 2).image.store.map Store.current = some (0, [0x57#8, 0x42#8]))
      ∧ ∀ q b, ({ storingNow with mgmt := { storingNow.mgmt with slot := .held 0x61#8 1 } } : State).mgmt.slot
        ≠ .inFlight q b true :=
  ⟨by decide +kernel, ⟨_, by decide +kernel, rfl⟩, by decide +kernel, by decide +kernel, fun q b h => by cases h⟩

/-- A device select refused, one that MSDA held low keeps from starting, one acknowledged after nine pulses at the last
moment; the second of two bytes. -/
theorem witness_PortFailure_transfer :
    (Transfer.write 0 [0x57#8, 0x42#8] = .write 0 [0x57#8, 0x42#8])
      ∧ (Machine.poll 0xA0#8 [⟨0, 0, false⟩]).2 = false ∧ (Machine.poll 0xA1#8 [⟨0, 10, true⟩]).2 = false
      ∧ (Machine.poll 0xA0#8 [⟨0, 0, false⟩, ⟨1000, 9, true⟩]).2 = true
      ∧ (Machine.poll 0xA1#8 [⟨0, 0, true⟩]).2 = true
      ∧ ([0x57#8, 0x42#8] : List Byte) = [0x57#8] ++ 0x42#8 :: [] := by decide +kernel

theorem witness_StoreWrites :
    ((storeAt 1).image.config = .storing ∧ (storeAt 2).image.store.map Store.position = some 2
        ∧ 2 < (storeWrites (0x57#8 :: 0x42#8 :: List.replicate 5 0x00#8)).length)
      ∧ 0 + 1 < (storeWrites (0x57#8 :: 0x42#8 :: List.replicate 5 0x00#8)).length
      ∧ (storeWrites (0x57#8 :: 0x42#8 :: List.replicate 5 0x00#8)).length ≤ 2 + 1
      ∧ 7 ≤ (0x57#8 :: 0x42#8 :: List.replicate 5 0x00#8 : List Byte).length
      ∧ (0x57#8 :: 0x42#8 :: List.replicate 5 0x00#8 : List Byte).take 2 = [0x57#8, 0x42#8]
      ∧ Memory.wf [] = true := by decide +kernel

/-- A load of the greatest image and of the smallest; the port in a load's header and in its records, at the last write
of a store, and in READY. -/
theorem witness_PortTransfers :
    (2038 ≤ 2038 ∧ 7 ≤ (List.replicate 7 0x00#8 : List Byte).length)
      ∧ (Load.start.phase = .header ∧ Load.start.position = 0 ∧ Load.start.position < Load.start.due)
      ∧ (∃ l, (reading 5).image.load = some l ∧ (reading 5).image.config = .loading ∧ l.position < l.due)
      ∧ (({ Load.start with phase := .records, position := 2043, left := 0 } : Load).position + 0 = 5 + 2038
        ∧ 2043 < ({ Load.start with phase := .records, position := 2043, left := 0 } : Load).due)
      ∧ ((storeAt 2).image.store.map Store.position = some 2
        ∧ 2 < (storeWrites (0x57#8 :: 0x42#8 :: List.replicate 5 0x00#8)).length)
      ∧ ready.image.config = .ready
      ∧ (∃ t, exec (.coldReset 7) ready = .next t)
      ∧ (ready.image.load = none ∧ ready.image.store = none)
      ∧ (∃ l, (reading 5).image.load = some l ∧ l.phase ≠ .header) ∧ storingNow.image.store ≠ none :=
  ⟨by decide +kernel, by decide +kernel, ⟨_, rfl, by decide +kernel⟩, by decide +kernel, by decide +kernel, by decide +kernel,
    ⟨_, rfl⟩, by decide +kernel, ⟨_, rfl, by decide +kernel⟩, by decide +kernel⟩

/-- Nine pulses, ten, none; an attempt in time and one past it. -/
theorem witness_PortWires :
    (startAfter (fun k => k = 9) = some 9 ∧ startAfter (fun k => 10 ≤ k) = none)
      ∧ (∀ x ∈ ([(1001, true), (1000, false)] : List (Nat × Bool)), x.1 ≤ 1000 → x.2 = false)
      ∧ ∃ x ∈ ([(0, false), (1000, true)] : List (Nat × Bool)), x.1 ≤ 1000 ∧ x.2 = true := by decide +kernel

/-- Attempts with nine pulses and with ten; one refused, one that addresses the memory in time, and one too late. -/
theorem witness_PortWires_attempts :
    ((⟨0, 9, true⟩ : Attempt).held ≤ 9 ∧ 9 < (⟨0, 10, true⟩ : Attempt).held)
      ∧ ((⟨0, 0, false⟩ : Attempt).held = 0 ∧ (⟨0, 0, false⟩ : Attempt).acknowledged = false)
      ∧ (∀ y ∈ [(⟨0, 0, false⟩ : Attempt), ⟨1000, 10, true⟩], y.time ≤ 1000 ∧ y.addresses = false)
      ∧ ((⟨1000, 9, true⟩ : Attempt).time ≤ 1000 ∧ (⟨1000, 9, true⟩ : Attempt).addresses = true)
      ∧ ∀ z ∈ [(⟨1001, 0, true⟩ : Attempt)], 1000 < z.time := by decide +kernel

/-! ### The laws

Each holds of a state in which things happen, and a step is taken from it. -/

/-- `busy`, its trunk about to take a poll of 0x52, which then is DOWN and due for a notice. -/
def lawful : State :=
  { State.onTrunk busy (frame 0x52#8 0x00#8 0x10#8 0x30#8 [0x07#8]) with
    stations := [poll, { slow with miss := 3, liveness := .down, probe := 7, noticePending := true }]
    memory := [(0, 0x57#8), (1, 0x42#8)]
    pending := [.eofReceived ⟨.trunk, 0⟩] }

theorem lawful_steps : ∃ t, step lawful = .next t := steps (by decide +kernel)

theorem lawful_pool : PoolLaw lawful := pool_law (by decide +kernel) (by decide +kernel) (by decide +kernel)

theorem table_laws : TableLaw lawful ∧ TableLaw ready := by
  refine ⟨⟨?_, ?_, ?_⟩, ?_, ?_, ?_⟩
  · simp only [TableShape]; decide +kernel
  · intro h; cases h
  · intro st hs
    exact ⟨by revert st; decide +kernel, by revert st; decide +kernel, fun h => by cases h⟩
  · simp only [TableShape]; decide +kernel
  · intro h; cases h
  · intro st hs
    exact ⟨by revert st; decide +kernel, by revert st; decide +kernel, fun h => by cases h⟩

theorem witness_TableKept : TableLaw lawful ∧ MemoryLaw lawful :=
  ⟨table_laws.1, by simp only [MemoryLaw]; decide +kernel⟩

theorem lawful_loading : LoadingLaw lawful := by intro h; cases h

theorem lawful_work : WorkLaw lawful := by
  simp only [WorkLaw, some_open]; decide +kernel

theorem lawful_service : ServiceLaw lawful := by
  intro d
  refine ⟨?_, ?_, fun it a h hw => ?_, ?_, ?_⟩
  · revert d; decide +kernel
  · revert d; decide +kernel
  · have := (show ∀ d : DropId, (lawful.dropUnit d).service.all (fun it => match it.work with
      | .notice _ => false
      | .exchange _ => true) = true by decide +kernel) d
    rw [h, Option.all_some, hw] at this
    cases this
  · revert d; decide +kernel
  · have := (show ∀ d : DropId, (lawful.dropUnit d).line ≠ .sending ∧ (lawful.dropUnit d).tx = .idle by decide +kernel) d
    rw [this.2]
    exact ⟨fun h => absurd h this.1, fun ⟨_, _, _, h⟩ => by cases h⟩

theorem witness_WorkKept :
    QueueLaw lawful ∧ WorkLaw lawful ∧ LoadingLaw lawful ∧ ServiceLaw lawful ∧ ExchangeLaw lawful := by
  refine ⟨?_, lawful_work, lawful_loading, lawful_service, ?_⟩
  · simp only [QueueLaw]; decide +kernel
  · intro t u e f ht hu hs
    have h : ∀ t u : Tag, (lawful.exchange t).all (fun e => (lawful.exchange u).all
        (fun f => decide (e.station = f.station → t = u))) = true := by decide +kernel
    have := h t u
    rw [ht] at this
    have := (show (lawful.exchange u).all (fun f => decide (e.station = f.station → t = u)) = true from this)
    rw [hu] at this
    exact of_decide_eq_true this hs

/-- The two entries' configuration is in range, whatever their running fields are. -/
theorem range_of {s : State} (hs : s.settings = Settings.cold) (ha : s.mgmt.pendingAddress = none) (hl : s.image.load = none)
    (h : ∀ st ∈ s.stations, 2 ≤ st.window ∧ st.window ≤ 255 ∧ st.retryLimit ≤ 3 ∧ 1 ≤ st.fetchInterval
      ∧ st.fetchInterval ≤ 255 ∧ 1 ≤ st.fetchLimit ∧ st.fetchLimit ≤ 255
      ∧ st.aliasAddr.all (fun a => stationAddress a && decide (a ≠ st.address)) = true) : RangeLaw s := by
  refine ⟨by rw [hs]; decide +kernel, fun a h => ?_, fun l h => ?_, fun st hst => ?_⟩
  · rw [ha] at h; cases h
  · rw [hl] at h; cases h
  · obtain ⟨h1, h2, h3, h4, h5, h6, h7, h8⟩ := h st hst
    refine ⟨h1, h2, h3, h4, h5, h6, h7, fun a e => ?_⟩
    rw [e] at h8
    simpa using h8

theorem range_of_ready : RangeLaw ready := range_of rfl rfl rfl (by decide +kernel)

/-- The counts that do not saturate, as a test of the sixteen records. -/
theorem tally_of {s : State} (h : ∀ st ∈ s.stations, st.probe ≤ 15)
    (ht : ∀ t : Tag, (s.exchange t).all (fun e => decide (
      (1 ≤ e.attempts ∧ e.attempts ≤ 4 ∧ e.fetches ≤ 255)
      ∧ (e.state ≠ .fetching → e.fetches ≤ 254 ∧ e.limit.getD 0 ≤ 3) ∧ e.limit.getD 0 ≤ 255
      ∧ ((s.dropUnit e.drop).serving = some t →
        ((s.dropUnit e.drop).line = .guard → e.attempts ≤ 3 ∧ e.state ≠ .fetching)
        ∧ ((s.dropUnit e.drop).line = .sending → e.fetches ≤ 254)))) = true) : TallyLaw s := by
  refine ⟨h, fun t e he => ?_⟩
  have := ht t
  rw [he] at this
  exact of_decide_eq_true this

theorem witness_CountsKept :
    CountLaw lawful ∧ RangeLaw lawful ∧ LivenessLaw lawful ∧ LoadingLaw lawful ∧ WorkLaw lawful ∧ ServiceLaw lawful
      ∧ TallyLaw lawful := by
  refine ⟨?_, range_of rfl rfl rfl ?_, ?_, lawful_loading, lawful_work, lawful_service, tally_of ?_ ?_⟩
  · simp only [CountLaw, TrunkCounters.bounded, DropCounters.bounded]; decide +kernel
  · decide +kernel
  · simp only [LivenessLaw]; decide +kernel
  · decide +kernel
  · decide +kernel

/-- The request of 0x52 is still being assembled, and four drops' work goes on. -/
theorem witness_HoldsKept : HoldingLaw lawful := by
  refine ⟨lawful_loading, lawful_pool, ?_, ?_, ?_, lawful_work, request_law ?_, lawful_service⟩
  · simp only [HoldLaw]; decide +kernel
  · simp only [ReserveLaw]; decide +kernel
  · intro l
    refine ⟨?_, ?_⟩
    · cases l <;> [skip; (rename_i d; revert d)] <;> decide +kernel
    · cases l <;> [skip; (rename_i d; revert d)] <;> decide +kernel
  · decide +kernel

/-- The entry's address is free in the state that reads the record back. -/
theorem witness_RecordsReadBack :
    TableShape full ∧ RangeLaw ready ∧ TableLaw ready ∧ slow ∈ ready.stations ∧ slow.address ≠ State.reset.settings.ownAddress
      ∧ Load.start.staged.ownAddress ≠ some slow.address ∧ State.reset.stations.length < 64
      ∧ ∀ y ∈ State.reset.stations, y.address ≠ slow.address → y.drop = slow.drop → y.lineAddress ≠ slow.lineAddress := by
  refine ⟨witness_ReadsAnswered.1, range_of_ready, table_laws.2, ?_⟩
  decide +kernel

end Sys2Proof.Tests
end

section
/-! PROOFS. What the three restarts leave of the receivers, the pool and the counters (R16, R34). -/

namespace Sys2Proof.Machine

/-! ### The pool a restart rebuilds -/

/-- Every buffer but `b` is FREE and in the free list. -/
def Pool.FreeBut (p : Pool) (b : BufId) : Prop := ∀ c : BufId, c ≠ b → p.buffers[c] = none ∧ c ∈ p.free

/-- The rebuilt pool (R34): every buffer FREE and in the free list. -/
theorem Pool.cold_all_free (b : BufId) : Pool.cold.buffers[b] = none ∧ b ∈ Pool.cold.free := by
  simp [Pool.cold]

/-- The rebuilt pool's head is buffer 0 (R23, R34). -/
theorem Pool.cold_take : Pool.cold.take = some (0, Pool.cold.taken 0 (List.finRange 40).tail) := rfl

theorem Pool.cold_taken_freeBut : (Pool.cold.taken 0 (List.finRange 40).tail).FreeBut 0 := by
  intro c hc
  have hv : 0 ≠ c.val := (Fin.val_ne_zero_iff.mpr hc).symm
  have hmem : c ∈ (0 : BufId) :: (List.finRange 40).tail := List.mem_finRange c
  exact ⟨by simp [Pool.taken, Pool.cold, hv], (List.mem_cons.mp hmem).resolve_left hc⟩

theorem Pool.FreeBut.hold {p : Pool} {b : BufId} (h : p.FreeBut b) : (p.hold b).FreeBut b := fun c hc => by
  rw [Pool.hold_buffers_ne p hc, Pool.hold_free]
  exact h c hc

theorem Pool.FreeBut.write {p : Pool} {b : BufId} (v : List Byte) (h : p.FreeBut b) : (p.write b v).FreeBut b :=
  fun c hc => by
    rw [Pool.write_buffers_ne p v hc, Pool.write_free]
    exact h c hc

/-- The restart's RESULT takes buffer 0 of the rebuilt pool, and nothing else of it. -/
theorem State.restartResult_freeBut {s : State} (h : s.pool = Pool.cold) (seq : Byte) (kind : RestartKind) :
    (s.restartResult seq kind).pool.FreeBut 0 := by
  simp only [State.restartResult, h, Pool.cold_take, State.queueUp_keeps, State.write]
  exact Pool.cold_taken_freeBut.write _

/-! ### The drops at a restart -/

/-- A drop read after all four were changed alike. -/
theorem State.dropUnit_of_map {s t : State} {f : Drop → Drop} (h : t.drops = s.drops.map f) (d : DropId) :
    t.dropUnit d = f (s.dropUnit d) := by
  simp [State.dropUnit, h]

/-- The pending rate of a drop with no frame begun applied at `now` (R3, R78). -/
def Drop.rateApplied (now : Nat) (x : Drop) : Drop :=
  match x.pendingRate with
  | none => x
  | some r =>
    if r = x.rate then { x with pendingRate := none }
    else { x with rate := r, pendingRate := none, lastChar := now, breakSince := x.breakSince.map (fun _ => now) }

@[simp] theorem Drop.rateApplied_rx (now : Nat) (x : Drop) : (x.rateApplied now).rx = x.rx := by
  unfold Drop.rateApplied; (repeat' split) <;> rfl

@[simp] theorem Drop.rateApplied_counters (now : Nat) (x : Drop) : (x.rateApplied now).counters = x.counters := by
  unfold Drop.rateApplied; (repeat' split) <;> rfl

/-- With the receiver already in HUNT and empty there is no frame to abandon or to count: applying the pending rate
changes the drop's rate and its measures only. -/
theorem State.applyRate_of_rx_idle {s : State} {d : DropId} (h : (s.dropUnit d).rx = Receiver.idle) :
    s.applyRate d = s.mapDrop d (Drop.rateApplied s.now) := by
  have hrx : s.drops[d.val].rx = Receiver.idle := h
  have hheld : s.holdReceiver d true = s.mapDrop d (fun x => { x with rx := Receiver.idle }) := by
    simp [State.holdReceiver, h, State.setRx, Receiver.idle]
  rw [State.applyRate, hheld]
  cases hp : s.drops[d.val].pendingRate with
  | none => simp [State.dropUnit, State.mapDrop, Drop.rateApplied, hp]
  | some r =>
    by_cases hr : r = s.drops[d.val].rate <;>
      simp [State.dropUnit, State.mapDrop, Drop.rateApplied, hp, hr, ← hrx]

/-- A drop at a warm restart, its rate settled too (R97): an IDLE one applies its pending rate. -/
def Drop.warmSettled (now : Nat) (x : Drop) : Drop :=
  if (x.warm now).line = .idle then (x.warm now).rateApplied now else x.warm now

@[simp] theorem Drop.warmSettled_rx (now : Nat) (x : Drop) : (x.warmSettled now).rx = Receiver.idle := by
  unfold Drop.warmSettled; split <;> simp [Drop.warm]

@[simp] theorem Drop.warmSettled_counters (now : Nat) (x : Drop) : (x.warmSettled now).counters = x.counters := by
  unfold Drop.warmSettled; split <;> simp [Drop.warm]

theorem State.warmDrop_eq_mapDrop (s : State) (d : DropId) : s.warmDrop d = s.mapDrop d (Drop.warmSettled s.now) := by
  have hidle : ((s.mapDrop d (Drop.warm s.now)).dropUnit d).rx = Receiver.idle := by simp [Drop.warm]
  simp only [State.warmDrop, State.applyRate_of_rx_idle hidle, State.dropUnit_mapDrop_self]
  split
  case isTrue h =>
    have h' : ((s.drops[d.val]).warm s.now).line = .idle := h
    simp [State.mapDrop, Drop.warmSettled, h']
  case isFalse h =>
    have h' : ¬ ((s.drops[d.val]).warm s.now).line = .idle := h
    simp [State.mapDrop, Drop.warmSettled, h']

/-- Settling the drops of a list, each once, settles these and leaves the others. -/
theorem State.dropUnit_foldl_warmDrop {l : List DropId} (hl : l.Nodup) (s : State) (d : DropId) :
    (l.foldl State.warmDrop s).dropUnit d = if d ∈ l then (s.dropUnit d).warmSettled s.now else s.dropUnit d := by
  induction l generalizing s with
  | nil => simp
  | cons e l ih =>
    obtain ⟨he, hl⟩ := List.nodup_cons.mp hl
    rw [List.foldl_cons, ih hl, s.warmDrop_eq_mapDrop e, State.mapDrop_now]
    by_cases hd : d = e
    · subst hd; simp [he]
    · simp [hd, State.dropUnit_mapDrop_ne s _ hd]

/-- A settled drop's receiver is empty already, so settling releases no buffer. -/
theorem State.foldl_warmDrop_pool (l : List DropId) (s : State) : (l.foldl State.warmDrop s).pool = s.pool :=
  foldl_keeps State.pool _ (fun s d => by rw [s.warmDrop_eq_mapDrop d, State.mapDrop_pool]) l s

theorem State.foldl_warmDrop_trunk (l : List DropId) (s : State) : (l.foldl State.warmDrop s).trunk = s.trunk :=
  foldl_keeps State.trunk _ (fun _ _ => by simp) l s

/-! ### The restarts -/

/-- What both restarts begin with cuts off each drop's transmitter (R20) and leaves the rest of the drop. -/
theorem State.restartCore_dropUnit (s : State) (d : DropId) :
    s.restartCore.dropUnit d = { s.dropUnit d with tx := s.cutOff (s.dropUnit d).tx } :=
  State.dropUnit_of_map (f := fun x => { x with tx := s.cutOff x.tx }) rfl d

@[simp] theorem State.hold_pool (s : State) (b : BufId) : (s.hold b).pool = s.pool.hold b := rfl

/-- A warm restart in one expression: the notice set's change (R140) is to the table alone. -/
theorem State.restartWarm_eq (s : State) (seq : Byte) :
    ∃ (stations : List Station) (mgmt : Management), s.restartWarm seq =
      { (((List.finRange 4).foldl State.warmDrop { s.restartCore with stations := stations }).restartResult seq
          .warm).hold 0 with mgmt := mgmt } := by
  simp only [State.restartWarm]
  split
  case h_1 a _ => exact ⟨(s.mapStation a (fun st => { st with noticePending := true })).stations, _, rfl⟩
  case h_2 => exact ⟨s.stations, _, rfl⟩

theorem State.restartWarm_pool (s : State) (seq : Byte) : (s.restartWarm seq).pool.FreeBut 0 := by
  obtain ⟨stations, mgmt, h⟩ := s.restartWarm_eq seq
  rw [h]
  have hcold := State.foldl_warmDrop_pool (List.finRange 4) { s.restartCore with stations := stations }
  simpa only [State.hold_pool] using (State.restartResult_freeBut hcold seq .warm).hold

theorem State.restartWarm_trunk (s : State) (seq : Byte) : (s.restartWarm seq).trunk = s.restartCore.trunk := by
  obtain ⟨stations, mgmt, h⟩ := s.restartWarm_eq seq
  simp [h, State.foldl_warmDrop_trunk]

theorem State.restartWarm_dropUnit (s : State) (seq : Byte) (d : DropId) :
    (s.restartWarm seq).dropUnit d
      = Drop.warmSettled s.now { s.dropUnit d with tx := s.cutOff (s.dropUnit d).tx } := by
  obtain ⟨stations, mgmt, h⟩ := s.restartWarm_eq seq
  have hfold := State.dropUnit_foldl_warmDrop (List.nodup_finRange 4) { s.restartCore with stations := stations } d
  rw [if_pos (List.mem_finRange d)] at hfold
  rw [h, ← s.restartCore_dropUnit d]
  simpa [State.dropUnit] using hfold

theorem State.restartReload_pool (s : State) (seq : Byte) : (s.restartReload seq).pool.FreeBut 0 :=
  State.restartResult_freeBut rfl seq .reload

theorem State.restartReload_trunk (s : State) (seq : Byte) : (s.restartReload seq).trunk = s.restartCore.trunk := by
  simp [State.restartReload]

theorem State.restartReload_dropUnit (s : State) (seq : Byte) (d : DropId) :
    (s.restartReload seq).dropUnit d
      = Drop.reloaded { s.dropUnit d with tx := s.cutOff (s.dropUnit d).tx } := by
  rw [← s.restartCore_dropUnit d]
  exact State.dropUnit_of_map (by simp [State.restartReload]) d

/-- The lines are the trunk and the drops; an idle receiver is one in HUNT, emptied. -/
theorem State.rx_idle_of {t : State} (ht : t.trunk.rx = Receiver.idle) (hd : ∀ d, (t.dropUnit d).rx = Receiver.idle) :
    ∀ l : Line, t.rx l = Receiver.emptied .hunt
  | .trunk => ht
  | .drop d => hd d

theorem State.coldReset_receivers (s : State) (straps : Rate) :
    ∀ l : Line, (s.coldReset straps).rx l = Receiver.emptied .hunt :=
  State.rx_idle_of rfl fun d => by
    rw [State.dropUnit_of_map (s := s) (f := Drop.coldReset) (by simp [State.coldReset]) d]; rfl

theorem State.restartWarm_receivers (s : State) (seq : Byte) :
    ∀ l : Line, (s.restartWarm seq).rx l = Receiver.emptied .hunt :=
  State.rx_idle_of (by rw [s.restartWarm_trunk]; rfl) fun d => by rw [s.restartWarm_dropUnit, Drop.warmSettled_rx]

theorem State.restartReload_receivers (s : State) (seq : Byte) :
    ∀ l : Line, (s.restartReload seq).rx l = Receiver.emptied .hunt :=
  State.rx_idle_of (by rw [s.restartReload_trunk]; rfl) fun d => by rw [s.restartReload_dropUnit]; rfl

/-- Settles O45: a cold reset writes the cold state; a warm restart settles each drop once its receiver is empty, so
that a pending rate finds no frame to abandon or to count, and a reload writes each drop; the RESULT of either takes
buffer 0 of the rebuilt pool. -/
theorem receiversRestarted : Obligations.ReceiversRestarted := by
  intro s seq straps
  refine ⟨⟨s.coldReset straps, rfl, s.coldReset_receivers straps, Pool.cold_all_free⟩, ?_⟩
  rintro t (rfl | rfl)
  · exact ⟨s.restartWarm_receivers seq, s.restartWarm_pool seq, by rw [s.restartWarm_trunk]; rfl,
      fun d => by rw [s.restartWarm_dropUnit, Drop.warmSettled_counters]⟩
  · exact ⟨s.restartReload_receivers seq, s.restartReload_pool seq, by rw [s.restartReload_trunk]; rfl,
      fun d => by rw [s.restartReload_dropUnit]; rfl⟩

end Sys2Proof.Machine
end

section
/-! PROOFS. What a record within the records length does to the load, and a DROP record to its drop (R176, R179). -/

namespace Sys2Proof.Machine

/-! ### A record within the records length -/

/-- The load moves past all the record's bytes and takes them into its check; the record is then acted on (R176). -/
theorem State.takeRecord_of_fits {s : State} {l : Load} {fields : List Byte} (hl : s.recordLoad = some l)
    (hfit : fields.length + 2 ≤ l.left) (type : Byte) (act : State → Load → State) :
    s.takeRecord type fields act
      = act (s.putLoad (l.read (type :: Byte.ofNat fields.length :: fields)))
          (l.read (type :: Byte.ofNat fields.length :: fields)) := by
  have hsome : l.left ≠ 0 := by omega
  have hwhole : ¬ l.left < (type :: Byte.ofNat fields.length :: fields).length := by
    simp only [List.length_cons]
    omega
  simp only [State.takeRecord, hl, if_neg hsome, if_neg hwhole]

/-! ### The coded bytes of a DROP record (R187) -/

theorem dropOf_eq {b : Byte} {d : DropId} (h : b.toNat = d.val) : dropOf b = d :=
  Fin.ext (by simp only [dropOf, Fin.ofNat, h, Nat.mod_eq_of_lt d.isLt])

theorem rateOf_eq {b : Byte} {r : Rate} (h : b.toNat = r.val) : rateOf b = r :=
  Fin.ext (by simp only [rateOf, Fin.ofNat, h, Nat.mod_eq_of_lt r.isLt])

/-! ### The record acted on -/

/-- Three good bytes give the drop its mode and its pending rate, and touch nothing else of it (R179). -/
theorem State.actDrop_of_codes {drop mode code : Byte} {d : DropId} {rate : Rate} (hd : drop.toNat = d.val)
    (hm : mode.toNat ≤ 1) (hr : code.toNat = rate.val) (s : State) (l : Load) :
    State.actDrop [drop, mode, code] s l
      = s.mapDrop d (fun x => { x with mode := modeOf mode, pendingRate := some rate }) := by
  have hgood : isDrop drop ∧ isFlag mode ∧ isRate code := by
    simp only [isDrop, isFlag, isRate, decide_eq_true_eq]
    omega
  simp only [State.actDrop, if_pos hgood, dropOf_eq hd, rateOf_eq hr]

/-- A record of another length, or with a byte out of its range, is skipped and counted (R179). -/
theorem State.actDrop_of_invalid {fields : List Byte} (h : fields.length ≠ 3 ∨ 3 < (byteAt fields 0).toNat
      ∨ 1 < (byteAt fields 1).toNat ∨ 7 < (byteAt fields 2).toNat) (s : State) (l : Load) :
    State.actDrop fields s l = s.skipRecord := by
  unfold State.actDrop
  split
  case h_1 drop mode code =>
    have hrange : 3 ≠ 3 ∨ 3 < drop.toNat ∨ 1 < mode.toNat ∨ 7 < code.toNat := h
    have hbad : ¬ (isDrop drop ∧ isFlag mode ∧ isRate code) := by
      simp only [isDrop, isFlag, isRate, decide_eq_true_eq]
      omega
    exact if_neg hbad
  case h_2 => rfl

/-- Settles O49: the record is read whole, and its act is then the drop's new mode and pending rate, or the skip. -/
theorem dropRecord : Obligations.DropRecord := by
  rintro s l fields image hl hfit rfl
  have hexec : exec (.dropRecord fields) s
      = .next (State.actDrop fields (s.putLoad (l.read (0x52#8 :: Byte.ofNat fields.length :: fields)))
          (l.read (0x52#8 :: Byte.ofNat fields.length :: fields))) :=
    congrArg Host.Outcome.next (State.takeRecord_of_fits hl hfit typeDrop (State.actDrop fields))
  rw [hexec]
  constructor
  · rintro d rate drop mode code rfl hd hr hm
    rw [State.actDrop_of_codes hd hm hr]
    rfl
  · intro hbad
    rw [State.actDrop_of_invalid hbad]
    rfl

end Sys2Proof.Machine
end

section
/-! PROOFS. The laws that are inductive by themselves: the pool's, the drop queues', the counts', the serial memory's, the
station table's and the settings'. `Upholds s t` says that each of them goes over from `s` to a later state `t`. Every
operation has one lemma, in the form of a further link of a chain of operations. -/

namespace Sys2Proof.Machine

set_option Elab.async false

/-! ### The laws, part by part -/

/-- The probe counts in their range (R36). -/
def ProbeLaw (s : State) : Prop := ∀ st ∈ s.stations, st.probe ≤ 15

/-- What PoolLaw says, of a pool. -/
def Pool.Lawful (p : Pool) : Prop :=
  p.free.Nodup ∧ (∀ b : BufId, b ∈ p.free ↔ p.buffers[b] = none)
    ∧ ∀ (b : BufId) (x : Buffer), p.buffers[b] = some x → 1 ≤ x.count

theorem poolLaw_iff (s : State) : PoolLaw s ↔ s.pool.Lawful := Iff.rfl

/-- What QueueLaw says, of a drop queue. -/
def QueueGood (q : List Item) : Prop :=
  q.length ≤ Config.queueRoom ∧ q.Pairwise (fun x y => x.cls = .routine → y.cls = .routine)

theorem queueLaw_iff (s : State) : QueueLaw s ↔ ∀ d : DropId, QueueGood (s.dropUnit d).queue := Iff.rfl

/-- The counts of an entry in their ranges. -/
def Station.CountsGood (st : Station) : Prop := st.done ≤ 65535 ∧ st.failed ≤ 65535 ∧ st.miss ≤ 15

/-- The liveness of an entry as R38 derives it, and its probe count 0 unless it is DOWN. -/
def Station.LivenessGood (threshold : Nat) (st : Station) : Prop :=
  st.liveness = livenessOf threshold st.miss ∧ (st.liveness ≠ .down → st.probe = 0)

/-- The configuration of an entry in its ranges. -/
def Station.ConfigGood (st : Station) : Prop :=
  2 ≤ st.window ∧ st.window ≤ 255 ∧ st.retryLimit ≤ 3 ∧ 1 ≤ st.fetchInterval ∧ st.fetchInterval ≤ 255
    ∧ 1 ≤ st.fetchLimit ∧ st.fetchLimit ≤ 255
    ∧ ∀ a, st.aliasAddr = some a → stationAddress a = true ∧ a ≠ st.address

/-- The settings in force in their ranges. -/
def Settings.Good (x : Settings) : Prop :=
  stationAddress x.ownAddress = true ∧ 1 ≤ x.downThreshold ∧ x.downThreshold ≤ 15 ∧ 1 ≤ x.probeRatio
    ∧ x.probeRatio ≤ 16 ∧ 1 ≤ x.urgentLimit ∧ x.urgentLimit ≤ 8

/-! ### The saturating counts -/

@[simp] theorem bump_le {n : Nat} : bump n ≤ 65535 ↔ n ≤ 65535 := by
  unfold bump; split <;> simp_all [Config.counterMax]; omega

@[simp] theorem bumpRun_le {n : Nat} : bumpRun n ≤ 8 ↔ n ≤ 8 := by unfold bumpRun; split <;> omega

@[simp] theorem bumpSkipped_le {n : Nat} : bumpSkipped n ≤ 255 ↔ n ≤ 255 := by unfold bumpSkipped; split <;> omega

@[simp] theorem bumpMiss_le {n : Nat} : bumpMiss n ≤ 15 ↔ n ≤ 15 := by unfold bumpMiss; split <;> omega

/-! ### The pool's operations -/

theorem Pool.Lawful.cold : Pool.cold.Lawful := by
  refine ⟨List.nodup_finRange 40, fun b => ?_, fun b x h => ?_⟩
  · exact ⟨fun _ => (Pool.cold_all_free b).1, fun _ => (Pool.cold_all_free b).2⟩
  · rw [(Pool.cold_all_free b).1] at h; cases h

/-- A HELD buffer set to another content or another count, not 0. -/
theorem Pool.Lawful.set_some {p : Pool} (h : p.Lawful) {b : BufId} {old : Buffer} (hb : p.buffers[b] = some old)
    {new : Buffer} (hn : 1 ≤ new.count) : Pool.Lawful { p with buffers := p.buffers.set b (some new) } := by
  obtain ⟨hnodup, hfree, hcount⟩ := h
  refine ⟨hnodup, fun c => ?_, fun c x hx => ?_⟩
  · by_cases hcb : c = b
    · subst hcb; simp [hfree c, hb]
    · have : b.val ≠ c.val := fun hv => hcb (Fin.ext hv.symm)
      simpa [this] using hfree c
  · by_cases hcb : c = b
    · subst hcb; simp at hx; exact hx ▸ hn
    · have : b.val ≠ c.val := fun hv => hcb (Fin.ext hv.symm)
      simp [this] at hx
      exact hcount c x hx

theorem Pool.Lawful.hold {p : Pool} (h : p.Lawful) (b : BufId) : (p.hold b).Lawful := by
  unfold Pool.hold
  split
  · exact h
  · next buf hb => exact h.set_some hb (by simp)

theorem Pool.Lawful.write {p : Pool} (h : p.Lawful) (b : BufId) (c : List Byte) : (p.write b c).Lawful := by
  unfold Pool.write
  split
  · exact h
  · next buf hb => exact h.set_some hb (h.2.2 b buf hb)

/-- A HELD buffer freed goes to the tail of the free list. -/
theorem Pool.Lawful.freed {p : Pool} (h : p.Lawful) {b : BufId} {old : Buffer} (hb : p.buffers[b] = some old) :
    (p.freed b).Lawful := by
  obtain ⟨hnodup, hfree, hcount⟩ := h
  have hnot : b ∉ p.free := by simp [hfree b, hb]
  refine ⟨?_, fun c => ?_, fun c x hx => ?_⟩
  · simpa [Pool.freed, List.nodup_append] using ⟨hnodup, fun a ha => by rintro rfl; exact hnot ha⟩
  · by_cases hcb : c = b
    · subst hcb; simp [Pool.freed]
    · have : b.val ≠ c.val := fun hv => hcb (Fin.ext hv.symm)
      simpa [Pool.freed, this, hcb] using hfree c
  · by_cases hcb : c = b
    · subst hcb; simp [Pool.freed] at hx
    · have : b.val ≠ c.val := fun hv => hcb (Fin.ext hv.symm)
      simp [Pool.freed, this] at hx
      exact hcount c x hx

theorem Pool.Lawful.release {p : Pool} (h : p.Lawful) (b : BufId) : (p.release b).Lawful := by
  unfold Pool.release
  split
  · exact h
  · next buf hb =>
    split
    · exact h.freed hb
    · exact h.set_some hb (by simp; omega)

/-- The head of the free list given out. -/
theorem Pool.Lawful.taken {p : Pool} (h : p.Lawful) {b : BufId} {rest : List BufId} (hf : p.free = b :: rest) :
    (p.taken b rest).Lawful := by
  obtain ⟨hnodup, hfree, hcount⟩ := h
  rw [hf] at hnodup
  obtain ⟨hb, hrest⟩ := List.nodup_cons.1 hnodup
  refine ⟨hrest, fun c => ?_, fun c x hx => ?_⟩
  · by_cases hcb : c = b
    · subst hcb; simpa [Pool.taken] using hb
    · have : b.val ≠ c.val := fun hv => hcb (Fin.ext hv.symm)
      simpa [Pool.taken, this, hf, hcb] using hfree c
  · by_cases hcb : c = b
    · subst hcb; simp [Pool.taken] at hx; exact hx ▸ Nat.le_refl 1
    · have : b.val ≠ c.val := fun hv => hcb (Fin.ext hv.symm)
      simp [Pool.taken, this] at hx
      exact hcount c x hx

/-- A take succeeds exactly on a free list with a head, and gives it out. -/
theorem Pool.take_some {p q : Pool} {b : BufId} (h : p.take = some (b, q)) :
    ∃ rest, p.free = b :: rest ∧ q = p.taken b rest := by
  unfold Pool.take at h
  split at h
  · cases h
  · next c rest hf => cases h; exact ⟨rest, hf, rfl⟩

/-! ### The drop queue's operations -/

theorem QueueGood.nil : QueueGood [] := ⟨by simp, List.Pairwise.nil⟩

theorem QueueGood.filter {q : List Item} (h : QueueGood q) (p : Item → Bool) : QueueGood (q.filter p) :=
  ⟨Nat.le_trans (List.length_filter_le p q) h.1, h.2.filter p⟩

theorem QueueGood.tail {it : Item} {rest : List Item} (h : QueueGood (it :: rest)) : QueueGood rest :=
  ⟨by have := h.1; simp at this; omega, (List.pairwise_cons.1 h.2).2⟩

theorem enqueue_length (it : Item) (q : List Item) : (enqueue it q).length = q.length + 1 := by
  unfold enqueue
  split
  · simp
  · have h := congrArg List.length (List.takeWhile_append_dropWhile (p := fun x => decide (x.cls = .urgent)) (l := q))
    rw [List.length_append] at h
    rw [List.length_append, List.length_cons]
    omega

/-- The routine items all stand behind the urgent ones, so that from the first routine item on all are routine. -/
theorem dropWhile_urgent_routine {q : List Item} (h : q.Pairwise (fun x y => x.cls = .routine → y.cls = .routine)) :
    ∀ x ∈ q.dropWhile (fun x => decide (x.cls = .urgent)), x.cls = .routine := by
  induction q with
  | nil => simp
  | cons y ys ih =>
    obtain ⟨hy, hys⟩ := List.pairwise_cons.1 h
    cases hc : y.cls with
    | urgent => simpa [hc] using ih hys
    | routine => simpa [hc] using fun x hx => hy x hx hc

/-- An item joins with the queue's order kept (R74). -/
theorem QueueGood.enqueue {q : List Item} (h : QueueGood q) (hroom : q.length < Config.queueRoom) (it : Item) :
    QueueGood (enqueue it q) := by
  refine ⟨by rw [enqueue_length]; omega, ?_⟩
  unfold Machine.enqueue
  split
  · next hc => exact List.pairwise_append.2 ⟨h.2, by simp, fun _ _ x hx _ => by simp at hx; exact hx ▸ hc⟩
  · next hc =>
    have hurgent : ∀ x ∈ q.takeWhile (fun x => decide (x.cls = .urgent)), x.cls = .urgent := fun x hx => by
      simpa using List.mem_takeWhile_imp hx
    have hroutine := dropWhile_urgent_routine h.2
    refine List.pairwise_append.2 ⟨h.2.sublist (List.takeWhile_sublist _), List.pairwise_cons.2
      ⟨fun x hx _ => hroutine x hx, h.2.sublist (List.dropWhile_sublist _)⟩, fun x hx y _ hr => ?_⟩
    rw [hurgent x hx] at hr
    cases hr

/-! ### The entries' running fields -/

/-- What the traffic on the lines makes of an entry: its configuration stays, and its running fields stay within their
laws under the settings in force. -/
structure Station.Ran (x : Settings) (y z : Station) : Prop where
  config : z = { y with
    miss := z.miss, liveness := z.liveness, probe := z.probe, noticePending := z.noticePending, done := z.done
    failed := z.failed }
  counts : y.CountsGood → z.CountsGood
  liveness : y.LivenessGood x.downThreshold → z.LivenessGood x.downThreshold
  probe : x.probeRatio ≤ 16 → y.probe ≤ 15 → z.probe ≤ 15

theorem Station.Ran.refl (x : Settings) (y : Station) : y.Ran x y := ⟨rfl, id, id, fun _ => id⟩

theorem Station.Ran.notice (x : Settings) (y : Station) (n : Bool) : y.Ran x { y with noticePending := n } :=
  ⟨rfl, id, id, fun _ => id⟩

theorem Station.Ran.done (x : Settings) (y : Station) : y.Ran x { y with done := bump y.done } :=
  ⟨rfl, fun h => by simpa [Station.CountsGood] using h, id, fun _ => id⟩

theorem Station.Ran.failed (x : Settings) (y : Station) : y.Ran x { y with failed := bump y.failed } :=
  ⟨rfl, fun h => by simpa [Station.CountsGood] using h, id, fun _ => id⟩

/-- What a derivation anew gives: the liveness of R38, and the probe count and the notice set by R41 and R44. -/
theorem Station.rederive_eq (y : Station) (n : Nat) :
    y.rederive n = { y with
      liveness := livenessOf n y.miss
      probe := if crossesDown y.liveness (livenessOf n y.miss) then 0 else y.probe
      noticePending := if crossesDown y.liveness (livenessOf n y.miss) then true else y.noticePending } := by
  simp only [Station.rederive]
  split <;> simp_all

/-- A derivation anew makes the liveness right, where the probe count was right for the liveness before. -/
theorem Station.rederive_good {y : Station} (n : Nat) (h : y.liveness ≠ .down → y.probe = 0) :
    (y.rederive n).LivenessGood n := by
  rw [Station.rederive_eq]
  refine ⟨rfl, fun hd => ?_⟩
  simp only at hd ⊢
  split
  · rfl
  · next hc => exact h (fun hy => by simp [crossesDown, hy, hd] at hc)

/-- The miss count set keeps an entry's laws, if the count is in its range. -/
theorem Station.Ran.setMiss (x : Settings) (y : Station) {n : Nat} (hn : y.miss ≤ 15 → n ≤ 15) :
    y.Ran x (y.setMiss x.downThreshold n) := by
  refine ⟨?_, fun h => ?_, fun h => ?_, fun _ h => ?_⟩
  · simp only [Station.setMiss, Station.rederive_eq]
  · simpa [Station.setMiss, Station.rederive_eq, Station.CountsGood] using ⟨h.1, h.2.1, hn h.2.2⟩
  · exact Station.rederive_good _ (y := { y with miss := n }) h.2
  · simp only [Station.setMiss, Station.rederive_eq]
    split
    · exact Nat.zero_le _
    · exact h

theorem Station.Ran.trans {x : Settings} {y z w : Station} (h : y.Ran x z) (k : z.Ran x w) : y.Ran x w := by
  refine ⟨?_, k.counts ∘ h.counts, k.liveness ∘ h.liveness, fun hr => k.probe hr ∘ h.probe hr⟩
  have hz := h.config
  have hw := k.config
  rw [hz] at hw
  exact hw

@[simp] theorem Station.setMiss_failed (y : Station) (n m : Nat) : (y.setMiss n m).failed = y.failed := by
  simp [Station.setMiss, Station.rederive_eq]

/-- The miss count and the failed count raised together. -/
theorem Station.Ran.missed (x : Settings) (y : Station) :
    y.Ran x { y.setMiss x.downThreshold (bumpMiss y.miss) with failed := bump y.failed } := by
  have h := (Station.Ran.setMiss x y bumpMiss_le.2).trans (.failed x _)
  rwa [Station.setMiss_failed] at h

/-- What a closure without answer moves (R45, R123). -/
theorem Station.Ran.closed (x : Settings) (y : Station) (r : ClosureReason) : y.Ran x (y.closed x.downThreshold r) := by
  cases r
  case silent => exact Station.Ran.missed x y
  case fetchLimit => exact Station.Ran.missed x y
  case dropDisabled => exact .failed x y
  case dropFault => exact .failed x y
  all_goals exact .refl x y

/-- What the liveness test moves (R43): a probe count is raised only below the ratio. -/
theorem Station.Ran.probed (x : Settings) (y : Station) : y.Ran x (y.probed x.probeRatio) := by
  unfold Station.probed
  split
  · exact .refl x y
  · exact ⟨rfl, id, fun h => ⟨h.1, fun _ => rfl⟩, fun _ _ => Nat.zero_le _⟩
  · next htest =>
    have htest : y.liveness = .down ∧ y.probe < x.probeRatio - 1 := by
      unfold Station.livenessTest at htest
      split at htest
      · split at htest
        · cases htest
        · exact ⟨‹_›, by omega⟩
      · cases htest
    exact ⟨rfl, id, fun h => ⟨h.1, fun hd => absurd htest.1 hd⟩, fun hr _ => by simp only; omega⟩

/-! ### The table as a list -/

/-- What TableShape says, of a list of entries. -/
def TableGood (l : List Station) : Prop :=
  l.length ≤ Config.tableRoom
    ∧ l.Pairwise (fun x y => x.address.toNat < y.address.toNat)
    ∧ (∀ st ∈ l, stationAddress st.address = true)
    ∧ l.Pairwise (fun x y => x.drop = y.drop → x.lineAddress ≠ y.lineAddress)

theorem tableShape_iff (s : State) : TableShape s ↔ TableGood s.stations := Iff.rfl

theorem TableGood.nil : TableGood [] := by simp [TableGood]

/-- Entries changed in what the table law does not read. -/
theorem TableGood.map {l : List Station} (h : TableGood l) {f : Station → Station}
    (hf : ∀ y ∈ l, (f y).address = y.address ∧ (f y).drop = y.drop ∧ (f y).lineAddress = y.lineAddress) :
    TableGood (l.map f) := by
  obtain ⟨hlen, hsort, haddr, hline⟩ := h
  refine ⟨by simpa using hlen, List.pairwise_map.2 (hsort.imp_of_mem ?_), ?_, List.pairwise_map.2 (hline.imp_of_mem ?_)⟩
  · intro a b ha hb hab
    rw [(hf a ha).1, (hf b hb).1]
    exact hab
  · intro st hst
    obtain ⟨y, hy, rfl⟩ := List.mem_map.1 hst
    rw [(hf y hy).1]
    exact haddr y hy
  · intro a b ha hb hab
    rw [(hf a ha).2.1, (hf b hb).2.1, (hf a ha).2.2, (hf b hb).2.2]
    exact hab

theorem TableGood.filter {l : List Station} (h : TableGood l) (p : Station → Bool) : TableGood (l.filter p) :=
  ⟨Nat.le_trans (List.length_filter_le p l) h.1, h.2.1.filter p, fun st hst => h.2.2.1 st (List.mem_of_mem_filter hst),
    h.2.2.2.filter p⟩

/-- An entry of a table is the one of its address. -/
theorem TableGood.unique {l : List Station} (h : TableGood l) {x y : Station} (hx : x ∈ l) (hy : y ∈ l)
    (ha : x.address = y.address) : x = y := by
  have hnodup : (l.map Station.address).Nodup := List.pairwise_map.2
    (h.2.1.imp fun {a b} hlt heq => by rw [heq] at hlt; exact Nat.lt_irrefl _ hlt)
  exact List.inj_on_of_nodup_map hnodup hx hy ha

end Sys2Proof.Machine
end

section
/-! PROOFS. An entry put into the table keeps it a table (R35, R47, R178). -/

namespace Sys2Proof.Machine

set_option Elab.async false

/-! ### An entry put at its place -/

/-- Entries in ascending address order (R35). -/
def AddressSorted (l : List Station) : Prop := l.Pairwise (fun x y => x.address.toNat < y.address.toNat)

/-- The table with an entry put in is the entry and the others of another address. -/
theorem insertStation_perm (st : Station) {l : List Station} (h : AddressSorted l) :
    (insertStation st l).Perm (st :: l.filter (fun x => decide (x.address ≠ st.address))) := by
  induction l with
  | nil => simp [insertStation]
  | cons x xs ih =>
    obtain ⟨hx, hxs⟩ := List.pairwise_cons.1 h
    have hbeyond : st.address.toNat ≤ x.address.toNat → xs.filter (fun y => decide (y.address ≠ st.address)) = xs :=
      fun hle => List.filter_eq_self.2 fun y hy => by
        have := hx y hy
        simp only [decide_eq_true_eq]
        rintro heq
        rw [heq] at this
        omega
    unfold insertStation
    split
    · next hlt =>
      have hne : x.address ≠ st.address := fun heq => by rw [heq] at hlt; omega
      simp only [List.filter_cons_of_pos (p := fun x : Station => decide (x.address ≠ st.address)) (by simpa using hne),
        hbeyond (by omega)]
      exact .refl _
    · split
      · next heq =>
        simp only [List.filter_cons_of_neg (p := fun x : Station => decide (x.address ≠ st.address))
          (by simpa using heq.symm), hbeyond (by rw [heq])]
        exact .refl _
      · next hne =>
        simp only [List.filter_cons_of_pos (p := fun x : Station => decide (x.address ≠ st.address))
          (by simpa using fun heq => hne heq.symm)]
        exact ((ih hxs).cons x).trans (List.Perm.swap st x _)

theorem mem_insertStation {st y : Station} {l : List Station} (h : AddressSorted l) :
    y ∈ insertStation st l ↔ y = st ∨ (y ∈ l ∧ y.address ≠ st.address) := by
  simp [(insertStation_perm st h).mem_iff]

/-- What stands in the table after an entry was put in is that entry or stood in it before. -/
theorem mem_of_mem_insertStation {st y : Station} {l : List Station} (h : y ∈ insertStation st l) : y = st ∨ y ∈ l := by
  induction l with
  | nil => simpa [insertStation] using h
  | cons x xs ih =>
    unfold insertStation at h
    split at h
    · simpa using h
    · split at h
      · simp only [List.mem_cons] at h ⊢; tauto
      · simp only [List.mem_cons] at h ⊢; tauto

theorem insertStation_sorted (st : Station) {l : List Station} (h : AddressSorted l) :
    AddressSorted (insertStation st l) := by
  induction l with
  | nil => simp [insertStation, AddressSorted]
  | cons x xs ih =>
    obtain ⟨hx, hxs⟩ := List.pairwise_cons.1 h
    unfold insertStation
    split
    · next hlt =>
      refine List.pairwise_cons.2 ⟨fun y hy => ?_, h⟩
      rcases List.mem_cons.1 hy with rfl | hy
      · exact hlt
      · exact Nat.lt_trans hlt (hx y hy)
    · next hge =>
      split
      · next heq => exact List.pairwise_cons.2 ⟨fun y hy => heq ▸ hx y hy, hxs⟩
      · next hne =>
        refine List.pairwise_cons.2 ⟨fun y hy => ?_, ih hxs⟩
        rcases (mem_insertStation hxs).1 hy with rfl | ⟨hy, -⟩
        · have : y.address.toNat ≠ x.address.toNat := fun heq => hne (BitVec.eq_of_toNat_eq heq)
          omega
        · exact hx y hy

/-- The table law with an entry put in that has a station address, room and a line address of its own (R35, R37). -/
theorem TableGood.insert {l : List Station} (h : TableGood l) {st : Station} (ha : stationAddress st.address = true)
    (hroom : l.length < Config.tableRoom ∨ ∃ y ∈ l, y.address = st.address)
    (hline : ∀ y ∈ l, y.address ≠ st.address → y.drop = st.drop → y.lineAddress ≠ st.lineAddress) :
    TableGood (insertStation st l) := by
  obtain ⟨hlen, hsort, haddr, hlines⟩ := h
  have hperm := insertStation_perm st hsort
  refine ⟨?_, insertStation_sorted st hsort, fun y hy => ?_, ?_⟩
  · rw [hperm.length_eq, List.length_cons]
    rcases hroom with hroom | ⟨y, hy, heq⟩
    · exact Nat.lt_of_le_of_lt (List.length_filter_le _ _) hroom
    · refine Nat.lt_of_lt_of_le (List.length_filter_lt_length_iff_exists.2 ⟨y, hy, ?_⟩) hlen
      simpa using heq
  · rcases mem_of_mem_insertStation hy with rfl | hy
    · exact ha
    · exact haddr y hy
  · refine (hperm.pairwise_iff fun {a b} hab hd hl => hab hd.symm hl.symm).2
      (List.pairwise_cons.2 ⟨fun y hy hd hl => ?_, hlines.filter _⟩)
    obtain ⟨hy, hne⟩ := List.mem_filter.1 hy
    exact hline y hy (by simpa using hne) hd.symm hl.symm

/-- No other entry on the drop has the line address (R37). -/
theorem State.lineAddressTaken_false {s : State} {st : Station} : s.lineAddressTaken st = false
    ↔ ∀ y ∈ s.stations, y.address ≠ st.address → y.drop = st.drop → y.lineAddress ≠ st.lineAddress := by
  simp [State.lineAddressTaken]

/-- Every entry of one address changed alike, to a line address of its own. -/
theorem TableGood.change {l : List Station} (h : TableGood l) {old : Station} (hold : old ∈ l) {f : Station → Station}
    (hf : (f old).address = old.address)
    (hline : ∀ y ∈ l, y.address ≠ old.address → y.drop = (f old).drop → y.lineAddress ≠ (f old).lineAddress) :
    TableGood (l.map (fun x => if x.address = old.address then f x else x)) := by
  have hcase : ∀ y ∈ l, (y.address = old.address ∧ y = old) ∨ (y.address ≠ old.address) := fun y hy => by
    by_cases hy' : y.address = old.address
    · exact .inl ⟨hy', h.unique hy hold hy'⟩
    · exact .inr hy'
  have haddress : ∀ y ∈ l, (if y.address = old.address then f y else y).address = y.address := fun y hy => by
    rcases hcase y hy with ⟨-, rfl⟩ | hne
    · simp [hf]
    · simp [hne]
  obtain ⟨hlen, hsort, haddr, hlines⟩ := h
  refine ⟨by simpa using hlen, List.pairwise_map.2 (hsort.imp_of_mem ?_), ?_, List.pairwise_map.2
    ((hsort.and hlines).imp_of_mem ?_)⟩
  · intro a b ha hb hab
    rw [haddress a ha, haddress b hb]
    exact hab
  · intro st hst
    obtain ⟨y, hy, rfl⟩ := List.mem_map.1 hst
    rw [haddress y hy]
    exact haddr y hy
  · rintro a b ha hb ⟨hlt, hab⟩
    rcases hcase a ha with ⟨-, rfl⟩ | hna <;> rcases hcase b hb with ⟨-, rfl⟩ | hnb
    · exact absurd hlt (Nat.lt_irrefl _)
    · simpa [hnb] using fun hd hl => hline b hb hnb hd.symm hl.symm
    · simpa [hna] using hline a ha hna
    · simpa [hna, hnb] using hab

/-! ### The ranges of the fields -/

/-- A field in its range, as the operands' tests say it. -/
theorem ifGiven_iff {o : Option Byte} {p : Byte → Bool} : ifGiven o p = true ↔ ∀ b, o = some b → p b = true := by
  cases o <;> simp [ifGiven]

/-- What the range tests of the station fields say (R36, R189). -/
theorem StationFields.quantitiesGood_iff (f : StationFields) : f.quantitiesGood = true ↔
    (∀ v, f.window = some v → 2 ≤ v.toNat) ∧ (∀ v, f.retryLimit = some v → v.toNat ≤ 3)
      ∧ (∀ v, f.fetchInterval = some v → 1 ≤ v.toNat) ∧ ∀ v, f.fetchLimit = some v → 1 ≤ v.toNat := by
  simp [StationFields.quantitiesGood, ifGiven_iff, and_assoc]

/-- What the range tests of the settings say (R160, R189). -/
theorem SettingsFields.quantitiesGood_iff (f : SettingsFields) : f.quantitiesGood = true ↔
    (∀ v, f.ownAddress = some v → stationAddress v = true)
      ∧ (∀ v, f.downThreshold = some v → 1 ≤ v.toNat ∧ v.toNat ≤ 15)
      ∧ (∀ v, f.probeRatio = some v → 1 ≤ v.toNat ∧ v.toNat ≤ 16)
      ∧ ∀ v, f.urgentLimit = some v → 1 ≤ v.toNat ∧ v.toNat ≤ 8 := by
  simp [SettingsFields.quantitiesGood, ifGiven_iff, and_assoc]

/-- Fields in their ranges put into an entry in its ranges (R36, R37). -/
theorem StationFields.applyTo_configGood {f : StationFields} {st : Station} (hq : f.quantitiesGood = true)
    (ha : ∀ v, f.aliasAddr = some v → v = 0x00#8 ∨ stationAddress v = true) (h : st.ConfigGood) :
    (f.applyTo st).ConfigGood := by
  obtain ⟨h1, h2, h3, h4, h5, h6, h7, h8⟩ := h
  obtain ⟨g1, g2, g3, g4⟩ := f.quantitiesGood_iff.1 hq
  have hbyte : ∀ v : Byte, v.toNat ≤ 255 := fun v => by have := v.isLt; omega
  refine ⟨?_, ?_, ?_, ?_, ?_, ?_, ?_, fun a hal => ?_⟩ <;> simp only [StationFields.applyTo] at *
  · cases hw : f.window with
    | none => exact h1
    | some v => exact g1 v hw
  · cases hw : f.window <;> simp [h2, hbyte]
  · cases hw : f.retryLimit with
    | none => exact h3
    | some v => exact g2 v hw
  · cases hw : f.fetchInterval with
    | none => exact h4
    | some v => exact g3 v hw
  · cases hw : f.fetchInterval <;> simp [h5, hbyte]
  · cases hw : f.fetchLimit with
    | none => exact h6
    | some v => exact g4 v hw
  · cases hw : f.fetchLimit <;> simp [h7, hbyte]
  · split at hal
    · exact h8 a hal
    · next v hv =>
      split at hal
      · cases hal
      · next hne =>
        cases hal
        exact ⟨(ha a hv).resolve_left fun h => hne (.inl h), fun h => hne (.inr h)⟩

/-- What the fields put into an entry leave of it: its address and its running fields. -/
@[simp] theorem StationFields.applyTo_keeps (f : StationFields) (st : Station) :
    (f.applyTo st).address = st.address ∧ (f.applyTo st).miss = st.miss ∧ (f.applyTo st).liveness = st.liveness
      ∧ (f.applyTo st).probe = st.probe ∧ (f.applyTo st).noticePending = st.noticePending
      ∧ (f.applyTo st).done = st.done ∧ (f.applyTo st).failed = st.failed := by
  simp [StationFields.applyTo]

theorem Station.fresh_configGood (a : Byte) (d : DropId) : (Station.fresh a d).ConfigGood := by
  simp [Station.ConfigGood, Station.fresh]

/-- The counts set to 0 change running fields only, and within their laws (R50). -/
theorem Station.Ran.clearCounts (x : Settings) (y : Station) (f : StationFields) :
    y.Ran x (f.clearCounts x.downThreshold y) := by
  have hmiss : y.Ran x (if f.miss.isSome then y.setMiss x.downThreshold 0 else y) := by
    split
    · exact .setMiss x y fun _ => Nat.zero_le _
    · exact .refl x y
  have hdone : ∀ z : Station, z.Ran x (if f.done.isSome then { z with done := 0 } else z) := fun z => by
    split
    · exact ⟨rfl, fun h => ⟨Nat.zero_le _, h.2⟩, id, fun _ => id⟩
    · exact .refl x z
  have hfailed : ∀ z : Station, z.Ran x (if f.failed.isSome then { z with failed := 0 } else z) := fun z => by
    split
    · exact ⟨rfl, fun h => ⟨h.1, Nat.zero_le _, h.2.2⟩, id, fun _ => id⟩
    · exact .refl x z
  exact (hmiss.trans (hdone _)).trans (hfailed _)

/-! What the configuration of an entry is after a change of its running fields. -/

theorem Station.Ran.address {x : Settings} {y z : Station} (h : y.Ran x z) : z.address = y.address := by rw [h.config]

theorem Station.Ran.drop {x : Settings} {y z : Station} (h : y.Ran x z) : z.drop = y.drop := by rw [h.config]

theorem Station.Ran.lineAddress {x : Settings} {y z : Station} (h : y.Ran x z) : z.lineAddress = y.lineAddress := by
  rw [h.config]; rfl

theorem Station.Ran.configGood {x : Settings} {y z : Station} (h : y.Ran x z) (hy : y.ConfigGood) : z.ConfigGood := by
  rw [h.config]; exact hy

end Sys2Proof.Machine
end

section
/-! PROOFS. `Upholds`: the laws that are inductive by themselves go over from a state to a later one. Each operation of
the model is one more link of such a chain. -/

namespace Sys2Proof.Machine

set_option Elab.async false

/-- From `s` to a later `t` each of the laws that are inductive by themselves goes over. -/
structure Upholds (s t : State) : Prop where
  pool : PoolLaw s → PoolLaw t
  queue : QueueLaw s → QueueLaw t
  count : CountLaw s → CountLaw t
  memory : MemoryLaw s → MemoryLaw t
  table : TableLaw s → TableLaw t
  range : RangeLaw s → RangeLaw t
  liveness : LivenessLaw s → LivenessLaw t
  probe : RangeLaw s → ProbeLaw s → ProbeLaw t
  exchange : ExchangeLaw s → ExchangeLaw t

namespace Upholds

variable {s u : State}

theorem refl (s : State) : Upholds s s := ⟨id, id, id, id, id, id, id, fun _ => id, id⟩

theorem trans {t : State} (h : Upholds s t) (k : Upholds t u) : Upholds s u :=
  ⟨k.pool ∘ h.pool, k.queue ∘ h.queue, k.count ∘ h.count, k.memory ∘ h.memory, k.table ∘ h.table, k.range ∘ h.range,
    k.liveness ∘ h.liveness, fun hr hp => k.probe (h.range hr) (h.probe hr hp), k.exchange ∘ h.exchange⟩

/-- A fold whose every step is one more link. -/
theorem foldl {α : Type} {f : State → α → State} {l : List α} (h : Upholds s u)
    (hf : ∀ v a, Upholds s v → Upholds s (f v a)) : Upholds s (l.foldl f u) := by
  induction l generalizing u with
  | nil => exact h
  | cons a l ih => exact ih (hf u a h)

/-! ### One field changed -/

theorem withNow (h : Upholds s u) {n : Nat} : Upholds s { u with now := n } :=
  ⟨h.pool, h.queue, h.count, h.memory, h.table, h.range, h.liveness, h.probe, h.exchange⟩

theorem withPool (h : Upholds s u) {p : Pool} (hp : u.pool.Lawful → p.Lawful) : Upholds s { u with pool := p } :=
  ⟨fun hs => hp (h.pool hs), h.queue, h.count, h.memory, h.table, h.range, h.liveness, h.probe, h.exchange⟩

/-- All records freed. -/
theorem withNoExchange (h : Upholds s u) : Upholds s { u with exchanges := Vector.replicate 16 none } :=
  ⟨h.pool, h.queue, h.count, h.memory, h.table, h.range, h.liveness, h.probe,
    fun _ t _ _ _ ht _ _ => by simp [State.exchange] at ht⟩

/-- A record put whose station, if it is open, stands in no other record. -/
theorem putExchange (h : Upholds s u) {t : Tag} {e : Option Exchange}
    (he : ∀ x, e = some x → ∀ v y, v ≠ t → u.exchange v = some y → ExchangeLaw u → y.station ≠ x.station) :
    Upholds s (u.putExchange t e) := by
  refine ⟨h.pool, h.queue, h.count, h.memory, h.table, h.range, h.liveness, h.probe, fun hs v w x y hv hw hxy => ?_⟩
  by_cases hvt : v = t <;> by_cases hwt : w = t
  · exact hvt.trans hwt.symm
  · subst hvt
    rw [State.exchange_putExchange_self] at hv
    rw [State.exchange_putExchange_ne _ _ hwt] at hw
    exact absurd hxy.symm (he x hv w y hwt hw (h.exchange hs))
  · subst hwt
    rw [State.exchange_putExchange_self] at hw
    rw [State.exchange_putExchange_ne _ _ hvt] at hv
    exact absurd hxy (he y hw v x hvt hv (h.exchange hs))
  · rw [State.exchange_putExchange_ne _ _ hvt] at hv
    rw [State.exchange_putExchange_ne _ _ hwt] at hw
    exact h.exchange hs v w x y hv hw hxy

/-- A record freed. -/
theorem freeExchange (h : Upholds s u) {t : Tag} : Upholds s (u.putExchange t none) := h.putExchange nofun

/-- An open record changed, but for its station. -/
theorem changeExchange (h : Upholds s u) {t : Tag} {e x : Exchange} (he : u.exchange t = some e)
    (hx : x.station = e.station := by rfl) : Upholds s (u.putExchange t (some x)) :=
  h.putExchange fun z hz v y hv hy hlaw hst => by
    obtain rfl := Option.some.inj hz
    exact hv (hlaw v t y e hy he (hst.trans hx))

theorem withTrunk (h : Upholds s u) {x : Trunk} (hx : u.trunk.counters.bounded → x.counters.bounded := by exact id) :
    Upholds s { u with trunk := x } :=
  ⟨h.pool, h.queue, fun hs => ⟨hx (h.count hs).1, (h.count hs).2⟩, h.memory, h.table, h.range, h.liveness, h.probe, h.exchange⟩

theorem withUpstream (h : Upholds s u) {x : Upstream} (hx : u.upstream.run ≤ 8 → x.run ≤ 8 := by exact id) :
    Upholds s { u with upstream := x } := by
  refine ⟨h.pool, h.queue, fun hs => ?_, h.memory, h.table, h.range, h.liveness, h.probe, h.exchange⟩
  obtain ⟨htrunk, hdrops, hstations, hrun, hskipped⟩ := h.count hs
  exact ⟨htrunk, hdrops, hstations, hx hrun, hskipped⟩

/-- The slot, the store state and the pending rate of the management unit stand in no law of these. -/
theorem withMgmt (h : Upholds s u) {x : Management} (hx : x.pendingAddress = u.mgmt.pendingAddress := by rfl) :
    Upholds s { u with mgmt := x } := by
  refine ⟨h.pool, h.queue, h.count, h.memory, fun hs => ?_, fun hs => ?_, h.liveness, h.probe, h.exchange⟩
  · obtain ⟨hshape, hload, hapart⟩ := h.table hs
    exact ⟨hshape, fun hc => hx.trans (hload hc), fun st hst => ⟨(hapart st hst).1, by simpa [hx] using (hapart st hst).2⟩⟩
  · obtain ⟨hset, hpend, hstaged, hconf⟩ := h.range hs
    exact ⟨hset, fun a ha => hpend a (hx.symm.trans ha), hstaged, hconf⟩

theorem withMemory (h : Upholds s u) {m : List Host.Cell} (hm : Memory.wf u.memory = true → Memory.wf m = true) :
    Upholds s { u with memory := m } :=
  ⟨h.pool, h.queue, h.count, fun hs => hm (h.memory hs), h.table, h.range, h.liveness, h.probe, h.exchange⟩

theorem withChance (h : Upholds s u) {n : Nat} : Upholds s { u with chance := n } :=
  ⟨h.pool, h.queue, h.count, h.memory, h.table, h.range, h.liveness, h.probe, h.exchange⟩

/-- All drops anew, each with a good queue and bounded counters where they were good and bounded. -/
theorem withDrops (h : Upholds s u) {x : Vector Drop 4}
    (hq : ∀ d : DropId, QueueGood (u.dropUnit d).queue → QueueGood x[d].queue)
    (hc : ∀ d : DropId, (u.dropUnit d).counters.bounded → x[d].counters.bounded) : Upholds s { u with drops := x } := by
  refine ⟨h.pool, fun hs d => hq d (h.queue hs d), fun hs => ?_, h.memory, h.table, h.range, h.liveness, h.probe, h.exchange⟩
  obtain ⟨htrunk, hdrops, hrest⟩ := h.count hs
  exact ⟨htrunk, fun d => hc d (hdrops d), hrest⟩

/-- Running fields of the entries changed. -/
theorem withRan (h : Upholds s u) {f : Station → Station} (hf : ∀ y : Station, y.Ran u.settings (f y)) :
    Upholds s { u with stations := u.stations.map f } := by
  have hmem : ∀ {p : Station → Prop}, (∀ y ∈ u.stations, p (f y)) → ∀ z ∈ u.stations.map f, p z :=
    fun hp z hz => by obtain ⟨y, hy, rfl⟩ := List.mem_map.1 hz; exact hp y hy
  refine ⟨h.pool, h.queue, fun hs => ?_, h.memory, fun hs => ?_, fun hs => ?_, fun hs => ?_, fun hr hs => ?_, h.exchange⟩
  · obtain ⟨htrunk, hdrops, hstations, hrest⟩ := h.count hs
    exact ⟨htrunk, hdrops, hmem fun y hy => (hf y).counts (hstations y hy), hrest⟩
  · obtain ⟨hshape, hload, hapart⟩ := h.table hs
    refine ⟨TableGood.map hshape fun y _ => ⟨(hf y).address, (hf y).drop, (hf y).lineAddress⟩, hload, hmem fun y hy => ?_⟩
    rw [(hf y).address]
    exact hapart y hy
  · obtain ⟨hset, hpend, hstaged, hconf⟩ := h.range hs
    exact ⟨hset, hpend, hstaged, hmem fun y hy => (hf y).configGood (hconf y hy)⟩
  · exact hmem fun y hy => (hf y).liveness (h.liveness hs y hy)
  · obtain ⟨⟨-, -, -, -, hratio, -⟩, -⟩ := h.range hr
    exact hmem fun y hy => (hf y).probe hratio (h.probe hr hs y hy)

/-- Some entries taken out of the table. -/
theorem withFilter (h : Upholds s u) {p : Station → Bool} : Upholds s { u with stations := u.stations.filter p } := by
  have hmem : ∀ {q : Station → Prop}, (∀ y ∈ u.stations, q y) → ∀ y ∈ u.stations.filter p, q y :=
    fun hq y hy => hq y (List.mem_of_mem_filter hy)
  refine ⟨h.pool, h.queue, fun hs => ?_, h.memory, fun hs => ?_, fun hs => ?_, fun hs => hmem (h.liveness hs),
    fun hr hs => hmem (h.probe hr hs), h.exchange⟩
  · obtain ⟨htrunk, hdrops, hstations, hrest⟩ := h.count hs
    exact ⟨htrunk, hdrops, hmem hstations, hrest⟩
  · obtain ⟨hshape, hload, hapart⟩ := h.table hs
    exact ⟨TableGood.filter hshape p, hload, hmem hapart⟩
  · obtain ⟨hset, hpend, hstaged, hconf⟩ := h.range hs
    exact ⟨hset, hpend, hstaged, hmem hconf⟩

/-! ### The pool and the drops -/

theorem advance (h : Upholds s u) {n : Nat} : Upholds s (u.advance n) := h.withNow

theorem hold (h : Upholds s u) {b : BufId} : Upholds s (u.hold b) := h.withPool (·.hold b)

theorem release (h : Upholds s u) {b : BufId} : Upholds s (u.release b) := h.withPool (·.release b)

theorem write (h : Upholds s u) {b : BufId} {c : List Byte} : Upholds s (u.write b c) := h.withPool (·.write b c)

theorem taken (h : Upholds s u) {b : BufId} {p : Pool} (hp : u.pool.take = some (b, p)) :
    Upholds s { u with pool := p } :=
  h.withPool fun hl => by
    obtain ⟨rest, hf, rfl⟩ := Pool.take_some hp
    exact hl.taken hf

theorem mapDrop (h : Upholds s u) {d : DropId} {f : Drop → Drop}
    (hq : QueueGood (u.dropUnit d).queue → QueueGood (f (u.dropUnit d)).queue := by exact id)
    (hc : (u.dropUnit d).counters.bounded → (f (u.dropUnit d)).counters.bounded := by exact id) :
    Upholds s (u.mapDrop d f) := by
  have hother : ∀ {e : DropId}, e ≠ d → (u.mapDrop d f).dropUnit e = u.dropUnit e := State.dropUnit_mapDrop_ne u f
  refine h.withDrops (fun e he => ?_) fun e he => ?_
  · change QueueGood ((u.mapDrop d f).dropUnit e).queue
    by_cases hed : e = d
    · subst hed; rw [State.dropUnit_mapDrop_self]; exact hq he
    · rw [hother hed]; exact he
  · change ((u.mapDrop d f).dropUnit e).counters.bounded
    by_cases hed : e = d
    · subst hed; rw [State.dropUnit_mapDrop_self]; exact hc he
    · rw [hother hed]; exact he

end Upholds
end Sys2Proof.Machine
end

section
/-! PROOFS. The states that an operation passes through, by name, and what the smallest changes of a drop leave of it. -/

namespace Sys2Proof.Machine

/-- A drop with its expiry counted and in GUARD, its exchange not yet expired (R87). -/
def State.expiryCounted (s : State) (d : DropId) : State :=
  (s.mapDropCounters d (fun c => { c with timeouts := bump c.timeouts })).mapDrop d
    (fun x => { x with line := .guard, expiryHeld := false })

/-- The exchange in service expired, where there is one. -/
def State.serviceExpired (s : State) (d : DropId) : State :=
  match (s.dropUnit d).serving with
  | some t => s.expireExchange t
  | none => s

theorem State.takeExpiry_eq (s : State) (d : DropId) :
    s.takeExpiry d = (((s.expiryCounted d).serviceExpired d).settleGuard d).arbitrate := rfl

/-- A drop whose EOF has been counted, its transmitter idle, the work it sent not yet dealt with (R79 to R81). -/
def State.eofCounted (s : State) (d : DropId) : State :=
  (s.mapDropCounters d (fun c => { c with sent := bump c.sent })).mapDrop d (fun x => { x with
    tx := .idle, lastChar := s.now
    breakSince := if x.rxSpace && decide (s.image.config ≠ .loading) then some s.now else none })

theorem State.dropFrameSent_eq (s : State) (d : DropId) : s.dropFrameSent d =
    match ((s.eofCounted d).dropUnit d).service with
    | none => (s.eofCounted d).mapDrop d (fun x => { x with line := .guard })
    | some it =>
      match it.work with
      | .notice _ => (s.eofCounted d).noticeSent d it.buffer
      | .exchange t =>
        match (s.eofCounted d).exchange t with
        | none => (s.eofCounted d).noticeSent d it.buffer
        | some e => (s.eofCounted d).exchangeSent d t e := rfl

/-- A drop that has heard a matching reply: the miss count at 0, GUARD (R85). -/
def State.replyHeard (s : State) (d : DropId) (e : Exchange) : State :=
  (s.mapStation e.station (fun st => st.setMiss s.settings.downThreshold 0)).mapDrop d
    (fun x => { x with line := .guard, expiryHeld := false })

theorem State.takeMatch_eq (s : State) (d : DropId) (t : Tag) (e : Exchange) (b : BufId) : s.takeMatch d t e b =
    if kindOf (s.content b) = kindAnswer then
      ((s.replyHeard d e).mapDropCounters d (fun c => { c with answers := bump c.answers })).closeByAnswer t b
    else ((s.replyHeard d e).release b).deferDecided t := rfl

/-- The exchange in service closed, where there is one. -/
def State.serviceClosed (s : State) (d : DropId) (r : ClosureReason) : State :=
  match (s.dropUnit d).serving with
  | some t => s.closeExchange t r
  | none => s

/-- The work in service and the queue ended, the queue empty (R91). -/
def State.queueCleared (s : State) (d : DropId) (first rest : ClosureReason) : State :=
  (((s.serviceClosed d first).dropUnit d).queue.foldl (State.clearItem rest) (s.serviceClosed d first)).mapDrop d
    (fun x => { x with queue := [] })

theorem State.closeWork_eq (s : State) (d : DropId) (first rest : ClosureReason) : s.closeWork d first rest =
    ((s.queueCleared d first rest).offLine d).foldl (fun s t => s.closeExchange t rest) (s.queueCleared d first rest) :=
  rfl

/-- A station's exchange closed or marked, where one is open for it (R118). -/
def State.exchangeForced (s : State) (a : Byte) : State :=
  match s.openFor a with
  | none => s
  | some t =>
    match s.exchange t with
    | none => s
    | some e => s.forceClose t e

/-- A station forced out: its exchange, its notices and its entry gone (R51, R157). -/
def State.stationForced (s : State) (a : Byte) : State :=
  ((List.finRange 4).foldl (State.dropNotices a) (s.exchangeForced a)).eraseStation a

theorem State.removeStation_eq (s : State) (a : Byte) (force : Bool) : s.removeStation a force =
    match s.station a with
    | none => (s, .noSuchStation)
    | some st =>
      if force then
        (if (s.dropUnit st.drop).line = .guard then s.stationForced a else (s.stationForced a).settleGuard st.drop,
          .done)
      else if s.inUse a then (s, .inUse)
      else (s.eraseStation a, .done) := rfl

/-- A frame begun anew in the same buffer, the old one counted (R8). -/
def State.startedOver (s : State) (l : Line) : State :=
  let u := match (s.rx l).slot with
    | some b => (s.countBroken l).write b []
    | none => s.countBroken l
  u.setRx l { s.rx l with count := 0, escape := false, gap := u.gapFrom l }

theorem State.restartFrame_trunk (s : State) : s.restartFrame .trunk = s.startedOver .trunk := rfl

theorem State.restartFrame_drop (s : State) (d : DropId) : s.restartFrame (.drop d) =
    if ((s.startedOver (.drop d)).dropUnit d).expiryHeld then (s.startedOver (.drop d)).afterFrame d
    else s.startedOver (.drop d) := rfl

/-- No record open for a station. -/
theorem State.openFor_none {s : State} {a : Byte} :
    s.openFor a = none ↔ ∀ t e, s.exchange t = some e → e.station ≠ a := by
  simp only [State.openFor, List.find?_eq_none, List.mem_finRange, forall_const, Option.any_eq_true,
    decide_eq_true_eq, not_exists, not_and, ne_eq]

/-- A SOF taken as a frame start changes the line state alone. -/
@[simp] theorem Drop.sofTaken_keeps (x : Drop) :
    x.sofTaken.mode = x.mode ∧ x.sofTaken.queue = x.queue ∧ x.sofTaken.service = x.service ∧ x.sofTaken.tx = x.tx
      ∧ x.sofTaken.rx = x.rx ∧ x.sofTaken.counters = x.counters ∧ x.sofTaken.expiryHeld = x.expiryHeld := by
  unfold Drop.sofTaken; split <;> simp

/-- A break found changes the level and the measures alone. -/
@[simp] theorem Drop.breakFound_keeps (m : Bool) (n : Nat) (x : Drop) :
    (x.breakFound m n).mode = x.mode ∧ (x.breakFound m n).line = x.line ∧ (x.breakFound m n).queue = x.queue
      ∧ (x.breakFound m n).service = x.service ∧ (x.breakFound m n).tx = x.tx ∧ (x.breakFound m n).rx = x.rx
      ∧ (x.breakFound m n).counters = x.counters ∧ (x.breakFound m n).expiryHeld = x.expiryHeld
      ∧ (x.breakFound m n).rate = x.rate := by
  unfold Drop.breakFound; split <;> simp

end Sys2Proof.Machine
end

section
/-! PROOFS. The traffic on the lines keeps the laws that are inductive by themselves: one lemma per operation. -/

namespace Sys2Proof.Machine.Upholds

set_option Elab.async false

variable {s u : State}

/-! ### The shared operations -/

theorem mapExchange (h : Upholds s u) {t : Tag} {f : Exchange → Exchange} (hf : ∀ e, (f e).station = e.station) :
    Upholds s (u.mapExchange t f) := by
  unfold State.mapExchange
  cases he : u.exchange t with
  | none => exact h.freeExchange
  | some e => exact h.changeExchange he (hf e)

theorem mapStation (h : Upholds s u) {a : Byte} {f : Station → Station} (hf : ∀ y : Station, y.Ran u.settings (f y)) :
    Upholds s (u.mapStation a f) :=
  h.withRan fun y => by
    split
    · exact hf y
    · exact .refl _ y

theorem setRx (h : Upholds s u) {l : Line} {r : Receiver} : Upholds s (u.setRx l r) := by
  unfold State.setRx
  split
  · exact h.withTrunk
  · exact h.mapDrop

theorem mapTrunkCounters (h : Upholds s u) {f : TrunkCounters → TrunkCounters}
    (hf : ∀ c, c.bounded → (f c).bounded := by intro c hc; simpa [TrunkCounters.bounded] using hc) :
    Upholds s (u.mapTrunkCounters f) := h.withTrunk (hf _)

theorem mapDropCounters (h : Upholds s u) {d : DropId} {f : DropCounters → DropCounters}
    (hf : ∀ c, c.bounded → (f c).bounded := by intro c hc; simpa [DropCounters.bounded] using hc) :
    Upholds s (u.mapDropCounters d f) := h.mapDrop id (hf _)

theorem countBroken (h : Upholds s u) {l : Line} : Upholds s (u.countBroken l) := by
  unfold State.countBroken
  split
  · exact h.mapTrunkCounters
  · exact h.mapDropCounters

theorem countBad (h : Upholds s u) {l : Line} : Upholds s (u.countBad l) := by
  unfold State.countBad
  split
  · exact h.mapTrunkCounters
  · exact h.mapDropCounters

theorem dropFrame (h : Upholds s u) {l : Line} {next : RxState} : Upholds s (u.dropFrame l next) := by
  unfold State.dropFrame
  split
  · exact h.setRx
  · exact h.setRx.release

theorem queueUp (h : Upholds s u) {c : Class} {b : BufId} : Upholds s (u.queueUp c b) := by
  unfold State.queueUp
  split
  · exact h.withUpstream
  · exact h.withUpstream

theorem giveTrunk (h : Upholds s u) {src : TxSource} : Upholds s (u.giveTrunk src) := h.withTrunk

theorem giveRoutine (h : Upholds s u) {b : BufId} {rest : List BufId} : Upholds s (u.giveRoutine b rest) :=
  (h.withUpstream fun _ => Nat.zero_le _).giveTrunk

theorem giveUrgent (h : Upholds s u) {b : BufId} {rest : List BufId} : Upholds s (u.giveUrgent b rest) :=
  (h.withUpstream bumpRun_le.2).giveTrunk

theorem giveState (h : Upholds s u) {st : Station} : Upholds s (u.giveState st) :=
  ((h.mapStation fun y => .notice _ y false).withUpstream bumpRun_le.2).giveTrunk

theorem arbitrate (h : Upholds s u) : Upholds s u.arbitrate := by
  unfold State.arbitrate
  split
  · exact h
  · split
    · split
      · exact h.giveRoutine
      · exact h.giveUrgent
    · split
      · exact h.giveRoutine
      · exact h.giveState
    · exact h.giveRoutine
    · exact h.giveUrgent
    · exact h.giveState
    · exact h

/-! ### The ends of an exchange -/

theorem leaveService (h : Upholds s u) {d : DropId} {b : BufId} : Upholds s (u.leaveService d b) := h.mapDrop.release

theorem leaveQueue (h : Upholds s u) {d : DropId} {t : Tag} {b : BufId} : Upholds s (u.leaveQueue d t b) :=
  (h.mapDrop (·.filter _)).release

theorem endDropHold (h : Upholds s u) {t : Tag} {e : Exchange} : Upholds s (u.endDropHold t e) := by
  unfold State.endDropHold
  split
  · exact h.leaveQueue
  · exact h.leaveService
  · exact h.leaveService
  · exact h.leaveService
  · exact h
  · exact h

theorem closeExchange (h : Upholds s u) {t : Tag} {r : ClosureReason} : Upholds s (u.closeExchange t r) := by
  unfold State.closeExchange
  split
  · exact h
  · exact (h.write.hold.queueUp.release.endDropHold.mapStation fun y => .closed _ y r).freeExchange

theorem closeByAnswer (h : Upholds s u) {t : Tag} {b : BufId} : Upholds s (u.closeByAnswer t b) := by
  unfold State.closeByAnswer
  split
  · exact h
  · exact (h.write.release.endDropHold.queueUp.mapStation fun y => .done _ y).freeExchange

theorem deferExchange (h : Upholds s u) {t : Tag} : Upholds s (u.deferExchange t) := by
  unfold State.deferExchange
  split
  · exact h
  · next he => exact (h.changeExchange he).leaveService

theorem clearItem (h : Upholds s u) {r : ClosureReason} {it : Item} : Upholds s (u.clearItem r it) := by
  unfold State.clearItem
  split
  · exact h.closeExchange
  · exact h.release

theorem closeWork (h : Upholds s u) {d : DropId} {a b : ClosureReason} : Upholds s (u.closeWork d a b) := by
  have hserving : Upholds s (u.serviceClosed d a) := by
    unfold State.serviceClosed
    split
    · exact h.closeExchange
    · exact h
  exact ((hserving.foldl fun _ _ hv => hv.clearItem).mapDrop fun _ => .nil).foldl fun _ _ hv => hv.closeExchange

/-! ### The drop unit -/

theorem holdReceiver (h : Upholds s u) {d : DropId} {counted : Bool} : Upholds s (u.holdReceiver d counted) := by
  unfold State.holdReceiver
  split
  · refine dropFrame ?_
    split
    · exact h.countBroken
    · exact h
  · exact h.setRx

theorem startSending (h : Upholds s u) {d : DropId} {src : TxSource} : Upholds s (u.startSending d src) :=
  h.holdReceiver.mapDrop

theorem startFetch (h : Upholds s u) {d : DropId} {t : Tag} : Upholds s (u.startFetch d t) := by
  unfold State.startFetch
  split
  · exact h
  · next he => exact (h.changeExchange he).hold.mapDrop.startSending

theorem readdress (h : Upholds s u) {b : BufId} {a : Byte} : Upholds s (u.readdress b a) := h.write

theorem startItem (h : Upholds s u) {d : DropId} {it : Item} {rest : List Item}
    (hq : (u.dropUnit d).queue = it :: rest) : Upholds s (u.startItem d it rest) := by
  have htaken : Upholds s (u.mapDrop d (fun x => { x with queue := rest, service := some it, alternation := .queue })) :=
    h.mapDrop fun hgood => QueueGood.tail (hq ▸ hgood)
  unfold State.startItem
  refine startSending ?_
  split
  · split
    · exact htaken
    · next he => exact (htaken.changeExchange he).readdress
  · split
    · exact htaken
    · exact htaken.readdress

theorem chooseWork (h : Upholds s u) {d : DropId} : Upholds s (u.chooseWork d) := by
  unfold State.chooseWork
  split
  · split
    · exact h
    · exact h.startFetch
    · next hq => exact h.startItem hq
    · next hq =>
      split
      · exact h.startFetch
      · exact h.startItem hq
  · exact h

theorem applyRate (h : Upholds s u) {d : DropId} : Upholds s (u.applyRate d) := by
  unfold State.applyRate
  split
  · exact h
  · split
    · exact h.mapDrop
    · exact h.holdReceiver.mapDrop

theorem enterIdle (h : Upholds s u) {d : DropId} : Upholds s (u.enterIdle d) := h.mapDrop.applyRate.chooseWork

theorem retry (h : Upholds s u) {d : DropId} {t : Tag} {e : Exchange} (he : u.exchange t = some e) :
    Upholds s (u.retry d t e) := (h.changeExchange he).startSending

theorem endGuard (h : Upholds s u) {d : DropId} : Upholds s (u.endGuard d) := by
  unfold State.endGuard
  split
  · exact h.enterIdle
  · split
    · exact h.enterIdle
    · next he =>
      split
      · exact h.closeExchange.enterIdle
      · exact h.retry he

theorem settleGuard (h : Upholds s u) {d : DropId} : Upholds s (u.settleGuard d) := by
  unfold State.settleGuard
  split
  · exact h.endGuard
  · exact h

theorem startWindow (h : Upholds s u) {d : DropId} {t : Tag} {e x : Exchange} (he : u.exchange t = some e)
    (hx : x.station = e.station) : Upholds s (u.startWindow d t x) := by
  unfold State.startWindow
  exact (h.changeExchange he (by split <;> exact hx)).mapDrop

theorem expireExchange (h : Upholds s u) {t : Tag} : Upholds s (u.expireExchange t) := by
  unfold State.expireExchange
  split
  · exact h
  · next he =>
    split
    · exact h.closeExchange
    · split
      · split
        · exact h.closeExchange
        · exact h.deferExchange
      · split
        · exact h.changeExchange he
        · exact h.closeExchange

theorem takeExpiry (h : Upholds s u) {d : DropId} : Upholds s (u.takeExpiry d) := by
  have hcounted : Upholds s (u.expiryCounted d) := h.mapDropCounters.mapDrop
  have hexpired : Upholds s ((u.expiryCounted d).serviceExpired d) := by
    unfold State.serviceExpired
    split
    · exact hcounted.expireExchange
    · exact hcounted
  exact hexpired.settleGuard.arbitrate

theorem afterFrame (h : Upholds s u) {d : DropId} : Upholds s (u.afterFrame d) := by
  unfold State.afterFrame
  split
  · split
    · exact h.takeExpiry
    · exact h.mapDrop
  · exact h

theorem stray (h : Upholds s u) {d : DropId} {b : BufId} : Upholds s (u.stray d b) :=
  h.mapDropCounters.release.afterFrame

theorem deferDecided (h : Upholds s u) {t : Tag} : Upholds s (u.deferDecided t) := by
  unfold State.deferDecided
  split
  · exact h
  · split
    · exact h.closeExchange
    · split
      · exact h.closeExchange
      · exact h.deferExchange

theorem takeMatch (h : Upholds s u) {d : DropId} {t : Tag} {e : Exchange} {b : BufId} : Upholds s (u.takeMatch d t e b) := by
  have hheard : Upholds s (u.replyHeard d e) := (h.mapStation fun y => .setMiss _ y fun _ => Nat.zero_le _).mapDrop
  rw [State.takeMatch_eq]
  split
  · exact hheard.mapDropCounters.closeByAnswer
  · exact hheard.release.deferDecided

theorem matchFrame (h : Upholds s u) {d : DropId} {b : BufId} : Upholds s (u.matchFrame d b) := by
  unfold State.matchFrame
  split
  · exact h.stray
  · split
    · exact h.takeMatch.arbitrate
    · exact h.stray

theorem enterFault (h : Upholds s u) {d : DropId} : Upholds s (u.enterFault d) := h.holdReceiver.mapDrop.closeWork

theorem enterDisabled (h : Upholds s u) {d : DropId} {r : ClosureReason} : Upholds s (u.enterDisabled d r) :=
  h.holdReceiver.mapDrop.closeWork

theorem disableDrop (h : Upholds s u) {d : DropId} : Upholds s (u.disableDrop d) := by
  have hmode := h.mapDrop (d := d) (f := fun x => { x with mode := .disabled })
  unfold State.disableDrop
  simp only
  split
  · exact hmode
  · exact hmode
  · exact hmode
  · exact hmode.enterDisabled
  · exact hmode.enterDisabled
  · exact hmode.enterDisabled
  · exact hmode.enterDisabled

theorem enableDrop (h : Upholds s u) {d : DropId} : Upholds s (u.enableDrop d) := by
  have hmode := h.mapDrop (d := d) (f := fun x => { x with mode := .enabled })
  unfold State.enableDrop
  simp only
  split
  · exact hmode.enterIdle
  · split
    · exact hmode.mapExchange fun e => by unfold Exchange.disableWithdrawn; split <;> rfl
    · exact hmode
  · exact hmode
  · exact hmode
  · exact hmode
  · exact hmode
  · exact hmode

theorem setPendingRate (h : Upholds s u) {d : DropId} {r : Rate} : Upholds s (u.setPendingRate d r) := by
  have hrate := h.mapDrop (d := d) (f := fun x => { x with pendingRate := some r })
  unfold State.setPendingRate
  simp only
  split
  · exact hrate.enterIdle
  · exact hrate

theorem exchangeSent (h : Upholds s u) {d : DropId} {t : Tag} {e : Exchange} (he : u.exchange t = some e) :
    Upholds s (u.exchangeSent d t e) := by
  have hsent : Upholds s (u.putExchange t (some e.frameSent)) :=
    h.changeExchange he (by unfold Exchange.frameSent; split <;> rfl)
  unfold State.exchangeSent
  simp only
  split
  · exact hsent.enterDisabled
  · split
    · exact hsent.closeExchange.mapDrop
    · exact hsent.startWindow (State.exchange_putExchange_self ..) rfl

theorem noticeSent (h : Upholds s u) {d : DropId} {b : BufId} : Upholds s (u.noticeSent d b) := by
  unfold State.noticeSent
  simp only
  split
  · exact h.leaveService.enterDisabled
  · exact h.leaveService.mapDrop

theorem dropFrameSent (h : Upholds s u) {d : DropId} : Upholds s (u.dropFrameSent d) := by
  have hcounted : Upholds s (u.eofCounted d) := h.mapDropCounters.mapDrop
  rw [State.dropFrameSent_eq]
  split
  · exact hcounted.mapDrop
  · split
    · exact hcounted.noticeSent
    · split
      · exact hcounted.noticeSent
      · next he => exact hcounted.exchangeSent he

/-! ### Claims on the table that close or discard -/

theorem eraseStation (h : Upholds s u) {a : Byte} : Upholds s (u.eraseStation a) := h.withFilter

theorem forceClose (h : Upholds s u) {t : Tag} {e : Exchange} (he : u.exchange t = some e) :
    Upholds s (u.forceClose t e) := by
  unfold State.forceClose
  split
  · exact h.closeExchange
  · split
    · exact h.changeExchange he
    · exact h.closeExchange.mapDrop

theorem dropNotices (h : Upholds s u) {a : Byte} {d : DropId} : Upholds s (State.dropNotices a u d) :=
  (h.mapDrop (·.filter _)).foldl fun _ _ hv => hv.release

theorem stationForced (h : Upholds s u) {a : Byte} : Upholds s (u.stationForced a) := by
  have hclosed : Upholds s (u.exchangeForced a) := by
    unfold State.exchangeForced
    split
    · exact h
    · split
      · exact h
      · next he => exact h.forceClose he
  exact (hclosed.foldl fun _ _ hv => hv.dropNotices).eraseStation

theorem removeStation (h : Upholds s u) {a : Byte} {force : Bool} : Upholds s (u.removeStation a force).1 := by
  rw [State.removeStation_eq]
  split
  · exact h
  · split
    · simp only
      split
      · exact h.stationForced
      · exact h.stationForced.settleGuard
    · split
      · exact h
      · exact h.eraseStation

theorem cancelExchange (h : Upholds s u) {a : Byte} : Upholds s (u.cancelExchange a).1 := by
  unfold State.cancelExchange
  split
  · exact h
  · split
    · exact h.mapExchange fun _ => rfl
    · exact h.closeExchange

theorem setDrop (h : Upholds s u) {d : DropId} {mode : Option Mode} {rate : Option Rate} :
    Upholds s (u.setDrop d mode rate) := by
  have hmode : Upholds s (match mode with
      | none => u
      | some .disabled => u.disableDrop d
      | some .enabled => u.enableDrop d) := by
    split
    · exact h
    · exact h.disableDrop
    · exact h.enableDrop
  unfold State.setDrop
  simp only
  split
  · exact hmode
  · exact hmode.setPendingRate

/-! ### Trunk arrival -/

theorem refuse (h : Upholds s u) {b : BufId} {c : Class} {r : RefusalReason} : Upholds s (u.refuse b c r) :=
  h.write.mapTrunkCounters.queueUp

theorem fastFail (h : Upholds s u) {b : BufId} {c : Class} : Upholds s (u.fastFail b c) := h.write.queueUp

theorem joinQueue (h : Upholds s u) {d : DropId} {it : Item} (hroom : (u.dropUnit d).hasRoom = true) :
    Upholds s (u.joinQueue d it) :=
  h.mapDrop (·.enqueue (by simpa [Drop.hasRoom] using hroom) it)

theorem countDropped (h : Upholds s u) {d : DropId} : Upholds s (u.countDropped d) := h.mapDropCounters

theorem stationNotice (h : Upholds s u) {b : BufId} {st : Station} : Upholds s (u.stationNotice b st) := by
  unfold State.stationNotice
  simp only
  split
  · next hc => exact (h.joinQueue (by simp at hc; exact hc.2)).chooseWork
  · exact h.countDropped.release

theorem offerBroadcast (h : Upholds s u) {b : BufId} {d : DropId} : Upholds s (State.offerBroadcast b u d) := by
  unfold State.offerBroadcast
  simp only
  split
  · split
    · next hc => exact h.hold.joinQueue hc
    · exact h.countDropped
  · exact h

theorem broadcast (h : Upholds s u) {b : BufId} : Upholds s (u.broadcast b) :=
  (h.foldl fun _ _ hv => hv.offerBroadcast).release.foldl fun _ _ hv => hv.chooseWork

theorem openExchange (h : Upholds s u) {b : BufId} {st : Station} {t : Tag}
    (hroom : (u.dropUnit st.drop).hasRoom = true) (hopen : u.openFor st.address = none) :
    Upholds s (u.openExchange b st t) :=
  ((h.putExchange fun x hx v y _ hy _ => by
    obtain rfl := Option.some.inj hx
    exact State.openFor_none.1 hopen v y hy).hold.joinQueue hroom).chooseWork

theorem admitLate (h : Upholds s u) {b : BufId} {st : Station} (hopen : u.openFor st.address = none) :
    Upholds s (u.admitLate b st) := by
  unfold State.admitLate
  split
  · exact h.refuse
  · split
    · next hroom => exact h.openExchange hroom hopen
    · exact h.refuse

theorem admitRequest (h : Upholds s u) {b : BufId} {st : Station} : Upholds s (u.admitRequest b st) := by
  have hprobed := h.mapStation (a := st.address) fun y => .probed _ y
  unfold State.admitRequest
  simp only
  split
  · exact h.refuse
  · split
    · exact h.refuse
    · split
      · exact h.refuse
      · split
        · exact h.refuse
        · next hopen =>
          have hnone : u.openFor st.address = none := by simpa using hopen
          split
          · exact hprobed.admitLate hnone
          · exact hprobed.admitLate hnone
          · exact hprobed.fastFail

theorem loadingDisposal (h : Upholds s u) {b : BufId} : Upholds s (u.loadingDisposal b) := by
  unfold State.loadingDisposal
  split
  · exact h.refuse
  · exact h.release

theorem unknownDestination (h : Upholds s u) {b : BufId} : Upholds s (u.unknownDestination b) := by
  unfold State.unknownDestination
  split
  · exact h.refuse
  · exact h.mapTrunkCounters.release

theorem discardForeign (h : Upholds s u) {b : BufId} : Upholds s (u.discardForeign b) := h.mapTrunkCounters.release

theorem discardInvalid (h : Upholds s u) {b : BufId} : Upholds s (u.discardInvalid b) := h.mapTrunkCounters.release

/-! ### The receivers -/

theorem heard (h : Upholds s u) {m : Nat} {l : Line} : Upholds s (u.heard m l) := by
  unfold State.heard
  split
  · exact h
  · exact h.mapDrop

theorem frameLost (h : Upholds s u) {l : Line} : Upholds s (u.frameLost l) := by
  cases l
  case trunk => exact h
  case drop d => exact h.afterFrame

theorem abandon (h : Upholds s u) {l : Line} {next : RxState} : Upholds s (u.abandon l next) :=
  h.countBroken.dropFrame.frameLost

theorem beginFrame (h : Upholds s u) {l : Line} {b : BufId} : Upholds s (u.beginFrame l b) := by
  unfold State.beginFrame
  split
  · exact h.setRx
  · exact h.setRx.mapDrop (by simp) (by simp)

theorem refuseSof (h : Upholds s u) {l : Line} : Upholds s (u.refuseSof l) := by
  unfold State.refuseSof
  split
  · exact h.setRx.mapTrunkCounters
  · exact h

theorem acceptSof (h : Upholds s u) {l : Line} : Upholds s (u.acceptSof l) := by
  unfold State.acceptSof
  split
  · split
    · next hp => exact (h.taken hp).beginFrame
    · exact h.refuseSof
  · exact h.refuseSof

theorem restartFrame (h : Upholds s u) {l : Line} : Upholds s (u.restartFrame l) := by
  have hstarted : ∀ l, Upholds s (u.startedOver l) := fun l => by
    unfold State.startedOver
    refine setRx ?_
    split
    · exact h.countBroken.write
    · exact h.countBroken
  cases l
  case trunk => exact hstarted .trunk
  case drop d =>
    rw [State.restartFrame_drop]
    split
    · exact (hstarted _).afterFrame
    · exact hstarted _

theorem storeByte (h : Upholds s u) {l : Line} {v : Byte} : Upholds s (u.storeByte l v) := by
  unfold State.storeByte
  simp only
  split
  · exact h
  · split
    · exact h.abandon
    · exact h.write.setRx

theorem breakFound (h : Upholds s u) {l : Line} : Upholds s (u.breakFound l) := by
  unfold State.breakFound
  split
  · exact h
  · exact h.mapDrop (by simp) (by simp)

end Sys2Proof.Machine.Upholds
end

section
/-! PROOFS. Management, the image and the restarts keep the laws that are inductive by themselves; with them every
command does. -/

namespace Sys2Proof.Machine

/-- The record a load is at is one of a load that runs (R176). -/
theorem State.recordLoad_some {s : State} {l : Load} (h : s.recordLoad = some l) :
    s.image.config = .loading ∧ s.image.load = some l ∧ l.phase = .records := by
  unfold State.recordLoad at h
  split at h
  · next hc hl =>
    split at h
    · next hp => cases h; exact ⟨hc, hl, hp⟩
    · cases h
  all_goals cases h

/-- What the judging of a SETTINGS record asks for (R177). -/
theorem State.judgeSettings_some {s : State} {fields : List Byte} {f : SettingsFields}
    (h : s.judgeSettings fields = some f) :
    f.quantitiesGood = true ∧ ∀ a, f.ownAddress = some a → s.station a = none := by
  unfold State.judgeSettings at h
  split at h
  · cases h
  · next mask vals =>
    simp only at h
    split at h
    · next hc =>
      cases h
      obtain ⟨-, -, -, hq, hown⟩ := hc
      exact ⟨hq, fun a ha => by simpa [ha] using hown⟩
    · cases h

/-- What the judging of a STATION record asks for (R178). -/
theorem State.judgeStation_some {s : State} {l : Load} {fields : List Byte} {st : Station}
    (h : s.judgeStation l fields = some st) :
    ∃ (f : StationFields) (a : Byte), st = f.applyTo (Station.fresh a 0) ∧ stationAddress a = true
      ∧ a ≠ s.settings.ownAddress ∧ l.staged.ownAddress ≠ some a ∧ f.recordGood = true
      ∧ (s.stations.length < Config.tableRoom ∨ (s.station a).isSome = true) ∧ s.lineAddressTaken st = false := by
  unfold State.judgeStation at h
  split at h
  · next a mask vals =>
    simp only at h
    split at h
    · next hc =>
      cases h
      obtain ⟨-, ha, hown, hstaged, -, hrec, hroom, hline⟩ := hc
      exact ⟨_, a, rfl, ha, hown, hstaged, hrec, hroom, hline⟩
    · cases h
  · cases h

/-- The staged settings in their ranges stay so when fields in their ranges are staged over them (R177). -/
theorem Staged.inRange.merge {g : Staged} (hg : g.inRange) {f : SettingsFields} (hf : f.quantitiesGood = true) :
    (g.merge f).inRange := by
  obtain ⟨g1, g2, g3, g4⟩ := hg
  obtain ⟨f1, f2, f3, f4⟩ := f.quantitiesGood_iff.1 hf
  refine ⟨fun a ha => ?_, fun n hn => ?_, fun n hn => ?_, fun n hn => ?_⟩ <;>
    simp only [Staged.merge, Option.or_eq_some_iff, Option.map_eq_some_iff] at *
  · rcases ha with ha | ⟨-, ha⟩
    · exact f1 a ha
    · exact g1 a ha
  · rcases hn with ⟨v, hv, rfl⟩ | ⟨-, hn⟩
    · exact f2 v hv
    · exact g2 n hn
  · rcases hn with ⟨v, hv, rfl⟩ | ⟨-, hn⟩
    · exact f3 v hv
    · exact g3 n hn
  · rcases hn with ⟨v, hv, rfl⟩ | ⟨-, hn⟩
    · exact f4 v hv
    · exact g4 n hn

/-- Staged settings in their ranges put in force give settings in their ranges (R180). -/
theorem Staged.inRange.applyTo {g : Staged} (hg : g.inRange) {x : Settings} (hx : x.Good) : (g.applyTo x).Good := by
  obtain ⟨g1, g2, g3, g4⟩ := hg
  obtain ⟨h1, h2, h3, h4, h5, h6, h7⟩ := hx
  have hown : stationAddress (g.ownAddress.getD x.ownAddress) = true := by
    cases hg : g.ownAddress with
    | none => exact h1
    | some a => exact g1 a hg
  have hdown : 1 ≤ g.downThreshold.getD x.downThreshold ∧ g.downThreshold.getD x.downThreshold ≤ 15 := by
    cases hg : g.downThreshold with
    | none => exact ⟨h2, h3⟩
    | some n => exact g2 n hg
  have hratio : 1 ≤ g.probeRatio.getD x.probeRatio ∧ g.probeRatio.getD x.probeRatio ≤ 16 := by
    cases hg : g.probeRatio with
    | none => exact ⟨h4, h5⟩
    | some n => exact g3 n hg
  have hlimit : 1 ≤ g.urgentLimit.getD x.urgentLimit ∧ g.urgentLimit.getD x.urgentLimit ≤ 8 := by
    cases hg : g.urgentLimit with
    | none => exact ⟨h6, h7⟩
    | some n => exact g4 n hg
  exact ⟨hown, hdown.1, hdown.2, hratio.1, hratio.2, hlimit.1, hlimit.2⟩

/-- WRITE SETTINGS's values in their ranges give settings in their ranges (R160). -/
theorem SettingsFields.written_good {f : SettingsFields} (hf : f.quantitiesGood = true) {x : Settings} (hx : x.Good)
    (refuse : Bool) : Settings.Good { x with
      refuseUnknown := refuse
      downThreshold := (f.downThreshold.map BitVec.toNat).getD x.downThreshold
      probeRatio := (f.probeRatio.map BitVec.toNat).getD x.probeRatio
      urgentLimit := (f.urgentLimit.map BitVec.toNat).getD x.urgentLimit } := by
  obtain ⟨-, f2, f3, f4⟩ := f.quantitiesGood_iff.1 hf
  have hstaged : Staged.inRange { Staged.none with
      downThreshold := f.downThreshold.map BitVec.toNat, probeRatio := f.probeRatio.map BitVec.toNat
      urgentLimit := f.urgentLimit.map BitVec.toNat } := by
    have hmapped : ∀ {o : Option Byte} {lo hi : Nat}, (∀ v, o = some v → lo ≤ v.toNat ∧ v.toNat ≤ hi) →
        ∀ n, o.map BitVec.toNat = some n → lo ≤ n ∧ n ≤ hi := fun ho n hn => by
      obtain ⟨v, hv, rfl⟩ := Option.map_eq_some_iff.1 hn
      exact ho v hv
    exact ⟨nofun, hmapped f2, hmapped f3, hmapped f4⟩
  exact hstaged.applyTo hx

/-- The settings' defaults under any own address (R174). -/
theorem Settings.cold_good {a : Byte} (ha : stationAddress a = true) :
    Settings.Good { Settings.cold with ownAddress := a } := by
  simp [Settings.Good, Settings.cold, ha]

/-- What a derivation anew leaves of an entry: its configuration and its saturating counts. -/
@[simp] theorem Station.rederive_keeps (st : Station) (n : Nat) :
    (st.rederive n).address = st.address ∧ (st.rederive n).drop = st.drop ∧ (st.rederive n).aliasAddr = st.aliasAddr
      ∧ (st.rederive n).miss = st.miss ∧ (st.rederive n).done = st.done ∧ (st.rederive n).failed = st.failed
      ∧ (st.rederive n).window = st.window ∧ (st.rederive n).retryLimit = st.retryLimit
      ∧ (st.rederive n).fetchInterval = st.fetchInterval ∧ (st.rederive n).fetchLimit = st.fetchLimit := by
  simp [Station.rederive_eq]

theorem Station.rederive_configGood {st : Station} (n : Nat) (h : st.ConfigGood) : (st.rederive n).ConfigGood := by
  simpa [Station.ConfigGood] using h

theorem Station.rederive_probe {st : Station} (n : Nat) (h : st.probe ≤ 15) : (st.rederive n).probe ≤ 15 := by
  rw [Station.rederive_eq]; simp only; split <;> omega

/-- The station of a STATE report cut off put back into the notice set (R140). -/
def State.noticeRestored (s : State) : State :=
  match s.stateInFlight with
  | some a => s.mapStation a (fun st => { st with noticePending := true })
  | none => s

/-- A warm restart with every drop settled, its RESULT not yet written (R97, R165). -/
def State.warmed (s : State) : State := (List.finRange 4).foldl State.warmDrop s.noticeRestored.restartCore

theorem State.restartWarm_warmed (s : State) (q : Byte) : s.restartWarm q =
    { (s.warmed.restartResult q .warm).hold 0 with
      mgmt := { ((s.warmed.restartResult q .warm).hold 0).mgmt with slot := .inFlight q 0 false } } := by
  cases ha : s.stateInFlight <;> simp only [State.restartWarm, State.warmed, State.noticeRestored, ha]

/-- The staged settings in force, with every liveness derived anew (R180). -/
def State.stagedInForce (s : State) (g : Staged) : State :=
  State.rederiveAll { s with settings := g.applyTo s.settings } (g.applyTo s.settings).downThreshold

/-- What a load that fails reverts (R180). -/
def State.loadReverted (s : State) : State :=
  { s with stations := [], drops := s.drops.map (fun (x : Drop) => { x with mode := .disabled, pendingRate := none }) }

theorem State.failLoad_eq (s : State) (r : LoadResult) : s.failLoad r = s.loadReverted.finishLoad r := rfl

theorem State.succeedLoad_eq (s : State) (g : Staged) : s.succeedLoad g =
    ((s.stagedInForce g).trunkRateDue (g.trunkRate.getD s.trunk.rate)).finishLoad .loaded := rfl

namespace Upholds

set_option Elab.async false

variable {s u : State}

/-- Another own address in force, another pending one: each apart from the table and in its range. -/
theorem withAddresses (h : Upholds s u) {own : Byte} {pending : Option Byte} {rate : Option Rate}
    (htable : TableLaw u → (u.image.config = .loading → pending = none)
      ∧ ∀ st ∈ u.stations, st.address ≠ own ∧ pending ≠ some st.address)
    (hrange : RangeLaw u → stationAddress own = true ∧ ∀ a, pending = some a → stationAddress a = true) :
    Upholds s { u with
      settings := { u.settings with ownAddress := own }
      mgmt := { u.mgmt with pendingAddress := pending, pendingRate := rate } } := by
  refine ⟨h.pool, h.queue, h.count, h.memory, fun hs => ?_, fun hs => ?_, h.liveness, fun hr => h.probe hr, h.exchange⟩
  · obtain ⟨hshape, hload, hapart⟩ := h.table hs
    obtain ⟨hl, ha⟩ := htable (h.table hs)
    exact ⟨hshape, hl, fun st hst => ⟨(ha st hst).1, (ha st hst).2, (hapart st hst).2.2⟩⟩
  · obtain ⟨⟨-, hset⟩, hpend, hstaged, hconf⟩ := h.range hs
    obtain ⟨hown, hp⟩ := hrange (h.range hs)
    exact ⟨⟨hown, hset⟩, hp, hstaged, hconf⟩

/-- Other settings in force, with every liveness derived anew under their threshold (R38). -/
theorem withSettings (h : Upholds s u) {x : Settings} (hown : TableLaw u → ∀ st ∈ u.stations, st.address ≠ x.ownAddress)
    (hx : RangeLaw u → x.Good) :
    Upholds s (State.rederiveAll { u with settings := x } x.downThreshold) := by
  have hmem : ∀ {p : Station → Prop}, (∀ y ∈ u.stations, p (y.rederive x.downThreshold)) →
      ∀ z ∈ u.stations.map (fun y => y.rederive x.downThreshold), p z :=
    fun hp z hz => by obtain ⟨y, hy, rfl⟩ := List.mem_map.1 hz; exact hp y hy
  refine ⟨h.pool, h.queue, fun hs => ?_, h.memory, fun hs => ?_, fun hs => ?_, fun hs => ?_, fun hr hs => ?_, h.exchange⟩
  · obtain ⟨htrunk, hdrops, hstations, hrest⟩ := h.count hs
    exact ⟨htrunk, hdrops, hmem fun y hy => by simpa using hstations y hy, hrest⟩
  · obtain ⟨hshape, hload, hapart⟩ := h.table hs
    refine ⟨TableGood.map hshape fun y _ => by simp [Station.lineAddress], hload, hmem fun y hy => ?_⟩
    simp only [Station.rederive_keeps]
    exact ⟨hown (h.table hs) y hy, (hapart y hy).2⟩
  · obtain ⟨-, hpend, hstaged, hconf⟩ := h.range hs
    exact ⟨hx (h.range hs), hpend, hstaged, hmem fun y hy => Station.rederive_configGood _ (hconf y hy)⟩
  · exact hmem fun y hy => Station.rederive_good _ (h.liveness hs y hy).2
  · exact hmem fun y hy => Station.rederive_probe _ (h.probe hr hs y hy)

/-- Other settings in force under the same threshold and the same own address. -/
theorem withSettingsOnly (h : Upholds s u) {x : Settings} (hown : x.ownAddress = u.settings.ownAddress)
    (hdown : x.downThreshold = u.settings.downThreshold) (hx : RangeLaw u → x.Good) :
    Upholds s { u with settings := x } := by
  refine ⟨h.pool, h.queue, h.count, h.memory, fun hs => ?_, fun hs => ?_, fun hs => ?_, fun hr => h.probe hr, h.exchange⟩
  · obtain ⟨hshape, hload, hapart⟩ := h.table hs
    exact ⟨hshape, hload, fun st hst => ⟨hown ▸ (hapart st hst).1, (hapart st hst).2⟩⟩
  · obtain ⟨-, hrest⟩ := h.range hs
    exact ⟨hx (h.range hs), hrest⟩
  · exact fun st hst => hdown ▸ h.liveness hs st hst

/-- An entry put into the table. -/
theorem putStation (h : Upholds s u) {st : Station} (haddr : stationAddress st.address = true)
    (hroom : u.stations.length < Config.tableRoom ∨ (u.station st.address).isSome = true)
    (hline : u.lineAddressTaken st = false) (hown : st.address ≠ u.settings.ownAddress)
    (hpend : TableLaw u → u.mgmt.pendingAddress ≠ some st.address)
    (hstaged : u.image.config = .loading → ∀ l, u.image.load = some l → l.staged.ownAddress ≠ some st.address)
    (hconf : st.ConfigGood) (hcount : st.CountsGood) (hlive : ∀ n, st.LivenessGood n) (hprobe : st.probe ≤ 15) :
    Upholds s (u.putStation st) := by
  have hmem : ∀ {p : Station → Prop}, p st → (∀ y ∈ u.stations, p y) → ∀ z ∈ insertStation st u.stations, p z :=
    fun hst hp z hz => by
      rcases mem_of_mem_insertStation hz with rfl | hz
      · exact hst
      · exact hp z hz
  have hroom' : u.stations.length < Config.tableRoom ∨ ∃ y ∈ u.stations, y.address = st.address :=
    hroom.imp_right fun hsome => by
      obtain ⟨y, hy⟩ := Option.isSome_iff_exists.1 hsome
      exact ⟨y, (State.station_some hy).2, (State.station_some hy).1⟩
  refine ⟨h.pool, h.queue, fun hs => ?_, h.memory, fun hs => ?_, fun hs => ?_, fun hs => ?_, fun hr hs => ?_, h.exchange⟩
  · obtain ⟨htrunk, hdrops, hstations, hrest⟩ := h.count hs
    exact ⟨htrunk, hdrops, hmem hcount hstations, hrest⟩
  · obtain ⟨hshape, hload, hapart⟩ := h.table hs
    exact ⟨TableGood.insert hshape haddr hroom' (State.lineAddressTaken_false.1 hline), hload,
      hmem ⟨hown, hpend (h.table hs), hstaged⟩ hapart⟩
  · obtain ⟨hset, hpending, hstagedRange, hconfs⟩ := h.range hs
    exact ⟨hset, hpending, hstagedRange, hmem hconf hconfs⟩
  · exact hmem (hlive _) (h.liveness hs)
  · exact hmem hprobe (h.probe hr hs)

/-- A new entry, the fields given put into its defaults. -/
theorem putFresh (h : Upholds s u) {a : Byte} {f : StationFields} (haddr : stationAddress a = true)
    (hroom : u.stations.length < Config.tableRoom ∨ (u.station a).isSome = true)
    (hline : u.lineAddressTaken (f.applyTo (Station.fresh a 0)) = false) (hown : a ≠ u.settings.ownAddress)
    (hpend : TableLaw u → u.mgmt.pendingAddress ≠ some a)
    (hstaged : u.image.config = .loading → ∀ l, u.image.load = some l → l.staged.ownAddress ≠ some a)
    (hq : f.quantitiesGood = true) (halias : ∀ v, f.aliasAddr = some v → v = 0x00#8 ∨ stationAddress v = true) :
    Upholds s (u.putStation (f.applyTo (Station.fresh a 0))) := by
  have ha : (f.applyTo (Station.fresh a 0)).address = a := (f.applyTo_keeps _).1
  refine h.putStation (ha.symm ▸ haddr) (ha.symm ▸ hroom) hline (ha.symm ▸ hown) (ha.symm ▸ hpend) (ha.symm ▸ hstaged)
    (StationFields.applyTo_configGood hq halias (Station.fresh_configGood a 0)) ?_ (fun n => ?_) ?_
  · simp [Station.CountsGood, Station.fresh]
  · simp [Station.LivenessGood, Station.fresh, livenessOf]
  · simp [Station.fresh]

/-! ### Management -/

theorem createStation (h : Upholds s u) {a : Byte} {f : StationFields} (hc : u.image.config ≠ .loading) :
    Upholds s (u.createStation a f).1 := by
  unfold State.createStation
  split
  · exact h
  · next ha =>
    split
    · exact h
    · next hroom =>
      split
      · exact h
      · next hgood =>
        simp only
        split
        · exact h
        · next hline =>
          split
          · exact h
          · simp only [Bool.or_eq_true, Bool.not_eq_true', decide_eq_true_eq, not_or, Bool.not_eq_false] at ha hgood
            obtain ⟨⟨haddr, hown⟩, hpend⟩ := ha
            obtain ⟨-, hreq⟩ := hgood
            simp only [StationFields.requestGood, Bool.and_eq_true, ifGiven_iff, Bool.or_eq_true, decide_eq_true_eq] at hreq
            exact h.putFresh haddr (.inl (by omega)) (by simpa using hline) hown (fun _ => hpend)
              (fun hl => absurd hl hc) hreq.1.1.1.1 hreq.1.1.1.2

theorem changeStation (h : Upholds s u) {a : Byte} {old : Station} {f : StationFields} (hold : u.station a = some old) :
    Upholds s (u.changeStation old f).1 := by
  obtain ⟨-, hmemOld⟩ := State.station_some hold
  unfold State.changeStation
  simp only
  split
  · exact h
  · next hreq =>
    split
    · exact h
    · next hline =>
      split
      · exact h
      · simp only [StationFields.requestGood, Bool.not_eq_true', Bool.not_eq_false, Bool.and_eq_true, ifGiven_iff,
          Bool.or_eq_true, decide_eq_true_eq] at hreq
        have hran : ∀ y, (f.applyTo y).Ran u.settings (f.clearCounts u.settings.downThreshold (f.applyTo y)) :=
          fun y => .clearCounts _ _ f
        have hkeeps : ∀ y : Station, (f.applyTo y).address = y.address := fun y => (f.applyTo_keeps y).1
        have hmem : ∀ {p : Station → Prop}, (∀ y ∈ u.stations, p y) →
            (∀ y ∈ u.stations, p y → p (f.clearCounts u.settings.downThreshold (f.applyTo y))) →
            ∀ z ∈ u.stations.map (fun x => if x.address = old.address then
              f.clearCounts u.settings.downThreshold (f.applyTo x) else x), p z := fun hp hq z hz => by
          obtain ⟨y, hy, rfl⟩ := List.mem_map.1 hz
          split
          · exact hq y hy (hp y hy)
          · exact hp y hy
        refine ⟨h.pool, h.queue, fun hs => ?_, h.memory, fun hs => ?_, fun hs => ?_, fun hs => ?_, fun hr hs => ?_, h.exchange⟩
        · obtain ⟨htrunk, hdrops, hstations, hrest⟩ := h.count hs
          refine ⟨htrunk, hdrops, hmem hstations fun y _ hgood => (hran y).counts ?_, hrest⟩
          simpa [Station.CountsGood] using hgood
        · obtain ⟨hshape, hload, hapart⟩ := h.table hs
          refine ⟨TableGood.change hshape hmemOld ((hran old).address.trans (hkeeps old)) ?_, hload,
            hmem hapart fun y _ hgood => ?_⟩
          · rw [(hran old).drop, (hran old).lineAddress]
            have hfree := State.lineAddressTaken_false.1 (Bool.not_eq_true _ ▸ hline)
            rwa [hkeeps] at hfree
          · rw [(hran y).address, hkeeps]
            exact hgood
        · obtain ⟨hset, hpending, hstaged, hconfs⟩ := h.range hs
          exact ⟨hset, hpending, hstaged, hmem hconfs fun y _ hgood => (hran y).configGood
            (StationFields.applyTo_configGood hreq.1.1.1.1 hreq.1.1.1.2 hgood)⟩
        · exact hmem (h.liveness hs) fun y _ hgood => (hran y).liveness (by simpa [Station.LivenessGood] using hgood)
        · obtain ⟨⟨-, -, -, -, hratio, -⟩, -⟩ := h.range hr
          exact hmem (h.probe hr hs) fun y _ hgood => (hran y).probe hratio (by simpa using hgood)

theorem writeStation (h : Upholds s u) {a : Byte} {f : StationFields} (hc : u.image.config ≠ .loading) :
    Upholds s (u.writeStation a f).1 := by
  unfold State.writeStation
  split
  · exact h.createStation hc
  · next hold => exact h.changeStation hold

theorem trunkRateDue (h : Upholds s u) {r : Rate} : Upholds s (u.trunkRateDue r) := by
  unfold State.trunkRateDue
  split
  · exact h
  · refine withTrunk ?_
    split
    · exact h.countBroken.dropFrame
    · exact h.setRx

/-- A pending own address is the one before, or the one given that is not in force. -/
theorem pendingAfter_some {given pending : Option Byte} {x a : Byte} (h : pendingAfter given pending x = some a) :
    (given = none ∧ pending = some a) ∨ (given = some a ∧ a ≠ x) := by
  unfold pendingAfter at h
  split at h
  · exact .inl ⟨rfl, h⟩
  · split at h
    · cases h
    · cases h; exact .inr ⟨rfl, ‹_›⟩

theorem writeSettings (h : Upholds s u) {f : SettingsFields} (hc : u.image.config ≠ .loading) :
    Upholds s (u.writeSettings f).1 := by
  unfold State.writeSettings
  split
  · next hgood =>
    simp only [Bool.and_eq_true] at hgood
    obtain ⟨hq, hfree⟩ := hgood
    have hfree : ∀ a, f.ownAddress = some a → u.station a = none := fun a ha => by simpa [ha] using hfree
    have hpend : Upholds s { u with
        settings := { u.settings with ownAddress := u.settings.ownAddress }
        mgmt := { u.mgmt with
          pendingAddress := pendingAfter f.ownAddress u.mgmt.pendingAddress u.settings.ownAddress
          pendingRate := pendingAfter (f.trunkRate.map rateOf) u.mgmt.pendingRate u.trunk.rate } } := by
      refine h.withAddresses (fun ht => ⟨fun hl => absurd hl hc, fun st hst => ⟨(ht.2.2 st hst).1, fun hp => ?_⟩⟩)
        fun hr => ⟨hr.1.1, fun a ha => ?_⟩
      · rcases pendingAfter_some hp with ⟨-, hp⟩ | ⟨hg, -⟩
        · exact (ht.2.2 st hst).2.1 hp
        · exact State.station_none.1 (hfree _ hg) st hst rfl
      · rcases pendingAfter_some ha with ⟨-, hp⟩ | ⟨hg, -⟩
        · exact hr.2.1 a hp
        · exact (f.quantitiesGood_iff.1 hq).1 a hg
    simp only
    split
    · next hdown =>
      refine hpend.withSettingsOnly rfl (by simp [hdown]) fun hr => ?_
      exact SettingsFields.written_good hq hr.1 _
    · exact hpend.withSettings (fun ht st hst => (ht.2.2 st hst).1) fun hr => SettingsFields.written_good hq hr.1 _
  · exact h

theorem settingsDue (h : Upholds s u) : Upholds s u.settingsDue := by
  have hdue : Upholds s { u with
      settings := { u.settings with ownAddress := u.mgmt.pendingAddress.getD u.settings.ownAddress }
      mgmt := { u.mgmt with pendingAddress := none, pendingRate := none } } := by
    refine h.withAddresses (fun ht => ⟨fun _ => rfl, fun st hst => ⟨?_, nofun⟩⟩) fun hr => ⟨?_, nofun⟩
    · cases hp : u.mgmt.pendingAddress with
      | none => exact (ht.2.2 st hst).1
      | some a => exact fun heq => (ht.2.2 st hst).2.1 (hp.trans (congrArg some heq.symm))
    · cases hp : u.mgmt.pendingAddress with
      | none => exact hr.1.1
      | some a => exact hr.2.1 a hp
  unfold State.settingsDue
  simp only
  split
  · exact hdue
  · exact hdue.trunkRateDue

theorem withSlot (h : Upholds s u) {q : ReplaySlot} : Upholds s { u with mgmt := { u.mgmt with slot := q } } :=
  h.withMgmt

theorem resultSent (h : Upholds s u) {b : BufId} : Upholds s (u.resultSent b) := by
  unfold State.resultSent
  split
  · exact h
  · split
    · exact h.withMgmt.settingsDue
    · exact h
  · split
    · exact h.settingsDue
    · exact h

theorem handResult (h : Upholds s u) {q : Byte} {b : BufId} {c : ResultCode} {op : Byte} {data : List Byte} :
    Upholds s (u.handResult q b c op data) := h.write.hold.queueUp

theorem duplicate (h : Upholds s u) {b : BufId} : Upholds s (u.duplicate b) := by
  unfold State.duplicate
  simp only
  split
  · split
    · exact h.release
    · exact h.release.hold.queueUp
  · exact h.release
  · exact h.release

theorem turnOver (h : Upholds s u) {q : Byte} {b : BufId} : Upholds s (u.turnOver q b) := by
  have hold : Upholds s (match u.mgmt.slot.buffer with
      | none => u
      | some old => u.release old) := by
    split
    · exact h
    · exact h.release
  exact hold.withMgmt

theorem readCounters (h : Upholds s u) {clear : Bool} {g : CounterGroup} : Upholds s (u.readCounters clear g).1 := by
  unfold State.readCounters
  split
  · simp only
    split
    · exact h.mapTrunkCounters fun _ _ => by simp [TrunkCounters.bounded, TrunkCounters.zero]
    · exact h
  · simp only
    split
    · exact h.mapDropCounters fun _ _ => by simp [DropCounters.bounded, DropCounters.zero]
    · exact h

theorem carryOut (h : Upholds s u) {r : MgmtRequest} (hc : u.image.config ≠ .loading) :
    Upholds s (u.carryOut r).1 := by
  cases r
  case readStation a =>
    have hanswer : (u.carryOut (.readStation a)).1 = u := by simp only [State.carryOut, doneWith]; split <;> rfl
    rw [hanswer]
    exact h
  case writeStation a f => exact h.writeStation hc
  case removeStation a force => exact h.removeStation
  case cancelExchange a => exact h.cancelExchange
  case setDrop d mode rate => exact h.setDrop
  case readCounters g clear => exact h.readCounters
  case writeSettings f => exact h.writeSettings hc
  all_goals exact h

/-- The image unit changed outside a load: no load runs after it that did not before, nor other staged settings. -/
theorem withImage (h : Upholds s u) {x : ImageUnit} (hskip : u.image.skipped ≤ 255 → x.skipped ≤ 255 := by exact id)
    (hconfig : x.config = .loading → u.image.config = .loading := by exact id)
    (hload : ∀ l, x.load = some l → ∃ k, u.image.load = some k ∧ (k.staged.inRange → l.staged.inRange)
      ∧ (TableLaw u → ∀ st ∈ u.stations, u.image.config = .loading → k.staged.ownAddress ≠ some st.address →
        l.staged.ownAddress ≠ some st.address) := by exact fun l hl => ⟨l, hl, id, fun _ _ _ _ => id⟩) :
    Upholds s { u with image := x } := by
  refine ⟨h.pool, h.queue, fun hs => ?_, h.memory, fun hs => ?_, fun hs => ?_, h.liveness, fun hr => h.probe hr, h.exchange⟩
  · obtain ⟨htrunk, hdrops, hstations, hrun, hskipped⟩ := h.count hs
    exact ⟨htrunk, hdrops, hstations, hrun, hskip hskipped⟩
  · obtain ⟨hshape, hpend, hapart⟩ := h.table hs
    refine ⟨hshape, fun hc => hpend (hconfig hc), fun st hst => ⟨(hapart st hst).1, (hapart st hst).2.1, fun hc l hl => ?_⟩⟩
    obtain ⟨k, hk, -, hown⟩ := hload l hl
    exact hown (h.table hs) st hst (hconfig hc) ((hapart st hst).2.2 (hconfig hc) k hk)
  · obtain ⟨hset, hpend, hstaged, hconf⟩ := h.range hs
    refine ⟨hset, hpend, fun l hl => ?_, hconf⟩
    obtain ⟨k, hk, hrange, -⟩ := hload l hl
    exact hrange (hstaged k hk)

theorem beginStore (h : Upholds s u) {q : Byte} {b : BufId} : Upholds s (u.beginStore q b) := by
  have himage : Upholds s { u with
      image := { u.image with config := .storing, store := some { image := u.storeImage, position := 0 } } } :=
    h.withImage (hconfig := fun hc => nomatch hc)
  exact himage.withMgmt

theorem endStore (h : Upholds s u) {ok : Bool} : Upholds s (u.endStore ok) := by
  have hended : Upholds s { u with
      image := { u.image with config := .ready, store := none }
      mgmt := { u.mgmt with store := if ok then .done else .failed } } := by
    have himage : Upholds s { u with image := { u.image with config := .ready, store := none } } :=
      h.withImage (hconfig := fun hc => nomatch hc)
    exact himage.withMgmt
  unfold State.endStore
  simp only
  split
  · exact hended.withMgmt.handResult
  · exact hended
  · exact hended
  · exact hended

/-! ### Restarts -/

theorem restartCore (h : Upholds s u) : Upholds s u.restartCore := by
  have hdrops : Upholds s { u with drops := u.drops.map (fun (x : Drop) => { x with tx := u.cutOff x.tx }) } :=
    h.withDrops (fun d hd => by simpa [State.dropUnit] using hd) (fun d hd => by simpa [State.dropUnit] using hd)
  have hmgmt := hdrops.withAddresses (own := u.settings.ownAddress) (pending := none) (rate := none)
    (fun ht => ⟨fun _ => rfl, fun st hst => ⟨(ht.2.2 st hst).1, nofun⟩⟩) fun hr => ⟨hr.1.1, nofun⟩
  have hslot : Upholds s { u with
      drops := u.drops.map (fun (x : Drop) => { x with tx := u.cutOff x.tx })
      mgmt := { u.mgmt with slot := .empty, pendingAddress := none, pendingRate := none } } := hmgmt.withMgmt
  exact ((hslot.withPool fun _ => .cold).withNoExchange.withTrunk).withUpstream fun _ => Nat.zero_le _

theorem restartResult (h : Upholds s u) {q : Byte} {kind : RestartKind} : Upholds s (u.restartResult q kind) := by
  unfold State.restartResult
  split
  · exact h
  · next hp => exact (h.taken hp).write.queueUp

theorem warmDrop (h : Upholds s u) {d : DropId} : Upholds s (u.warmDrop d) := by
  have hwarm : Upholds s (u.mapDrop d (Drop.warm u.now)) := h.mapDrop fun _ => .nil
  unfold State.warmDrop
  simp only
  split
  · exact hwarm.applyRate
  · exact hwarm

theorem restartWarm (h : Upholds s u) {q : Byte} : Upholds s (u.restartWarm q) := by
  have hnotice : Upholds s u.noticeRestored := by
    unfold State.noticeRestored
    split
    · exact h.mapStation fun y => .notice _ y true
    · exact h
  have hwarmed : Upholds s u.warmed := hnotice.restartCore.foldl fun _ _ hv => hv.warmDrop
  have hresult : Upholds s ((u.warmed.restartResult q .warm).hold 0) := hwarmed.restartResult.hold
  rw [State.restartWarm_warmed]
  exact hresult.withSlot

/-- A table emptied meets every law of the table. -/
theorem emptied (h : Upholds s u) : Upholds s { u with stations := [] } := by
  refine ⟨h.pool, h.queue, fun hs => ?_, h.memory, fun hs => ?_, fun hs => ?_, nofun, nofun, h.exchange⟩
  · obtain ⟨htrunk, hdrops, -, hrest⟩ := h.count hs
    exact ⟨htrunk, hdrops, nofun, hrest⟩
  · obtain ⟨-, hload, -⟩ := h.table hs
    exact ⟨TableGood.nil, hload, nofun⟩
  · obtain ⟨hset, hpend, hstaged, -⟩ := h.range hs
    exact ⟨hset, hpend, hstaged, nofun⟩

/-- The table, the settings and the image unit anew, with no entry and nothing pending or staged. -/
theorem blank (h : Upholds s u) {x : Settings} {m : Management} (hm : m.pendingAddress = none)
    (hx : RangeLaw u → x.Good) :
    Upholds s { u with stations := [], settings := x, mgmt := m, image := ImageUnit.cold } := by
  refine ⟨h.pool, h.queue, fun hs => ?_, h.memory, fun hs => ?_, fun hs => ?_, nofun, nofun, h.exchange⟩
  · obtain ⟨htrunk, hdrops, -, hrun, -⟩ := h.count hs
    exact ⟨htrunk, hdrops, nofun, hrun, Nat.zero_le _⟩
  · exact ⟨TableGood.nil, fun _ => hm, nofun⟩
  · refine ⟨hx (h.range hs), fun a ha => ?_, fun l hl => ?_, nofun⟩
    · rw [hm] at ha; cases ha
    · obtain rfl : Load.start = l := Option.some.inj hl
      exact ⟨nofun, nofun, nofun, nofun⟩

theorem restartReload (h : Upholds s u) {q : Byte} : Upholds s (u.restartReload q) := by
  have hdrops : Upholds s { u.restartCore with drops := u.restartCore.drops.map Drop.reloaded } :=
    h.restartCore.withDrops (fun d _ => by simpa [Drop.reloaded] using QueueGood.nil)
      (fun d hd => by simpa [State.dropUnit, Drop.reloaded] using hd)
  have hreport : Upholds s { u.restartCore with
      drops := u.restartCore.drops.map Drop.reloaded
      upstream := { u.restartCore.upstream with report := 0#8 } } := hdrops.withUpstream
  exact (hreport.blank (x := { Settings.cold with ownAddress := u.settings.ownAddress }) (m := u.restartCore.mgmt) rfl
    fun hr => Settings.cold_good hr.1.1).restartResult

theorem restart (h : Upholds s u) {q : Byte} {kind : RestartKind} : Upholds s (u.restart q kind) := by
  cases kind
  case warm => exact h.restartWarm
  case reload => exact h.restartReload

theorem takeWrite (h : Upholds s u) {w : Nat × List Byte} : Upholds s (u.takeWrite w) :=
  h.withMemory (writeCells_wf _ _)

theorem cutOffWrite (h : Upholds s u) : Upholds s u.cutOffWrite := by
  unfold State.cutOffWrite
  split
  · exact h
  · refine withChance ?_
    split
    · exact h.takeWrite
    · exact h

theorem coldReset (h : Upholds s u) {r : Rate} : Upholds s (u.coldReset r) := by
  have hdrops : Upholds s { u.cutOffWrite with drops := u.cutOffWrite.drops.map Drop.coldReset } :=
    h.cutOffWrite.withDrops (fun d _ => by simpa [Drop.coldReset, Drop.cold] using QueueGood.nil)
      (fun d _ => by simp [Drop.coldReset, Drop.cold, DropCounters.bounded, DropCounters.zero])
  have hpool := (hdrops.withPool (p := Pool.cold) fun _ => .cold).withNoExchange
  have htrunk := hpool.withTrunk (x := { rate := r, keptRate := none, rx := Receiver.idle, tx := .idle
                                         counters := TrunkCounters.zero })
    fun _ => by simp [TrunkCounters.bounded, TrunkCounters.zero]
  exact (htrunk.withUpstream (x := Upstream.cold) fun _ => Nat.zero_le _).blank rfl
    fun _ => Settings.cold_good (by decide)

/-! ### Management requests and classification -/

theorem judge (h : Upholds s u) {q : Byte} {b : BufId} {body : List Byte} : Upholds s (u.judge q b body) := by
  unfold State.judge
  split
  · exact h.handResult
  · split
    · exact h.handResult
    · split
      · exact h.handResult
      · next hc =>
        split
        · split
          · exact h.handResult
          · exact (h.carryOut (by simp [hc])).handResult
        · exact h.handResult
      · next hc =>
        split
        · exact h.handResult
        · exact h.beginStore
        · exact h.restart
        · exact (h.carryOut (by simp [hc])).handResult

theorem manage (h : Upholds s u) {b : BufId} : Upholds s (u.manage b) := by
  unfold State.manage
  simp only
  split
  · exact h.duplicate
  · exact h.turnOver.judge

theorem classify (h : Upholds s u) {b : BufId} : Upholds s (u.classify b) := by
  unfold State.classify
  simp only
  split
  · exact h.discardForeign
  · split
    · split
      · exact h.manage
      · exact h.discardForeign
    · split
      · split
        · exact h.discardForeign
        · exact h.broadcast
      · split
        · exact h.discardInvalid
        · split
          · exact h.loadingDisposal
          · split
            · split
              · exact h.admitRequest
              · exact h.stationNotice
            · exact h.unknownDestination

theorem trunkArrival (h : Upholds s u) {b : BufId} : Upholds s (u.trunkArrival b) := h.mapTrunkCounters.classify.arbitrate

/-! ### Characters -/

theorem handOver (h : Upholds s u) {l : Line} {b : BufId} : Upholds s (u.handOver l b) := by
  unfold State.handOver
  cases l
  case trunk => exact h.setRx.trunkArrival
  case drop d => exact h.setRx.matchFrame

theorem endFrame (h : Upholds s u) {l : Line} : Upholds s (u.endFrame l) := by
  unfold State.endFrame
  simp only
  split
  · exact h
  · split
    · exact h.handOver
    · exact h.countBad.dropFrame.frameLost

theorem assembleChar (h : Upholds s u) {l : Line} {v : Byte} : Upholds s (u.assembleChar l v) := by
  unfold State.assembleChar
  simp only
  split
  · exact h.restartFrame
  · split
    · exact h.abandon
    · split
      · split
        · exact h.storeByte
        · exact h.abandon
      · split
        · exact h.endFrame
        · split
          · exact h.setRx
          · exact h.storeByte

theorem takeChar (h : Upholds s u) {l : Line} {v : Byte} : Upholds s (u.takeChar l v) := by
  unfold State.takeChar
  simp only
  split
  · exact h.heard
  · split
    · split
      · exact h.heard.acceptSof
      · exact h.heard
    · split
      · exact h.heard.acceptSof
      · split
        · exact h.heard.setRx
        · exact h.heard
    · exact h.heard.assembleChar

theorem charAt (h : Upholds s u) {l : LineAt} {v : Byte} : Upholds s (u.charAt l v) := h.advance.takeChar

/-! ### The image unit -/

theorem skipRecord (h : Upholds s u) : Upholds s u.skipRecord := h.withImage bumpSkipped_le.2

/-- A load moved on, with the same settings staged. -/
theorem putLoad (h : Upholds s u) {l k : Load} (hk : u.image.load = some k) (hl : l.staged = k.staged) :
    Upholds s (u.putLoad l) :=
  h.withImage (hload := fun m hm => by
    obtain rfl := Option.some.inj hm
    exact ⟨k, hk, hl ▸ id, fun _ _ _ _ => hl ▸ id⟩)

theorem stopRecords (h : Upholds s u) {l : Load} {bs : List Byte} (hl : u.image.load = some l) :
    Upholds s (u.stopRecords l bs) := h.putLoad hl rfl

theorem takeRecord (h : Upholds s u) {type : Byte} {fields : List Byte} {act : State → Load → State}
    (hact : ∀ v l, v.image.config = .loading → v.image.load = some l → Upholds s v → Upholds s (act v l)) :
    Upholds s (u.takeRecord type fields act) := by
  unfold State.takeRecord
  split
  · exact h
  · next hl =>
    obtain ⟨hc, hload, -⟩ := State.recordLoad_some hl
    simp only
    split
    · exact h
    · split
      · exact h.skipRecord.stopRecords hload
      · exact hact _ _ hc rfl (h.putLoad hload rfl)

theorem actSettings (h : Upholds s u) {fields : List Byte} {l : Load} (hl : u.image.load = some l) :
    Upholds s (State.actSettings fields u l) := by
  unfold State.actSettings
  split
  · exact h.skipRecord
  · next f hf =>
    obtain ⟨hq, hfree⟩ := State.judgeSettings_some hf
    refine h.withImage (hload := fun m hm => ?_)
    obtain rfl := Option.some.inj hm
    refine ⟨l, hl, fun hg => hg.merge hq, fun _ st hst _ hown => ?_⟩
    simp only [Staged.merge, ne_eq, Option.or_eq_some_iff]
    rintro (hown' | ⟨-, hown'⟩)
    · exact State.station_none.1 (hfree _ hown') st hst rfl
    · exact hown hown'

theorem actDrop (h : Upholds s u) {fields : List Byte} {l : Load} : Upholds s (State.actDrop fields u l) := by
  unfold State.actDrop
  split
  · split
    · exact h.mapDrop
    · exact h.skipRecord
  · exact h.skipRecord

theorem actStation (h : Upholds s u) {fields : List Byte} {l : Load} (hc : u.image.config = .loading)
    (hl : u.image.load = some l) : Upholds s (State.actStation fields u l) := by
  unfold State.actStation
  split
  · exact h.skipRecord
  · next hst =>
    obtain ⟨f, a, rfl, haddr, hown, hstaged, hrec, hroom, hline⟩ := State.judgeStation_some hst
    simp only [StationFields.recordGood, Bool.and_eq_true, ifGiven_iff] at hrec
    obtain ⟨⟨-, hq⟩, halias⟩ := hrec
    refine h.putFresh haddr hroom hline hown (fun ht => ?_) (fun _ k hk => ?_) hq fun v hv => .inr (halias v hv)
    · rw [ht.2.1 hc]; exact nofun
    · obtain rfl := Option.some.inj (hl.symm.trans hk); exact hstaged

theorem releaseDrop (h : Upholds s u) {d : DropId} : Upholds s (u.releaseDrop d) := by
  have hmeasure := h.mapDrop (d := d) (f := fun x => { x with breakSince := if x.rxSpace then some u.now else none })
  unfold State.releaseDrop
  simp only
  split
  · exact hmeasure.enterIdle
  · exact hmeasure

theorem finishLoad (h : Upholds s u) {r : LoadResult} : Upholds s (u.finishLoad r) := by
  have hready : Upholds s { u with image := { u.image with config := .ready, result := r, load := none } } :=
    h.withImage (hconfig := fun hc => nomatch hc) (hload := fun _ hl => nomatch hl)
  exact hready.foldl fun _ _ hv => hv.releaseDrop

theorem failLoad (h : Upholds s u) {r : LoadResult} : Upholds s (u.failLoad r) := by
  have hdrops : Upholds s u.loadReverted :=
    h.emptied.withDrops (fun d hd => by simpa [State.dropUnit] using hd) (fun d hd => by simpa [State.dropUnit] using hd)
  rw [State.failLoad_eq]
  exact hdrops.finishLoad

theorem succeedLoad (h : Upholds s u) {l : Load} (hc : u.image.config = .loading) (hl : u.image.load = some l) :
    Upholds s (u.succeedLoad l.staged) := by
  have happart : TableLaw u → ∀ st ∈ u.stations, st.address ≠ (l.staged.applyTo u.settings).ownAddress := by
    intro ht st hst heq
    obtain ⟨hown, -, hstaged⟩ := ht.2.2 st hst
    cases hg : l.staged.ownAddress with
    | none => exact hown (by simpa [Staged.applyTo, hg] using heq)
    | some a => exact hstaged hc l hl (by simpa [Staged.applyTo, hg] using heq.symm)
  have hset : Upholds s (u.stagedInForce l.staged) :=
    h.withSettings happart fun hr => (hr.2.2.1 l hl).applyTo hr.1
  rw [State.succeedLoad_eq]
  exact hset.trunkRateDue.finishLoad

theorem judgeHeader (h : Upholds s u) {l : Load} {bytes : List Byte} (hl : u.image.load = some l) :
    Upholds s (u.judgeHeader l bytes) := by
  unfold State.judgeHeader
  split
  · simp only
    split
    · exact h.putLoad hl rfl
    · exact h.failLoad
  · exact h

theorem judgeCheck (h : Upholds s u) {l : Load} {high low : Byte} (hc : u.image.config = .loading)
    (hl : u.image.load = some l) : Upholds s (u.judgeCheck l high low) := by
  unfold State.judgeCheck
  split
  · exact h.succeedLoad hc hl
  · exact h.failLoad

theorem portFails (h : Upholds s u) {f : PortFailure} : Upholds s (u.portFails f) := by
  unfold State.portFails
  split
  · exact h.failLoad
  · exact h.takeWrite.withChance.endStore
  · exact h
  · exact h
  · exact h

end Upholds
end Sys2Proof.Machine
end

section
/-! PROOFS. The next state of every command, by name; and the laws that are inductive by themselves, in every step. -/

namespace Sys2Proof.Machine

set_option Elab.async false

/-! ### The next state of a command -/

/-- A framing error met by a line's receiver (R12). -/
def State.framingLost (s : State) (l : Line) : State :=
  if (s.rx l).state = .assemble ∧ s.rxHeld l = false then s.abandon l .discard else s

/-- A break met by a line's receiver (R10, R13). -/
def State.breakLost (s : State) (l : Line) : State :=
  match (s.rx l).state with
  | .hunt => s
  | .discard => s.setRx l Receiver.idle
  | .assemble => s.abandon l .hunt

/-- The gap timer of a line ended (R11). -/
def State.gapEnded (s : State) (l : Line) : State :=
  match (s.rx l).gap with
  | none => s
  | some t => (s.advance t).abandon l .hunt

/-- The window running on a drop expired at a time: taken in LISTENING, held in RECEIVING (R87). -/
def State.windowEnded (s : State) (d : DropId) : State :=
  match s.windowOf d with
  | none => s
  | some t =>
    if (s.dropUnit d).line = .listening then (s.advance t).takeExpiry d
    else if (s.dropUnit d).line = .receiving then (s.advance t).mapDrop d (fun x => { x with expiryHeld := true })
    else s

/-- The guard time of a drop ended (R89). -/
def State.guardEnded (s : State) (d : DropId) : State :=
  if (s.dropUnit d).line = .guard then
    ((s.advance ((s.dropUnit d).lastChar + guardTime (s.dropUnit d).rate)).endGuard d).arbitrate
  else s

/-- A DEFERRED exchange made FETCH DUE since a time (R111, R112). -/
def State.fetchDueSince (s : State) (t : Tag) (e : Exchange) (due : Nat) : State :=
  (s.advance due).putExchange t (some { e with state := .fetchDue, deadline := none, dueSince := some due })

/-- The deadline of an exchange expired (R111). -/
def State.deadlineEnded (s : State) (t : Tag) : State :=
  match s.exchange t with
  | none => s
  | some e =>
    if e.state = .deferred then (s.fetchDueSince t e (e.deadline.getD s.now)).chooseWork e.drop else s

/-- The break measure of a drop ended (R90). -/
def State.breakMeasured (s : State) (d : DropId) : State :=
  match (s.dropUnit d).breakSince with
  | none => s
  | some t =>
    if (s.dropUnit d).line = .sending ∨ (s.dropUnit d).line = .fault ∨ s.image.config = .loading then s
    else ((s.advance (t + faultLimit (s.dropUnit d).rate)).enterFault d).arbitrate

/-- A drop out of FAULT at a time, its line state not yet IDLE (R92). -/
def State.faultLeft (s : State) (d : DropId) (time : Nat) : State :=
  (s.advance time).mapDrop d (Drop.recovered (s.advance time).now)

/-- The marking measure of a drop ended (R92). -/
def State.markingMeasured (s : State) (d : DropId) : State :=
  match (s.dropUnit d).line, (s.dropUnit d).marking with
  | .fault, .since t =>
    if (s.dropUnit d).mode = .enabled then (s.faultLeft d (t + recoveryLimit (s.dropUnit d).rate)).enterIdle d
    else s.faultLeft d (t + recoveryLimit (s.dropUnit d).rate)
  | _, _ => s

/-- The EOF of the frame a drop sends, at the end of its time (R17). -/
def State.dropEofSent (s : State) (d : DropId) : State :=
  match (s.dropUnit d).tx with
  | .sending src r began =>
    if (s.dropUnit d).line = .sending then ((s.advance (began + s.sendingTime src r)).dropFrameSent d).arbitrate else s
  | .idle => s
  | .aborting _ _ _ => s

/-- The trunk transmitter idle at a time. -/
def State.trunkIdleAt (s : State) (time : Nat) : State :=
  { s.advance time with trunk := { s.trunk with tx := .idle } }

/-- The EOF of the frame the trunk sends, at the end of its time (R136). -/
def State.trunkEofSent (s : State) : State :=
  match s.trunk.tx with
  | .sending src r began => ((s.trunkIdleAt (began + s.sendingTime src r)).trunkFrameSent src).arbitrate
  | .idle => s
  | .aborting _ _ _ => s

/-- A drop's transmitter idle, its ABT the last character. -/
def State.dropIdleNow (s : State) (d : DropId) : State := s.mapDrop d (fun x => { x with tx := .idle, lastChar := s.now })

/-- The ABT of a restart sent on a line (R20). -/
def State.abtSent (s : State) (l : Line) : State :=
  match s.tx l with
  | .aborting _ r began =>
    match l with
    | .trunk => (s.trunkIdleAt (began + 2 * charTime r)).arbitrate
    | .drop d => ((s.advance (began + 2 * charTime r)).dropIdleNow d).chooseWork d
  | .idle => s
  | .sending _ _ _ => s

/-- The header of the image read, where a load comes to it (R175). -/
def State.headerRead (s : State) (bytes : List Byte) : State :=
  match s.image.config, s.image.load with
  | .loading, some l => if l.phase = .header then s.judgeHeader l bytes else s
  | _, _ => s

/-- An END record (R176). -/
def State.endRecordRead (s : State) (rest : List Byte) : State :=
  match s.recordLoad with
  | none => s
  | some l => (if l.left = 1 then s.skipRecord else s).stopRecords l (typeEnd :: rest)

/-- A record cut short by the records length (R176). -/
def State.truncatedRead (s : State) (bytes : List Byte) : State :=
  match s.recordLoad with
  | none => s
  | some l => if l.left = 0 then s else s.skipRecord.stopRecords l bytes

/-- The check of the image read, where a load comes to it (R176). -/
def State.checkRead (s : State) (high low : Byte) : State :=
  match s.image.config, s.image.load with
  | .loading, some l =>
    if l.phase = .check ∨ (l.phase = .records ∧ l.left = 0) then s.judgeCheck l high low else s
  | _, _ => s

/-- The next write of a store begun (R183). -/
def State.nextWrite (s : State) (x : Store) : State :=
  { s with image := { s.image with store := some { x with position := x.position + 1 } } }

/-- A store's write acknowledged (R183). -/
def State.writeAcknowledged (s : State) : State :=
  match s.image.config, s.image.store with
  | .storing, some x =>
    if x.position + 1 < (storeWrites x.image).length then (s.takeWrite x.current).nextWrite x
    else ((s.takeWrite x.current).endStore true).arbitrate
  | _, _ => s

/-- The state after a command. -/
def State.after (s : State) : Instr → State
  | .coldReset straps => s.coldReset straps
  | .sofReceived l => s.charAt l codeSof
  | .contentCharacter l v => s.charAt l v
  | .eofReceived l => s.charAt l codeEof
  | .abtReceived l => s.charAt l codeAbt
  | .framingError l => ((s.advance l.time).heard 0 l.line).framingLost l.line
  | .breakRecognised l => ((s.advance l.time).breakFound l.line).breakLost l.line
  | .breakEnd l => (s.advance l.time).heard 0 l.line
  | .lineFallsToSpace d =>
    (s.advance d.time).mapDrop d.drop (Drop.fallen (s.image.config ≠ .loading) (s.advance d.time).now)
  | .gapExpiry l => s.gapEnded l
  | .dropEofSent d => s.dropEofSent d
  | .windowExpiry d => s.windowEnded d
  | .guardEnd d => s.guardEnded d
  | .deadlineExpiry t => s.deadlineEnded t
  | .dropFault d => s.breakMeasured d
  | .dropRecovery d => s.markingMeasured d
  | .trunkEofSent => s.trunkEofSent
  | .memoryPollTimeout => (s.portFails .polling).arbitrate
  | .memoryByteNotAcknowledged => (s.portFails .byte).arbitrate
  | .loadHeaderRead m0 m1 version high low => s.headerRead [m0, m1, version, high, low]
  | .settingsRecord fields => s.takeRecord typeSettings fields (State.actSettings fields)
  | .dropRecord fields => s.takeRecord typeDrop fields (State.actDrop fields)
  | .stationRecord fields => s.takeRecord typeStation fields (State.actStation fields)
  | .endRecord rest => s.endRecordRead rest
  | .unknownRecord type fields => s.takeRecord type fields (fun s _ => s.skipRecord)
  | .truncatedRecord bytes => s.truncatedRead bytes
  | .loadEnd high low => s.checkRead high low
  | .storeWriteAcknowledged => s.writeAcknowledged
  | .abtSent l => (s.advance l.time).abtSent l.line
  | .ignoredCharacter l v => s.charAt l v

theorem execWindowExpiry_eq (d : DropId) (s : State) : execWindowExpiry d s = .next (s.windowEnded d) := by
  cases hw : s.windowOf d with
  | none => simp only [execWindowExpiry, State.windowEnded, hw]
  | some t => cases hline : (s.dropUnit d).line <;> simp [execWindowExpiry, State.windowEnded, hw, hline]

theorem execAbtSent_eq (l : LineAt) (s : State) : execAbtSent l s = .next ((s.advance l.time).abtSent l.line) := by
  simp only [execAbtSent, State.abtSent]
  cases htx : (s.advance l.time).tx l.line with
  | aborting last r began => cases hl : l.line <;> rfl
  | _ => rfl

/-- Every command answers this next state. -/
theorem exec_eq (i : Instr) (s : State) : exec i s = .next (s.after i) := by
  cases i
  case windowExpiry d => exact execWindowExpiry_eq d s
  case abtSent l => exact execAbtSent_eq l s
  all_goals rfl

/-- What holds of the next state of every command holds of what a step leads to. -/
theorem step_next {s t : State} (h : step s = .next t) :
    (s.pending = [] ∧ t = s) ∨ ∃ c rest, s.pending = c :: rest ∧ t = { s with pending := rest }.after c := by
  unfold step at h
  split at h
  · next hp => exact .inl ⟨hp, by cases h; rfl⟩
  · next c rest hp =>
    rw [exec_eq] at h
    exact .inr ⟨c, rest, hp, by cases h; rfl⟩

namespace Upholds

variable {s u : State}

theorem framingLost (h : Upholds s u) {l : Line} : Upholds s (u.framingLost l) := by
  unfold State.framingLost
  split
  · exact h.abandon
  · exact h

theorem breakLost (h : Upholds s u) {l : Line} : Upholds s (u.breakLost l) := by
  unfold State.breakLost
  split
  · exact h
  · exact h.setRx
  · exact h.abandon

theorem gapEnded (h : Upholds s u) {l : Line} : Upholds s (u.gapEnded l) := by
  unfold State.gapEnded
  split
  · exact h
  · exact h.advance.abandon

theorem windowEnded (h : Upholds s u) {d : DropId} : Upholds s (u.windowEnded d) := by
  unfold State.windowEnded
  split
  · exact h
  · split
    · exact h.advance.takeExpiry
    · split
      · exact h.advance.mapDrop
      · exact h

theorem guardEnded (h : Upholds s u) {d : DropId} : Upholds s (u.guardEnded d) := by
  unfold State.guardEnded
  split
  · exact h.advance.endGuard.arbitrate
  · exact h

theorem deadlineEnded (h : Upholds s u) {t : Tag} : Upholds s (u.deadlineEnded t) := by
  unfold State.deadlineEnded
  split
  · exact h
  · next he =>
    split
    · exact (h.advance.changeExchange he).chooseWork
    · exact h

theorem breakMeasured (h : Upholds s u) {d : DropId} : Upholds s (u.breakMeasured d) := by
  unfold State.breakMeasured
  split
  · exact h
  · split
    · exact h
    · exact h.advance.enterFault.arbitrate

theorem faultLeft (h : Upholds s u) {d : DropId} {n : Nat} : Upholds s (u.faultLeft d n) := h.advance.mapDrop

theorem markingMeasured (h : Upholds s u) {d : DropId} : Upholds s (u.markingMeasured d) := by
  unfold State.markingMeasured
  split
  · split
    · exact h.faultLeft.enterIdle
    · exact h.faultLeft
  · exact h

theorem dropEofSent (h : Upholds s u) {d : DropId} : Upholds s (u.dropEofSent d) := by
  unfold State.dropEofSent
  split
  · split
    · exact h.advance.dropFrameSent.arbitrate
    · exact h
  · exact h
  · exact h

theorem trunkIdleAt (h : Upholds s u) {n : Nat} : Upholds s (u.trunkIdleAt n) := h.advance.withTrunk

theorem trunkFrameSent (h : Upholds s u) {src : TxSource} : Upholds s (u.trunkFrameSent src) := by
  unfold State.trunkFrameSent
  split
  · exact h.release.resultSent
  · exact h.withUpstream
  · exact h

theorem trunkEofSent (h : Upholds s u) : Upholds s u.trunkEofSent := by
  unfold State.trunkEofSent
  split
  · exact h.trunkIdleAt.trunkFrameSent.arbitrate
  · exact h
  · exact h

theorem abtSent (h : Upholds s u) {l : Line} : Upholds s (u.abtSent l) := by
  unfold State.abtSent
  split
  · split
    · exact h.trunkIdleAt.arbitrate
    · exact h.advance.mapDrop.chooseWork
  · exact h
  · exact h

theorem headerRead (h : Upholds s u) {bytes : List Byte} : Upholds s (u.headerRead bytes) := by
  unfold State.headerRead
  split
  · next hl =>
    split
    · exact h.judgeHeader hl
    · exact h
  · exact h

theorem endRecordRead (h : Upholds s u) {rest : List Byte} : Upholds s (u.endRecordRead rest) := by
  unfold State.endRecordRead
  split
  · exact h
  · next hl =>
    obtain ⟨-, hload, -⟩ := State.recordLoad_some hl
    split
    · exact h.skipRecord.stopRecords hload
    · exact h.stopRecords hload

theorem truncatedRead (h : Upholds s u) {bytes : List Byte} : Upholds s (u.truncatedRead bytes) := by
  unfold State.truncatedRead
  split
  · exact h
  · next hl =>
    obtain ⟨-, hload, -⟩ := State.recordLoad_some hl
    split
    · exact h
    · exact h.skipRecord.stopRecords hload

theorem checkRead (h : Upholds s u) {high low : Byte} : Upholds s (u.checkRead high low) := by
  unfold State.checkRead
  split
  · next hc hl =>
    split
    · exact h.judgeCheck hc hl
    · exact h
  · exact h

theorem writeAcknowledged (h : Upholds s u) : Upholds s u.writeAcknowledged := by
  unfold State.writeAcknowledged
  split
  · split
    · exact h.takeWrite.withImage
    · exact h.takeWrite.endStore.arbitrate
  · exact h

/-- Every command keeps each of the laws that are inductive by themselves. -/
theorem after (h : Upholds s u) (i : Instr) : Upholds s (u.after i) := by
  cases i
  case coldReset => exact h.coldReset
  case sofReceived => exact h.charAt
  case contentCharacter => exact h.charAt
  case eofReceived => exact h.charAt
  case abtReceived => exact h.charAt
  case framingError => exact h.advance.heard.framingLost
  case breakRecognised => exact h.advance.breakFound.breakLost
  case breakEnd => exact h.advance.heard
  case lineFallsToSpace => exact h.advance.mapDrop
  case gapExpiry => exact h.gapEnded
  case dropEofSent => exact h.dropEofSent
  case windowExpiry => exact h.windowEnded
  case guardEnd => exact h.guardEnded
  case deadlineExpiry => exact h.deadlineEnded
  case dropFault => exact h.breakMeasured
  case dropRecovery => exact h.markingMeasured
  case trunkEofSent => exact h.trunkEofSent
  case memoryPollTimeout => exact h.portFails.arbitrate
  case memoryByteNotAcknowledged => exact h.portFails.arbitrate
  case loadHeaderRead => exact h.headerRead
  case settingsRecord => exact h.takeRecord fun _ _ _ hl hv => hv.actSettings hl
  case dropRecord => exact h.takeRecord fun _ _ _ _ hv => hv.actDrop
  case stationRecord => exact h.takeRecord fun _ _ hc hl hv => hv.actStation hc hl
  case endRecord => exact h.endRecordRead
  case unknownRecord => exact h.takeRecord fun _ _ _ _ hv => hv.skipRecord
  case truncatedRecord => exact h.truncatedRead
  case loadEnd => exact h.checkRead
  case storeWriteAcknowledged => exact h.writeAcknowledged
  case abtSent => exact h.advance.abtSent
  case ignoredCharacter => exact h.charAt

/-- The queue of commands stands in no law. -/
theorem withPending (h : Upholds s u) {l : List Instr} : Upholds s { u with pending := l } :=
  ⟨h.pool, h.queue, h.count, h.memory, h.table, h.range, h.liveness, h.probe, h.exchange⟩

/-- So every step upholds them. -/
theorem of_step {t : State} (h : step s = .next t) : Upholds s t := by
  obtain ⟨-, rfl⟩ | ⟨c, rest, -, rfl⟩ := step_next h
  · exact refl _
  · exact (refl s).withPending.after c

end Upholds

/-- Settles O58: both laws are inductive by themselves, so the chain of `Upholds` carries them through every step. -/
theorem tableKept : Obligations.TableKept :=
  fun _ _ h => ⟨(Upholds.of_step h).table, (Upholds.of_step h).memory⟩

end Sys2Proof.Machine
end

section
/-! PROOFS. Counting holds: what each pool operation does to the reference counts and to the free list (R21 to R24), and
what each update of the state does to the places that hold a buffer (R22). -/

namespace Sys2Proof.Machine

set_option Elab.async false

/-! ### Reference counts -/

theorem Pool.count_eq {p : Pool} {b : BufId} {x : Buffer} (h : p.buffers[b] = some x) : p.count b = x.count := by
  simp [Pool.count, h]

theorem Pool.count_eq_zero {p : Pool} {b : BufId} (h : p.buffers[b] = none) : p.count b = 0 := by simp [Pool.count, h]

theorem Pool.count_of_ne {p q : Pool} {b : BufId} (h : q.buffers[b] = p.buffers[b]) : q.count b = p.count b := by
  simp [Pool.count, h]

/-- A buffer is in the free list exactly when nothing holds it. -/
theorem Pool.Lawful.mem_free {p : Pool} (h : p.Lawful) {b : BufId} : b ∈ p.free ↔ p.count b = 0 := by
  obtain ⟨-, hfree, hcount⟩ := h
  rw [hfree b]
  cases hb : p.buffers[b] with
  | none => simp [Pool.count_eq_zero hb]
  | some x =>
    have := hcount b x hb
    simp only [reduceCtorEq, Pool.count_eq hb, false_iff]
    omega

theorem Pool.count_write (p : Pool) (b c : BufId) (v : List Byte) : (p.write b v).count c = p.count c := by
  by_cases hc : c = b
  · subst hc
    cases hb : p.buffers[c.val] with
    | none => simp [Pool.write, Pool.count, hb]
    | some x => simp [Pool.write, Pool.count, hb]
  · exact Pool.count_of_ne (Pool.write_buffers_ne p v hc)

theorem Pool.count_hold {p : Pool} {b : BufId} (h : 1 ≤ p.count b) (c : BufId) :
    (p.hold b).count c = p.count c + [b].count c := by
  by_cases hc : c = b
  · subst hc
    cases hb : p.buffers[c.val] with
    | none => simp [Pool.count, hb] at h
    | some x => simp [Pool.hold, Pool.count, hb]
  · have hbc : b ≠ c := Ne.symm hc
    rw [Pool.count_of_ne (Pool.hold_buffers_ne p hc)]
    simp [hbc]

theorem Pool.count_release {p : Pool} (hp : p.Lawful) {b : BufId} (h : 1 ≤ p.count b) (c : BufId) :
    (p.release b).count c + [b].count c = p.count c := by
  by_cases hc : c = b
  · subst hc
    cases hb : p.buffers[c.val] with
    | none => simp [Pool.count, hb] at h
    | some x =>
      have hx := hp.2.2 c x hb
      by_cases hone : x.count ≤ 1
      · simp [Pool.release, Pool.count, hb, hone]; omega
      · simp [Pool.release, Pool.count, hb, hone]; omega
  · have hbc : b ≠ c := Ne.symm hc
    rw [Pool.count_of_ne (Pool.release_buffers_ne p hc)]
    simp [hbc]

/-- The last hold given up brings the buffer back to the free list; another does not. -/
theorem Pool.length_free_release {p : Pool} {b : BufId} (h : 1 ≤ p.count b) :
    (p.release b).free.length = p.free.length + if p.count b = 1 then 1 else 0 := by
  cases hb : p.buffers[b.val] with
  | none => simp [Pool.count, hb] at h
  | some x =>
    simp only [Pool.count, Fin.getElem_fin, hb, Option.map_some, Option.getD_some] at h ⊢
    by_cases hone : x.count ≤ 1
    · have hx : x.count = 1 := by omega
      simp [Pool.release, hb, hx]
    · have hx : x.count ≠ 1 := by omega
      simp [Pool.release, hb, hone, hx]

theorem Pool.count_taken (p : Pool) (b c : BufId) (rest : List BufId) :
    (p.taken b rest).count c = if c = b then 1 else p.count c := by
  by_cases hc : c = b
  · subst hc; simp [Pool.taken, Pool.count]
  · have hv : b.val ≠ c.val := fun hv => hc (Fin.ext hv.symm)
    simp [Pool.taken, Pool.count, hc, hv]

/-! ### Places -/

/-- A sum over a finite index whose terms differ at one index alone. -/
theorem sum_change {n : Nat} {f g : Fin n → Nat} (i : Fin n) (h : ∀ j, j ≠ i → g j = f j) :
    (∑ j, g j) + f i = (∑ j, f j) + g i := by
  have hf := Finset.add_sum_erase Finset.univ f (Finset.mem_univ i)
  have hg := Finset.add_sum_erase Finset.univ g (Finset.mem_univ i)
  have hrest : ∑ j ∈ Finset.univ.erase i, g j = ∑ j ∈ Finset.univ.erase i, f j :=
    Finset.sum_congr rfl fun j hj => h j (Finset.ne_of_mem_erase hj)
  omega

theorem le_sum {n : Nat} (f : Fin n → Nat) (i : Fin n) : f i ≤ ∑ j, f j :=
  Finset.single_le_sum (fun _ _ => Nat.zero_le _) (Finset.mem_univ i)

theorem add_le_sum {n : Nat} (f : Fin n → Nat) {i j : Fin n} (h : i ≠ j) : f i + f j ≤ ∑ k, f k :=
  Finset.add_le_sum (fun _ _ => Nat.zero_le _) (Finset.mem_univ i) (Finset.mem_univ j) h

theorem count_filterMap {α : Type} (f : α → Option BufId) (l : List α) (b : BufId) :
    (l.filterMap f).count b = (l.map fun a => (f a).toList.count b).sum := by
  induction l with
  | nil => rfl
  | cons a l ih => cases h : f a <;> simp [h, ih, List.count_cons]; omega

/-- The number of places that hold a buffer, field by field (R22). -/
theorem State.places_count (s : State) (b : BufId) :
    s.places.count b = s.trunk.rx.slot.toList.count b + (∑ d : Fin 4, (s.dropUnit d).places.count b)
      + (∑ t : Fin 16, ((s.exchange t).map Exchange.buffer).toList.count b) + s.upstream.urgent.count b
      + s.upstream.routine.count b + s.trunk.tx.pooled.toList.count b + s.mgmt.slot.buffer.toList.count b := by
  simp [State.places, List.count_flatMap, count_filterMap, Fin.sum_univ_def, Function.comp_def, add_assoc]

/-- The number of places of a drop that hold a buffer. -/
theorem Drop.places_count (x : Drop) (b : BufId) :
    x.places.count b = x.rx.slot.toList.count b + (x.queue.map Item.buffer).count b
      + (x.service.map Item.buffer).toList.count b := by
  simp [Drop.places, add_assoc]

theorem State.places_mapDrop (s : State) (d : DropId) (f : Drop → Drop) (b : BufId) :
    (s.mapDrop d f).places.count b + (s.dropUnit d).places.count b
      = s.places.count b + (f (s.dropUnit d)).places.count b := by
  have hsum := sum_change (f := fun e : Fin 4 => (s.dropUnit e).places.count b)
    (g := fun e => ((s.mapDrop d f).dropUnit e).places.count b) d
    fun e he => by rw [State.dropUnit_mapDrop_ne s f he]
  simp only [State.dropUnit_mapDrop_self] at hsum
  simp only [State.places_count, State.mapDrop_trunk, State.mapDrop_upstream, State.mapDrop_mgmt]
  have hexch : ∀ t : Tag, (s.mapDrop d f).exchange t = s.exchange t := fun _ => rfl
  simp only [hexch]
  omega

theorem State.places_putExchange (s : State) (t : Tag) (e : Option Exchange) (b : BufId) :
    (s.putExchange t e).places.count b + ((s.exchange t).map Exchange.buffer).toList.count b
      = s.places.count b + (e.map Exchange.buffer).toList.count b := by
  have hsum := sum_change (f := fun u => ((s.exchange u).map Exchange.buffer).toList.count b)
    (g := fun u => (((s.putExchange t e).exchange u).map Exchange.buffer).toList.count b) t
    fun u hu => by rw [State.exchange_putExchange_ne s e hu]
  simp only [State.exchange_putExchange_self] at hsum
  simp only [State.places_count, State.putExchange_trunk, State.putExchange_upstream, State.putExchange_mgmt]
  have hdrop : ∀ d : DropId, (s.putExchange t e).dropUnit d = s.dropUnit d := fun _ => rfl
  simp only [hdrop]
  omega

theorem State.places_withTrunk (s : State) (x : Trunk) (b : BufId) :
    ({ s with trunk := x } : State).places.count b + s.trunk.rx.slot.toList.count b
        + s.trunk.tx.pooled.toList.count b
      = s.places.count b + x.rx.slot.toList.count b + x.tx.pooled.toList.count b := by
  have hdrop : ∀ d : DropId, ({ s with trunk := x } : State).dropUnit d = s.dropUnit d := fun _ => rfl
  have hexch : ∀ t : Tag, ({ s with trunk := x } : State).exchange t = s.exchange t := fun _ => rfl
  simp only [State.places_count, hdrop, hexch]
  omega

theorem State.places_withUpstream (s : State) (x : Upstream) (b : BufId) :
    ({ s with upstream := x } : State).places.count b + s.upstream.urgent.count b + s.upstream.routine.count b
      = s.places.count b + x.urgent.count b + x.routine.count b := by
  have hdrop : ∀ d : DropId, ({ s with upstream := x } : State).dropUnit d = s.dropUnit d := fun _ => rfl
  have hexch : ∀ t : Tag, ({ s with upstream := x } : State).exchange t = s.exchange t := fun _ => rfl
  simp only [State.places_count, hdrop, hexch]
  omega

theorem State.places_withMgmt (s : State) (x : Management) (b : BufId) :
    ({ s with mgmt := x } : State).places.count b + s.mgmt.slot.buffer.toList.count b
      = s.places.count b + x.slot.buffer.toList.count b := by
  have hdrop : ∀ d : DropId, ({ s with mgmt := x } : State).dropUnit d = s.dropUnit d := fun _ => rfl
  have hexch : ∀ t : Tag, ({ s with mgmt := x } : State).exchange t = s.exchange t := fun _ => rfl
  simp only [State.places_count, hdrop, hexch]
  omega

/-- Places stand in these fields alone. -/
theorem State.places_congr {s t : State} (hexch : t.exchanges = s.exchanges)
    (hdrops : ∀ (d : DropId) b, (t.dropUnit d).places.count b = (s.dropUnit d).places.count b)
    (hrx : t.trunk.rx.slot = s.trunk.rx.slot) (htx : t.trunk.tx.pooled = s.trunk.tx.pooled)
    (hurgent : t.upstream.urgent = s.upstream.urgent) (hroutine : t.upstream.routine = s.upstream.routine)
    (hslot : t.mgmt.slot.buffer = s.mgmt.slot.buffer) (b : BufId) : t.places.count b = s.places.count b := by
  have hexch' : ∀ u : Tag, t.exchange u = s.exchange u := fun u => by simp [State.exchange, hexch]
  simp only [State.places_count, hexch', hdrops, hrx, htx, hurgent, hroutine, hslot]

/-! ### A place among the places -/

theorem State.slot_le_places (s : State) {l : Line} {b : BufId} (h : (s.rx l).slot = some b) : 1 ≤ s.places.count b := by
  cases l with
  | trunk =>
    have h' : s.trunk.rx.slot = some b := h
    rw [State.places_count, h']
    simp
    omega
  | drop d =>
    have h' : (s.dropUnit d).rx.slot = some b := h
    have hd : 1 ≤ (s.dropUnit d).places.count b := by rw [Drop.places_count, h']; simp; omega
    have hle := le_sum (fun e : Fin 4 => (s.dropUnit e).places.count b) d
    rw [State.places_count]
    omega

/-- The request slots are places, and so are the items of a drop and the slot of a receiver. -/
theorem State.requests_le_places (s : State) (l : Line) (d : DropId) (b : BufId) :
    (s.rx l).slot.toList.count b + (∑ t : Fin 16, ((s.exchange t).map Exchange.buffer).toList.count b)
        + ((s.dropUnit d).queue.map Item.buffer).count b + ((s.dropUnit d).service.map Item.buffer).toList.count b
      ≤ s.places.count b := by
  have hsplit : (∑ f : Fin 4, (s.dropUnit f).places.count b)
      = (∑ f : Fin 4, (s.dropUnit f).rx.slot.toList.count b)
        + ∑ f : Fin 4, (((s.dropUnit f).queue.map Item.buffer).count b
            + ((s.dropUnit f).service.map Item.buffer).toList.count b) := by
    rw [← Finset.sum_add_distrib]
    exact Finset.sum_congr rfl fun f _ => by rw [Drop.places_count]; omega
  have hwork := le_sum (fun f : Fin 4 => ((s.dropUnit f).queue.map Item.buffer).count b
    + ((s.dropUnit f).service.map Item.buffer).toList.count b) d
  rw [State.places_count, hsplit]
  cases l with
  | trunk => simp only [State.rx]; omega
  | drop f =>
    have hslot := le_sum (fun f : Fin 4 => (s.dropUnit f).rx.slot.toList.count b) f
    simp only [State.rx]
    omega

/-- A request slot is a place; the item of the exchange is another. -/
theorem State.request_le_places (s : State) {t : Tag} {e : Exchange} (h : s.exchange t = some e) (d : DropId) :
    1 + ((s.dropUnit d).queue.map Item.buffer).count e.buffer
        + ((s.dropUnit d).service.map Item.buffer).toList.count e.buffer ≤ s.places.count e.buffer := by
  have ht := le_sum (fun u : Fin 16 => ((s.exchange u).map Exchange.buffer).toList.count e.buffer) t
  have hplaces := s.requests_le_places .trunk d e.buffer
  simp only [h, Option.map_some, Option.toList_some, List.count_singleton_self] at ht
  omega

end Sys2Proof.Machine
end

section
/-! PROOFS. `Held x r s`: the laws of the holds (R21 to R28) while a command is under way. `x` lists the holds that no place
stands for at the moment, such as the hand-over hold of a frame taken from its receiver; `r` is what the drop reserve lacks
until such a frame's buffer has been dealt with. Between commands `x` is empty and `r` is 0. -/

namespace Sys2Proof.Machine

set_option Elab.async false

/-- The number of drop receivers that hold a buffer (R25). -/
def State.slotsHeld (s : State) : Nat := ∑ d : Fin 4, (s.dropUnit d).rx.slot.toList.length

/-- The part of the drop reserve that a line's receiver stands for while it holds a buffer. -/
def reservedFor : Line → Nat
  | .trunk => 0
  | .drop _ => 1

/-- The laws of the holds, some of which no place stands for. -/
structure Held (x : List BufId) (r : Nat) (s : State) : Prop where
  pool : s.pool.Lawful
  count : ∀ b, s.pool.count b = s.places.count b + x.count b
  reserve : 4 ≤ s.pool.free.length + s.slotsHeld + r
  receiver : ReceiverLaw s
  request : RequestLaw s

theorem length_filter_eq_sum {n : Nat} (p : Fin n → Bool) :
    ((List.finRange n).filter p).length = ∑ i, if p i = true then 1 else 0 := by
  rw [← List.countP_eq_length_filter, Fin.sum_univ_def]
  induction List.finRange n with
  | nil => rfl
  | cons a l ih => simp [List.countP_cons, ih]; omega

theorem reserveLaw_iff (s : State) : ReserveLaw s ↔ 4 ≤ s.pool.free.length + s.slotsHeld := by
  have hterm : ∀ o : Option BufId, (if o.isSome = true then 1 else 0) = o.toList.length := fun o => by cases o <;> rfl
  simp only [ReserveLaw, State.slotsHeld, length_filter_eq_sum, hterm]

/-! ### Reads that an update leaves -/

theorem State.rx_mapDrop {s : State} {d : DropId} {f : Drop → Drop} (hf : (f (s.dropUnit d)).rx = (s.dropUnit d).rx)
    (l : Line) : (s.mapDrop d f).rx l = s.rx l := by
  cases l with
  | trunk => rfl
  | drop e =>
    by_cases he : e = d
    · subst he; simpa [State.rx] using hf
    · simp [State.rx, State.dropUnit_mapDrop_ne s f he]

/-- Of a drop changed, what its change leaves is left on every drop. -/
theorem State.mapDrop_at {α : Type} (F : Drop → α) {s : State} {d : DropId} {f : Drop → Drop}
    (hf : F (f (s.dropUnit d)) = F (s.dropUnit d)) (e : DropId) : F ((s.mapDrop d f).dropUnit e) = F (s.dropUnit e) := by
  by_cases he : e = d
  · subst he; simpa using hf
  · rw [State.dropUnit_mapDrop_ne s f he]

theorem State.rx_setRx_self (s : State) (l : Line) (r : Receiver) : (s.setRx l r).rx l = r := by
  cases l with
  | trunk => rfl
  | drop d => simp [State.setRx, State.rx]

theorem State.rx_setRx_ne (s : State) {l m : Line} (r : Receiver) (h : m ≠ l) : (s.setRx l r).rx m = s.rx m := by
  cases l with
  | trunk =>
    cases m with
    | trunk => exact absurd rfl h
    | drop e => rfl
  | drop d =>
    cases m with
    | trunk => rfl
    | drop e =>
      have he : e ≠ d := fun he => h (by rw [he])
      simp [State.setRx, State.rx, State.dropUnit_mapDrop_ne s _ he]

/-- A receiver set leaves every drop's work. -/
theorem State.setRx_work (s : State) (l : Line) (r : Receiver) (d : DropId) :
    ((s.setRx l r).dropUnit d).queue = (s.dropUnit d).queue ∧ ((s.setRx l r).dropUnit d).service = (s.dropUnit d).service
      ∧ ((s.setRx l r).dropUnit d).line = (s.dropUnit d).line ∧ ((s.setRx l r).dropUnit d).mode = (s.dropUnit d).mode
      ∧ ((s.setRx l r).dropUnit d).tx = (s.dropUnit d).tx := by
  cases l with
  | trunk => exact ⟨rfl, rfl, rfl, rfl, rfl⟩
  | drop e =>
    by_cases hd : d = e
    · subst hd; simp [State.setRx]
    · simp [State.setRx, State.dropUnit_mapDrop_ne s _ hd]

/-! ### Places and slots of an update -/

theorem State.slotsHeld_congr {s t : State} (h : ∀ d, (t.dropUnit d).rx.slot = (s.dropUnit d).rx.slot) :
    t.slotsHeld = s.slotsHeld := by simp only [State.slotsHeld, h]

theorem State.slotsHeld_setRx (s : State) (l : Line) (r : Receiver) :
    (s.setRx l r).slotsHeld + reservedFor l * (s.rx l).slot.toList.length
      = s.slotsHeld + reservedFor l * r.slot.toList.length := by
  cases l with
  | trunk => simp only [reservedFor, zero_mul]; rfl
  | drop d =>
    have hsum := sum_change (f := fun e : Fin 4 => (s.dropUnit e).rx.slot.toList.length)
      (g := fun e => ((s.mapDrop d fun x => { x with rx := r }).dropUnit e).rx.slot.toList.length) d
      fun e he => by rw [State.dropUnit_mapDrop_ne s _ he]
    simp only [State.dropUnit_mapDrop_self] at hsum
    simp only [reservedFor, one_mul]
    exact hsum

theorem State.places_setRx (s : State) (l : Line) (r : Receiver) (b : BufId) :
    (s.setRx l r).places.count b + (s.rx l).slot.toList.count b = s.places.count b + r.slot.toList.count b := by
  cases l with
  | trunk =>
    have h := s.places_withTrunk { s.trunk with rx := r } b
    simp only [State.setRx, State.rx] at h ⊢
    omega
  | drop d =>
    have h := s.places_mapDrop d (fun x => { x with rx := r }) b
    simp only [Drop.places_count] at h
    simp only [State.setRx, State.rx]
    omega

theorem RequestLaw.congr {s t : State} (h : RequestLaw s) (hexch : ∀ u, t.exchange u = s.exchange u)
    (hqueue : ∀ d, (t.dropUnit d).queue = (s.dropUnit d).queue)
    (hservice : ∀ d, (t.dropUnit d).service = (s.dropUnit d).service)
    (hcount : ∀ u e, s.exchange u = some e → t.pool.count e.buffer = s.pool.count e.buffer) : RequestLaw t := by
  intro u e he
  rw [hexch] at he
  obtain ⟨hqueued, hserved, hholds⟩ := h u e he
  exact ⟨fun hq => by rw [hqueue]; exact hqueued hq, fun hs => by rw [hservice]; exact hserved hs,
    (hcount u e he).trans hholds⟩

theorem ReceiverLaw.congr {s t : State} (h : ReceiverLaw s) (hrx : ∀ l, t.rx l = s.rx l)
    (hcount : ∀ l b, (s.rx l).slot = some b → t.pool.count b = s.pool.count b) : ReceiverLaw t := by
  intro l
  rw [hrx]
  exact ⟨(h l).1, fun b hb => (hcount l b hb).trans ((h l).2 b hb)⟩

namespace Held

variable {x : List BufId} {r : Nat} {s u : State}

theorem of_laws (hpool : PoolLaw s) (hhold : HoldLaw s) (hreserve : ReserveLaw s) (hreceiver : ReceiverLaw s)
    (hrequest : RequestLaw s) : Held [] 0 s :=
  ⟨hpool, fun b => by simpa using hhold b, (reserveLaw_iff s).1 hreserve, hreceiver, hrequest⟩

theorem holdLaw (h : Held [] 0 s) : HoldLaw s := fun b => by simpa using h.count b

theorem reserveLaw (h : Held [] 0 s) : ReserveLaw s := (reserveLaw_iff s).2 h.reserve

/-- An unplaced hold is on no buffer of a receiver. -/
theorem slot_ne (h : Held x r s) {b : BufId} (hb : b ∈ x) {l : Line} {c : BufId} (hc : (s.rx l).slot = some c) :
    c ≠ b := by
  rintro rfl
  have hone := (h.receiver l).2 c hc
  have hplaced := s.slot_le_places hc
  have hx := List.one_le_count_iff.2 hb
  have := h.count c
  omega

/-- The request slot and the exchange's item on its drop account for all holds of the request buffer (R28). -/
theorem request_holds (h : Held x r s) {t : Tag} {e : Exchange} (he : s.exchange t = some e) :
    s.pool.count e.buffer ≤ 1 + ((s.dropUnit e.drop).queue.map Item.buffer).count e.buffer
      + ((s.dropUnit e.drop).service.map Item.buffer).toList.count e.buffer := by
  obtain ⟨hqueued, hserved, hholds⟩ := h.request t e he
  have hitem : e.inService = true →
      ((s.dropUnit e.drop).service.map Item.buffer).toList.count e.buffer = 1 := fun hin => by
    obtain ⟨it, hit, -, hbuf⟩ := hserved hin
    simp [hit, hbuf]
  rw [hholds]
  cases hs : e.state with
  | queued =>
    obtain ⟨it, hit, -, hbuf⟩ := hqueued hs
    have := List.one_le_count_iff.2 (List.mem_map.2 ⟨it, hit, hbuf⟩)
    simp only [reduceCtorEq, or_self, if_false]
    omega
  | sending => rw [hitem (by simp [Exchange.inService, hs])]; simp
  | awaiting => rw [hitem (by simp [Exchange.inService, hs])]; simp
  | fetching => rw [hitem (by simp [Exchange.inService, hs])]; simp
  | deferred => simp only [true_or, if_true]; omega
  | fetchDue => simp only [or_true, if_true]; omega

/-- An unplaced hold is on no request buffer. -/
theorem request_ne (h : Held x r s) {b : BufId} (hb : b ∈ x) {t : Tag} {e : Exchange} (he : s.exchange t = some e) :
    e.buffer ≠ b := by
  rintro rfl
  have hx := List.one_le_count_iff.2 hb
  have hle := h.request_holds he
  have hplaces := s.request_le_places he e.drop
  have := h.count e.buffer
  omega

/-- No two open exchanges have one request buffer. -/
theorem request_unique (h : Held x r s) {t v : Tag} {e f : Exchange} (he : s.exchange t = some e)
    (hf : s.exchange v = some f) (htv : t ≠ v) : f.buffer ≠ e.buffer := by
  intro heq
  have hle := h.request_holds he
  have hplaces := s.requests_le_places .trunk e.drop e.buffer
  have htwo := add_le_sum (fun w : Fin 16 => ((s.exchange w).map Exchange.buffer).toList.count e.buffer) htv
  simp only [he, hf, heq, Option.map_some, Option.toList_some, List.count_singleton_self] at htwo
  have := h.count e.buffer
  omega

/-! ### Nothing moved -/

/-- The same pool, the same places. -/
theorem moved (h : Held x r s) {y : List BufId} {q : Nat} {t : State} (hpool : t.pool = s.pool)
    (hcount : ∀ b, t.places.count b + y.count b = s.places.count b + x.count b)
    (hslots : s.slotsHeld + r ≤ t.slotsHeld + q) (hreceiver : ReceiverLaw t) (hrequest : RequestLaw t) : Held y q t := by
  refine ⟨hpool ▸ h.pool, fun b => ?_, ?_, hreceiver, hrequest⟩
  · rw [hpool, h.count b, hcount b]
  · have := h.reserve
    rw [hpool]
    omega

/-- The fields that places stand in left alone. -/
theorem same (h : Held x r s) {t : State} (hpool : t.pool = s.pool := by rfl)
    (hexch : t.exchanges = s.exchanges := by rfl) (hdrops : t.drops = s.drops := by rfl)
    (hrx : t.trunk.rx = s.trunk.rx := by rfl) (htx : t.trunk.tx.pooled = s.trunk.tx.pooled := by rfl)
    (hurgent : t.upstream.urgent = s.upstream.urgent := by rfl)
    (hroutine : t.upstream.routine = s.upstream.routine := by rfl)
    (hslot : t.mgmt.slot.buffer = s.mgmt.slot.buffer := by rfl) : Held x r t := by
  have hunit : ∀ d, t.dropUnit d = s.dropUnit d := fun d => by simp [State.dropUnit, hdrops]
  have hexch' : ∀ v, t.exchange v = s.exchange v := fun v => by simp [State.exchange, hexch]
  refine h.moved hpool (fun b => ?_) (Nat.le_of_eq ?_) (h.receiver.congr (fun l => ?_) fun l b _ => by rw [hpool])
    (h.request.congr hexch' (fun d => by rw [hunit]) (fun d => by rw [hunit]) fun _ _ _ => by rw [hpool])
  · rw [State.places_congr hexch (fun d b => by rw [hunit]) (by rw [hrx]) htx hurgent hroutine hslot]
  · rw [State.slotsHeld_congr fun d => by rw [hunit]]
  · cases l with
    | trunk => exact hrx
    | drop d => exact congrArg Drop.rx (hunit d)

/-- A drop changed outside its receiver, its queue and its in-service slot. -/
theorem mapDrop (h : Held x r u) {d : DropId} {f : Drop → Drop}
    (hrx : (f (u.dropUnit d)).rx = (u.dropUnit d).rx := by rfl)
    (hqueue : (f (u.dropUnit d)).queue = (u.dropUnit d).queue := by rfl)
    (hservice : (f (u.dropUnit d)).service = (u.dropUnit d).service := by rfl) : Held x r (u.mapDrop d f) := by
  refine h.moved rfl (fun b => ?_) (Nat.le_of_eq ?_) (h.receiver.congr (State.rx_mapDrop hrx) fun _ _ _ => rfl)
    (h.request.congr (fun _ => rfl) (State.mapDrop_at Drop.queue hqueue) (State.mapDrop_at Drop.service hservice)
      fun _ _ _ => rfl)
  · have hplaces := u.places_mapDrop d f b
    simp only [Drop.places_count, hrx, hqueue, hservice] at hplaces
    omega
  · rw [State.slotsHeld_congr (State.mapDrop_at (fun y => y.rx.slot) (congrArg Receiver.slot hrx))]

/-! ### The pool's operations -/

/-- Reference counts the same, so are the laws. -/
theorem counted (h : Held x r s) {y : List BufId} {q : Nat} {p : Pool} (hp : p.Lawful)
    (hcount : ∀ b, p.count b = s.places.count b + y.count b)
    (hsame : ∀ b, (∀ c, x.count c ≠ y.count c → b ≠ c) → p.count b = s.pool.count b)
    (hunplaced : ∀ c, x.count c ≠ y.count c → c ∈ x)
    (hfree : s.pool.free.length + r ≤ p.free.length + q) : Held y q { s with pool := p } := by
  have hreserve := h.reserve
  refine ⟨hp, hcount, ?_, ?_, ?_⟩
  · change 4 ≤ p.free.length + s.slotsHeld + q
    omega
  · exact h.receiver.congr (fun _ => rfl) fun l b hb => hsame b fun c hc => h.slot_ne (hunplaced c hc) hb
  · exact h.request.congr (fun _ => rfl) (fun _ => rfl) (fun _ => rfl)
      fun t e he => hsame e.buffer fun c hc => h.request_ne (hunplaced c hc) he

theorem write (h : Held x r u) {b : BufId} {v : List Byte} : Held x r (u.write b v) := by
  have hw := Pool.count_write u.pool b
  exact h.counted (h.pool.write b v) (fun c => by rw [hw, h.count c]) (fun c _ => hw c v) (fun c hc => absurd rfl hc)
    (by simp)

/-- One more hold on a buffer that has an unplaced one. -/
theorem hold (h : Held x r u) {b : BufId} (hb : b ∈ x) : Held (b :: x) r (u.hold b) := by
  have hone : 1 ≤ u.pool.count b := by have := h.count b; have := List.one_le_count_iff.2 hb; omega
  have hcount := fun c => Pool.count_hold hone c
  have hcons : ∀ c, (b :: x).count c = x.count c + [b].count c := fun c => by
    rw [List.count_cons, List.count_singleton]
  refine h.counted (h.pool.hold b) (fun c => ?_) (fun c hc => ?_) (fun c hc => ?_) (by simp)
  · rw [hcount, hcons, h.count c]; omega
  · have hcb : c ≠ b := hc b (by rw [hcons]; simp)
    rw [hcount]; simp [Ne.symm hcb]
  · by_cases hcb : c = b
    · exact hcb ▸ hb
    · exact absurd (by rw [hcons]; simp [Ne.symm hcb]) hc

/-- An unplaced hold given up. -/
theorem release (h : Held (b :: x) r u) : Held x r (u.release b) := by
  have hone : 1 ≤ u.pool.count b := by have := h.count b; rw [List.count_cons_self] at this; omega
  have hcount := fun c => Pool.count_release h.pool hone c
  have hcons : ∀ c, (b :: x).count c = x.count c + [b].count c := fun c => by
    rw [List.count_cons, List.count_singleton]
  refine h.counted (h.pool.release b) (fun c => ?_) (fun c hc => ?_) (fun c hc => ?_) ?_
  · have := hcount c; have := h.count c; rw [hcons] at this; omega
  · have hcb : c ≠ b := hc b (by rw [hcons]; simp)
    have := hcount c
    simpa [Ne.symm hcb] using this
  · by_cases hcb : c = b
    · exact hcb ▸ List.mem_cons_self
    · exact absurd (by rw [hcons]; simp [Ne.symm hcb]) hc
  · rw [Pool.length_free_release hone]; omega

/-- The last hold given up: the buffer is free again, and the reserve has one more. -/
theorem releaseLast (h : Held (b :: x) (r + 1) u) (hplaced : u.places.count b = 0) (hx : x.count b = 0) :
    Held x r (u.release b) := by
  have hreleased := h.release
  have hone : u.pool.count b = 1 := by
    have := h.count b
    rw [List.count_cons_self] at this
    omega
  refine ⟨hreleased.pool, hreleased.count, ?_, hreleased.receiver, hreleased.request⟩
  have hfree := Pool.length_free_release (Nat.le_of_eq hone.symm)
  rw [hone, if_pos rfl] at hfree
  have := h.reserve
  change 4 ≤ (u.pool.release b).free.length + u.slotsHeld + r
  omega

end Held
end Sys2Proof.Machine
end

section
/-! PROOFS. The holds through the receivers, the upstream queues and the replay slot: one lemma per operation, in the form
of a further link of a chain. -/

namespace Sys2Proof.Machine.Held

set_option Elab.async false

variable {x : List BufId} {r : Nat} {s u : State}

/-! ### Receivers -/

/-- A receiver changed but for its state and its slot. -/
theorem setRx (h : Held x r u) {l : Line} {v : Receiver} (hstate : v.state = (u.rx l).state := by rfl)
    (hslot : v.slot = (u.rx l).slot := by rfl) : Held x r (u.setRx l v) := by
  have hrx : ∀ m, ((u.setRx l v).rx m).state = (u.rx m).state ∧ ((u.setRx l v).rx m).slot = (u.rx m).slot := fun m => by
    by_cases hm : m = l
    · subst hm; rw [State.rx_setRx_self]; exact ⟨hstate, hslot⟩
    · rw [State.rx_setRx_ne u v hm]; exact ⟨rfl, rfl⟩
  refine h.moved (by simp) (fun b => ?_) (Nat.le_of_eq ?_) (fun m => ?_) (h.request.congr (fun t => ?_) (fun d => ?_)
    (fun d => ?_) fun _ _ _ => by simp)
  · have := u.places_setRx l v b; rw [hslot] at this; omega
  · have := u.slotsHeld_setRx l v; rw [hslot] at this; omega
  · obtain ⟨hst, hsl⟩ := hrx m
    rw [hst, hsl]
    simpa using h.receiver m
  · simp [State.exchange]
  · exact (u.setRx_work l v d).1
  · exact (u.setRx_work l v d).2.1

/-- What a receiver outside ASSEMBLE holds: nothing. -/
theorem slot_none (h : Held x r u) {l : Line} (hl : (u.rx l).state ≠ .assemble) : (u.rx l).slot = none := by
  cases hs : (u.rx l).slot with
  | none => rfl
  | some b => exact absurd ((h.receiver l).1.1 (by simp [hs])) hl

/-- The buffer a receiver assembles in is held by its slot alone. -/
theorem slot_alone (h : Held x r u) {l : Line} {b : BufId} (hb : (u.rx l).slot = some b) :
    u.places.count b = 1 ∧ x.count b = 0 := by
  have := (h.receiver l).2 b hb
  have := h.count b
  have := u.slot_le_places hb
  omega

/-- A receiver outside ASSEMBLE set to another such state. -/
theorem setRxIdle (h : Held x r u) {l : Line} {v : Receiver} (hl : (u.rx l).state ≠ .assemble)
    (hv : v.slot = none := by rfl) (hstate : v.state ≠ .assemble := by nofun) : Held x r (u.setRx l v) := by
  have hnone := h.slot_none hl
  refine h.moved (by simp) (fun b => ?_) (Nat.le_of_eq ?_) (fun m => ?_) (h.request.congr (fun t => ?_) (fun d => ?_)
    (fun d => ?_) fun _ _ _ => by simp)
  · have := u.places_setRx l v b; rw [hv, hnone] at this; omega
  · have := u.slotsHeld_setRx l v; rw [hv, hnone] at this; omega
  · by_cases hm : m = l
    · subst hm; rw [State.rx_setRx_self, hv]; simp [hstate]
    · rw [State.rx_setRx_ne u v hm]; simpa using h.receiver m
  · simp [State.exchange]
  · exact (u.setRx_work l v d).1
  · exact (u.setRx_work l v d).2.1

/-- A receiver's slot emptied, its buffer not yet dealt with. -/
theorem emptySlot (h : Held x r u) {l : Line} {v : Receiver} {b : BufId} (hb : (u.rx l).slot = some b)
    (hv : v.slot = none := by rfl) (hstate : v.state ≠ .assemble := by nofun) :
    Held (b :: x) (r + reservedFor l) (u.setRx l v) := by
  refine h.moved (by simp) (fun c => ?_) ?_ (fun m => ?_) (h.request.congr (fun t => ?_) (fun d => ?_)
    (fun d => ?_) fun _ _ _ => by simp)
  · have := u.places_setRx l v c
    rw [hv, hb] at this
    simp only [Option.toList_some, Option.toList_none, List.count_singleton, List.count_nil] at this
    rw [List.count_cons]
    omega
  · have := u.slotsHeld_setRx l v; rw [hv, hb] at this; simp at this; omega
  · by_cases hm : m = l
    · subst hm; rw [State.rx_setRx_self, hv]; simp [hstate]
    · rw [State.rx_setRx_ne u v hm]; simpa using h.receiver m
  · simp [State.exchange]
  · exact (u.setRx_work l v d).1
  · exact (u.setRx_work l v d).2.1

/-- The buffer of a slot emptied is in no place. -/
theorem emptySlot_fresh (h : Held x r u) {l : Line} {v : Receiver} {b : BufId} (hb : (u.rx l).slot = some b)
    (hv : v.slot = none := by rfl) : (u.setRx l v).places.count b = 0 ∧ x.count b = 0 := by
  obtain ⟨hplaced, hx⟩ := h.slot_alone hb
  have := u.places_setRx l v b
  rw [hv, hb, hplaced] at this
  simp only [Option.toList_some, Option.toList_none, List.count_singleton_self, List.count_nil] at this
  exact ⟨by omega, hx⟩

/-- A frame dropped: its buffer is free again (R10 to R14). -/
theorem dropFrame (h : Held x r u) {l : Line} {next : RxState} (hnext : next ≠ .assemble := by nofun) :
    Held x r (u.dropFrame l next) := by
  unfold State.dropFrame
  simp only
  split
  · next hs =>
    have hl : (u.rx l).state ≠ .assemble := fun hst => by have := (h.receiver l).1.2 hst; simp [hs] at this
    exact h.setRxIdle hl rfl hnext
  · next b hb =>
    have hempty := h.emptySlot (v := { Receiver.idle with state := next }) hb rfl hnext
    obtain ⟨hplaced, hx⟩ := h.emptySlot_fresh (v := { Receiver.idle with state := next }) hb
    cases l with
    | trunk => exact hempty.release
    | drop d => exact hempty.releaseLast hplaced hx

/-- A free buffer given to a receiver that holds none (R8, R24). -/
theorem fillSlot (h : Held x 0 u) {l : Line} {v : Receiver} {b : BufId} {p : Pool} (hp : u.pool.take = some (b, p))
    (hmay : u.mayTake l = true) (hl : (u.rx l).state ≠ .assemble) (hv : v.slot = some b := by rfl)
    (hstate : v.state = .assemble := by rfl) : Held x 0 (State.setRx { u with pool := p } l v) := by
  obtain ⟨rest, hfree, rfl⟩ := Pool.take_some hp
  have hnone := h.slot_none hl
  have hzero : u.pool.count b = 0 := h.pool.mem_free.1 (by rw [hfree]; simp)
  have hcount := Pool.count_taken u.pool b
  have hb := h.count b
  refine ⟨?_, fun c => ?_, ?_, fun m => ?_, ?_⟩
  · simpa using h.pool.taken hfree
  · have hplaces := State.places_setRx { u with pool := u.pool.taken b rest } l v c
    have hsame : ({ u with pool := u.pool.taken b rest } : State).places = u.places := rfl
    have hrx : ({ u with pool := u.pool.taken b rest } : State).rx l = u.rx l := by cases l <;> rfl
    rw [hsame, hrx, hv, hnone] at hplaces
    simp only [Option.toList_some, Option.toList_none, List.count_nil, List.count_singleton] at hplaces
    simp only [State.setRx_keeps]
    rw [hcount]
    have := h.count c
    by_cases hc : c = b
    · subst hc; simp only [beq_self_eq_true, if_true] at hplaces ⊢; omega
    · simp only [beq_eq_false_iff_ne.2 (Ne.symm hc), Bool.false_eq_true, if_false] at hplaces
      rw [if_neg hc]
      omega
  · have hslots := State.slotsHeld_setRx { u with pool := u.pool.taken b rest } l v
    have hsame : ({ u with pool := u.pool.taken b rest } : State).slotsHeld = u.slotsHeld := rfl
    have hrx : ({ u with pool := u.pool.taken b rest } : State).rx l = u.rx l := by cases l <;> rfl
    rw [hsame, hrx, hv, hnone] at hslots
    simp only [Option.toList_some, Option.toList_none, List.length_nil, List.length_singleton] at hslots
    have hreserve := h.reserve
    simp only [State.setRx_keeps]
    rw [hfree, List.length_cons] at hreserve
    change 4 ≤ rest.length + _ + 0
    cases l with
    | trunk =>
      have hfour : 4 < u.pool.free.length := of_decide_eq_true hmay
      rw [hfree, List.length_cons] at hfour
      omega
    | drop d => simp only [reservedFor] at hslots; omega
  · by_cases hm : m = l
    · subst hm
      rw [State.rx_setRx_self, hv, hstate]
      refine ⟨by simp, fun c hc => ?_⟩
      obtain rfl := Option.some.inj hc
      simp [hcount]
    · have hrx : ({ u with pool := u.pool.taken b rest } : State).rx m = u.rx m := by cases m <;> rfl
      rw [State.rx_setRx_ne _ v hm, hrx]
      refine ⟨(h.receiver m).1, fun c hc => ?_⟩
      have hone := (h.receiver m).2 c hc
      have hcb : c ≠ b := by rintro rfl; omega
      simp [hcount, hcb, hone]
  · refine h.request.congr (fun t => ?_) (fun d => ?_) (fun d => ?_) fun t e he => ?_
    · simp [State.exchange]
    · exact (State.setRx_work _ l v d).1
    · exact (State.setRx_work _ l v d).2.1
    · have hone : 1 ≤ u.pool.count e.buffer := by
        have := u.request_le_places he e.drop
        have := h.count e.buffer
        omega
      have heb : e.buffer ≠ b := by intro heq; rw [heq] at hone; omega
      simp [hcount, heb]

/-! ### The upstream queues and the trunk transmitter -/

/-- An unplaced hold becomes an upstream position's. -/
theorem queueUp (h : Held (b :: x) r u) {c : Class} : Held x r (u.queueUp c b) := by
  have hcount : ∀ a, (u.queueUp c b).places.count a + x.count a = u.places.count a + (b :: x).count a := fun a => by
    have hplaces := u.places_withUpstream (u.queueUp c b).upstream a
    cases c with
    | urgent =>
      simp only [State.queueUp, List.count_append, List.count_singleton] at hplaces
      rw [List.count_cons]
      simp only [State.queueUp]
      omega
    | routine =>
      simp only [State.queueUp, List.count_append, List.count_singleton] at hplaces
      rw [List.count_cons]
      simp only [State.queueUp]
      omega
  have hunit : ∀ d, (u.queueUp c b).dropUnit d = u.dropUnit d := fun d => by simp [State.dropUnit]
  refine h.moved (by simp) hcount (Nat.le_of_eq ?_) (h.receiver.congr (fun l => ?_) fun _ _ _ => by simp)
    (h.request.congr (fun t => ?_) (fun d => by rw [hunit]) (fun d => by rw [hunit]) fun _ _ _ => by simp)
  · rw [State.slotsHeld_congr fun d => by rw [hunit]]
  · cases l with
    | trunk => simp [State.rx]
    | drop d => simp [State.rx, hunit]
  · simp [State.exchange]

/-- A pool buffer given to the idle trunk transmitter has one more place. -/
theorem places_giveTrunk {v : State} (b a : BufId) (hidle : v.trunk.tx = .idle) :
    (v.giveTrunk (.pool b)).places.count a = v.places.count a + [b].count a := by
  have htrunk := v.places_withTrunk (v.giveTrunk (.pool b)).trunk a
  have hsame : (v.giveTrunk (.pool b)).trunk.rx = v.trunk.rx := rfl
  have htx : (v.giveTrunk (.pool b)).trunk.tx.pooled = some b := rfl
  have hnone : v.trunk.tx.pooled = none := by rw [hidle]; rfl
  rw [hsame, htx, hnone] at htrunk
  simp only [Option.toList_none, Option.toList_some, List.count_nil] at htrunk
  change ({ v with trunk := (v.giveTrunk (.pool b)).trunk } : State).places.count a = _
  omega

/-- An upstream head given to the idle trunk transmitter keeps its hold (R131). -/
theorem giveTrunk (h : Held x r u) {b : BufId} {y : Upstream} (hidle : u.trunk.tx = .idle)
    (hhead : ∀ a, u.upstream.urgent.count a + u.upstream.routine.count a
      = y.urgent.count a + y.routine.count a + [b].count a) :
    Held x r (State.giveTrunk { u with upstream := y } (.pool b)) := by
  refine h.moved rfl (fun a => ?_) (Nat.le_refl _) (h.receiver.congr (fun l => by cases l <;> rfl) fun _ _ _ => rfl)
    (h.request.congr (fun _ => rfl) (fun _ => rfl) (fun _ => rfl) fun _ _ _ => rfl)
  have hup := u.places_withUpstream y a
  have hgiven := places_giveTrunk (v := { u with upstream := y }) b a hidle
  have ha := hhead a
  omega

theorem arbitrate (h : Held x r u) : Held x r u.arbitrate := by
  unfold State.arbitrate
  split
  · exact h
  · next hidle =>
    have hidle : u.trunk.tx = .idle := not_not.1 hidle
    have hroutine : ∀ b rest, u.upstream.routine = b :: rest → Held x r (u.giveRoutine b rest) := fun b rest hq =>
      h.giveTrunk hidle fun a => by
        simp only [hq, List.count_cons, List.count_nil]; omega
    have hurgent : ∀ b rest, u.upstream.urgent = b :: rest → Held x r (u.giveUrgent b rest) := fun b rest hq =>
      h.giveTrunk hidle fun a => by
        simp only [hq, List.count_cons, List.count_nil]; omega
    have hstate : ∀ st, Held x r (u.giveState st) := fun st => h.same (htx := by rw [hidle]; rfl)
    split
    · next hr hu =>
      split
      · exact hroutine _ _ hr
      · exact hurgent _ _ hu
    · next hr _ _ =>
      split
      · exact hroutine _ _ hr
      · exact hstate _
    · next hr _ _ => exact hroutine _ _ hr
    · next hu => exact hurgent _ _ hu
    · exact hstate _
    · exact h

/-- The trunk transmitter idle after a pool buffer, its hold not yet given up (R136). -/
theorem trunkIdle (h : Held x r u) {n : Nat} {b : BufId} {rate : Rate} {began : Nat}
    (htx : u.trunk.tx = .sending (.pool b) rate began) : Held (b :: x) r (u.trunkIdleAt n) := by
  have hcount : ∀ a, (u.trunkIdleAt n).places.count a + (b :: x).count a = u.places.count a + x.count a := fun a => by
    have htrunk := u.places_withTrunk (u.trunkIdleAt n).trunk a
    have hsame : (u.trunkIdleAt n).trunk.rx = u.trunk.rx := rfl
    have hnone : (u.trunkIdleAt n).trunk.tx.pooled = none := rfl
    have hsome : u.trunk.tx.pooled = some b := by rw [htx]; rfl
    rw [hsame, hnone, hsome] at htrunk
    simp only [Option.toList_none, Option.toList_some, List.count_nil, List.count_singleton] at htrunk
    rw [List.count_cons]
    change ({ u with trunk := (u.trunkIdleAt n).trunk } : State).places.count a + _ = _
    omega
  exact h.moved rfl hcount (Nat.le_refl _) (h.receiver.congr (fun l => by cases l <;> rfl) fun _ _ _ => rfl)
    (h.request.congr (fun _ => rfl) (fun _ => rfl) (fun _ => rfl) fun _ _ _ => rfl)

/-! ### The replay slot -/

/-- The slot turned over: what it held is unplaced, what it holds now was so before. -/
theorem setSlot (h : Held x r u) {y : List BufId} {m : Management}
    (hm : ∀ a, m.slot.buffer.toList.count a + y.count a = u.mgmt.slot.buffer.toList.count a + x.count a) :
    Held y r { u with mgmt := m } := by
  refine h.moved rfl (fun a => ?_) (Nat.le_refl _) (h.receiver.congr (fun l => by cases l <;> rfl) fun _ _ _ => rfl)
    (h.request.congr (fun _ => rfl) (fun _ => rfl) (fun _ => rfl) fun _ _ _ => rfl)
  have := u.places_withMgmt m a
  have := hm a
  omega

/-- The buffer in the slot held once more, for a position in the urgent queue. -/
theorem holdSlot (h : Held x r u) {b : BufId} (hb : u.mgmt.slot.buffer = some b) :
    Held x r ((u.hold b).queueUp .urgent b) := by
  have htaken : Held (b :: x) r { u with mgmt := { u.mgmt with slot := .empty } } := h.setSlot fun a => by
    rw [hb]; simp only [ReplaySlot.buffer, Option.toList_none, Option.toList_some, List.count_nil, List.count_cons]
    omega
  have hqueued : Held (b :: x) r (((({ u with mgmt := { u.mgmt with slot := .empty } } : State).hold b).queueUp .urgent b)) :=
    (htaken.hold List.mem_cons_self).queueUp
  exact hqueued.setSlot (m := u.mgmt) fun a => by
    rw [hb]
    simp only [State.queueUp, State.hold, ReplaySlot.buffer, Option.toList_none, Option.toList_some, List.count_nil,
      List.count_cons]
    omega

theorem handResult (h : Held x r u) {q : Byte} {b : BufId} {c : ResultCode} {op : Byte} {data : List Byte}
    (hb : u.mgmt.slot.buffer = some b) : Held x r (u.handResult q b c op data) := h.write.holdSlot hb

theorem turnOver (h : Held (b :: x) r u) {q : Byte} : Held x r (u.turnOver q b) := by
  have hturned : Held (u.mgmt.slot.buffer.toList ++ x) r
      { u with mgmt := { u.mgmt with slot := .inFlight q b false } } := h.setSlot fun a => by
    simp only [ReplaySlot.buffer, Option.toList_some, List.count_append, List.count_cons, List.count_nil]
    omega
  unfold State.turnOver
  cases hs : u.mgmt.slot.buffer with
  | none => simpa [hs] using hturned
  | some old =>
    rw [hs] at hturned
    exact hturned.release

theorem duplicate (h : Held (b :: x) r u) : Held x r (u.duplicate b) := by
  unfold State.duplicate
  simp only
  split
  · next hs =>
    split
    · exact h.release
    · exact h.release.holdSlot (by rw [hs]; rfl)
  · exact h.release
  · exact h.release

end Sys2Proof.Machine.Held
end

section
/-! PROOFS. The work of a drop (R72, R74): how the ends of an exchange come about from one unlinking of its record and its
item, and what keeps WorkLaw. -/

namespace Sys2Proof.Machine

set_option Elab.async false

/-! ### An exchange unlinked -/

/-- A drop without the item that an open exchange has there: in its queue, or in service. -/
def Drop.without (t : Tag) (e : Exchange) (x : Drop) : Drop :=
  match e.state with
  | .queued => { x with queue := x.queue.filter (fun it => it.work ≠ .exchange t) }
  | .sending => { x with service := none, expiryHeld := false }
  | .awaiting => { x with service := none, expiryHeld := false }
  | .fetching => { x with service := none, expiryHeld := false }
  | .deferred => x
  | .fetchDue => x

/-- The hold that an open exchange has beside its request slot (R28). -/
def Exchange.lineHolds (e : Exchange) : List BufId :=
  match e.state with
  | .queued => [e.buffer]
  | .sending => [e.buffer]
  | .awaiting => [e.buffer]
  | .fetching => [e.buffer]
  | .deferred => []
  | .fetchDue => []

/-- An exchange's record freed and its item taken away, its holds left as they are. -/
def State.unlink (s : State) (t : Tag) (e : Exchange) : State := (s.mapDrop e.drop (Drop.without t e)).putExchange t none

/-- Holds given up one after another. -/
def State.releaseAll (s : State) (l : List BufId) : State := l.foldl State.release s

/-- An open exchange is queued, in service or off the line (R101). -/
theorem Exchange.phase_cases (e : Exchange) :
    e.state = .queued ∨ e.inService = true ∨ e.state = .deferred ∨ e.state = .fetchDue := by
  cases hs : e.state <;> simp [Exchange.inService, hs]

theorem Drop.without_queued {e : Exchange} (t : Tag) (h : e.state = .queued) :
    Drop.without t e = fun x => { x with queue := x.queue.filter (fun it => it.work ≠ .exchange t) } :=
  funext fun x => by simp only [Drop.without, h]

theorem Drop.without_inService {e : Exchange} (t : Tag) (h : e.inService = true) :
    Drop.without t e = fun x => { x with service := none, expiryHeld := false } := funext fun x => by
  unfold Exchange.inService at h
  unfold Drop.without
  cases hs : e.state <;> simp [hs] at h ⊢

theorem Drop.without_offLine {e : Exchange} (t : Tag) (h : e.state = .deferred ∨ e.state = .fetchDue) :
    Drop.without t e = fun x => x := funext fun x => by rcases h with h | h <;> simp only [Drop.without, h]

theorem Exchange.lineHolds_onLine {e : Exchange} (h : e.state = .queued ∨ e.inService = true) :
    e.lineHolds = [e.buffer] := by
  unfold Exchange.inService at h
  unfold Exchange.lineHolds
  cases hs : e.state <;> simp [hs] at h ⊢

theorem Exchange.lineHolds_offLine {e : Exchange} (h : e.state = .deferred ∨ e.state = .fetchDue) :
    e.lineHolds = [] := by rcases h with h | h <;> simp only [Exchange.lineHolds, h]

theorem Exchange.lineHolds_cases (e : Exchange) : e.lineHolds = [] ∨ e.lineHolds = [e.buffer] := by
  unfold Exchange.lineHolds; split <;> simp

/-- The hold on the line given up, from the item taken away. -/
theorem State.endDropHold_eq (s : State) (t : Tag) (e : Exchange) :
    s.endDropHold t e = (s.mapDrop e.drop (Drop.without t e)).releaseAll e.lineHolds := by
  rcases e.phase_cases with hq | hin | hoff
  · rw [Drop.without_queued t hq, Exchange.lineHolds_onLine (.inl hq)]
    simp only [State.endDropHold, hq]; rfl
  · rw [Drop.without_inService t hin, Exchange.lineHolds_onLine (.inr hin)]
    unfold Exchange.inService at hin
    cases hs : e.state <;> simp [hs] at hin <;> simp only [State.endDropHold, hs] <;> rfl
  · rw [Drop.without_offLine t hoff, Exchange.lineHolds_offLine hoff, State.mapDrop_id]
    rcases hoff with hs | hs <;> simp only [State.endDropHold, hs] <;> rfl

/-- Closure without answer, from the unlinking: one hold more for the CLOSURE's place, the others given up (R120). -/
theorem State.closeExchange_eq {s : State} {t : Tag} {e : Exchange} (he : s.exchange t = some e) (r : ClosureReason) :
    s.closeExchange t r =
      ((((((s.write e.buffer (closureFrame e.station e.seq r e.attemptsUsed e.fetches)).unlink t e).hold
        e.buffer).queueUp e.cls e.buffer).release e.buffer).releaseAll e.lineHolds).mapStation e.station
          (fun st => st.closed s.settings.downThreshold r) := by
  simp only [State.closeExchange, he, State.endDropHold_eq, State.unlink]
  rcases e.lineHolds_cases with hl | hl <;> rw [hl] <;> cases e.cls <;> rfl

/-- Closure by answer, from the unlinking (R121). -/
theorem State.closeByAnswer_eq {s : State} {t : Tag} {e : Exchange} (he : s.exchange t = some e) (b : BufId) :
    s.closeByAnswer t b =
      (((((s.write b (rewriteSrc (s.content b) e.station)).unlink t e).release e.buffer).releaseAll e.lineHolds).queueUp
        e.cls b).mapStation e.station (fun st => { st with done := bump st.done }) := by
  simp only [State.closeByAnswer, he, State.endDropHold_eq, State.unlink]
  rcases e.lineHolds_cases with hl | hl <;> rw [hl] <;> cases e.cls <;> rfl

/-- What a drop keeps without an exchange's item. -/
@[simp] theorem Drop.without_keeps (t : Tag) (e : Exchange) (x : Drop) :
    (x.without t e).mode = x.mode ∧ (x.without t e).line = x.line ∧ (x.without t e).rate = x.rate
      ∧ (x.without t e).pendingRate = x.pendingRate ∧ (x.without t e).alternation = x.alternation
      ∧ (x.without t e).rx = x.rx ∧ (x.without t e).tx = x.tx ∧ (x.without t e).lastChar = x.lastChar
      ∧ (x.without t e).rxSpace = x.rxSpace ∧ (x.without t e).breakSince = x.breakSince
      ∧ (x.without t e).marking = x.marking ∧ (x.without t e).counters = x.counters := by
  unfold Drop.without; split <;> simp

/-- The items left are among those before. -/
theorem Drop.without_sublist (t : Tag) (e : Exchange) (x : Drop) : (x.without t e).queue.Sublist x.queue := by
  unfold Drop.without; split <;> simp

/-- What is in service is left there, or nothing is. -/
theorem Drop.without_service (t : Tag) (e : Exchange) (x : Drop) :
    (x.without t e).service = x.service ∧ e.inService = false
      ∨ (x.without t e).service = none ∧ e.inService = true := by
  unfold Drop.without Exchange.inService
  split <;> simp_all

/-! ### What WorkLaw says, in use -/

theorem Drop.serving_some {x : Drop} {t : Tag} : x.serving = some t ↔ ∃ it, x.service = some it ∧ it.work = .exchange t := by
  unfold Drop.serving
  split
  · next v c b hs => simp [hs]
  · next a c b hs => simp [hs]
  · next hs => simp [hs]

theorem WorkLaw.queued {s : State} (h : WorkLaw s) {d : DropId} {it : Item} (hit : it ∈ (s.dropUnit d).queue) {t : Tag}
    (ht : it.work = .exchange t) : ∃ e, s.exchange t = some e ∧ e.state = .queued ∧ e.drop = d :=
  (h d).1 it hit t ht

theorem WorkLaw.serving {s : State} (h : WorkLaw s) {d : DropId} {t : Tag} (ht : (s.dropUnit d).serving = some t) :
    ∃ e, s.exchange t = some e ∧ e.inService = true ∧ e.drop = d := (h d).2.2 t ht

/-- The items of a queue name different exchanges (R74). -/
def DistinctItems (q : List Item) : Prop := q.Pairwise (fun x y => ∀ t, x.work = .exchange t → y.work ≠ .exchange t)

theorem WorkLaw.distinct {s : State} (h : WorkLaw s) (d : DropId) : DistinctItems (s.dropUnit d).queue := (h d).2.1

theorem DistinctItems.unique {q : List Item} (h : DistinctItems q) {it jt : Item} {t : Tag} (hi : it ∈ q) (hj : jt ∈ q)
    (hti : it.work = .exchange t) (htj : jt.work = .exchange t) : it = jt := by
  induction q with
  | nil => cases hi
  | cons y q ih =>
    obtain ⟨hy, hq⟩ := List.pairwise_cons.1 h
    rcases List.mem_cons.1 hi with rfl | hi <;> rcases List.mem_cons.1 hj with rfl | hj
    · rfl
    · exact absurd htj (hy jt ‹_› t hti)
    · exact absurd hti (hy it ‹_› t htj)
    · exact ih hq ‹_› ‹_›

/-- Taking out the item of an exchange takes out one item. -/
theorem DistinctItems.count_filter {q : List Item} (h : DistinctItems q) {it : Item} {t : Tag} (hi : it ∈ q)
    (ht : it.work = .exchange t) (b : BufId) :
    ((q.filter (fun y => y.work ≠ .exchange t)).map Item.buffer).count b + [it.buffer].count b
      = (q.map Item.buffer).count b := by
  induction q with
  | nil => cases hi
  | cons y q ih =>
    obtain ⟨hy, hq⟩ := List.pairwise_cons.1 h
    by_cases hyt : y.work = .exchange t
    · obtain rfl : y = it := h.unique List.mem_cons_self hi hyt ht
      have hrest : q.filter (fun z => decide (z.work ≠ .exchange t)) = q :=
        List.filter_eq_self.2 fun z hz => by simpa using hy z hz t hyt
      rw [List.filter_cons_of_neg (by simp [ht]), hrest, List.map_cons, List.count_cons, List.count_cons, List.count_nil]
      omega
    · have hmem : it ∈ q := (List.mem_cons.1 hi).resolve_left fun heq => hyt (heq ▸ ht)
      have hrest := ih hq hmem
      rw [List.filter_cons_of_pos (by simpa using hyt), List.map_cons, List.map_cons,
        List.count_cons (l := List.map Item.buffer q), List.count_cons (a := b) (b := y.buffer)]
      omega

/-! ### What keeps WorkLaw -/

namespace WorkLaw

variable {s u : State}

theorem congr (h : WorkLaw s) {t : State} (hexch : ∀ v, t.exchange v = s.exchange v)
    (hqueue : ∀ d, (t.dropUnit d).queue = (s.dropUnit d).queue)
    (hservice : ∀ d, (t.dropUnit d).service = (s.dropUnit d).service) : WorkLaw t := by
  intro d
  have hserving : (t.dropUnit d).serving = (s.dropUnit d).serving := by simp only [Drop.serving, hservice]
  rw [hqueue, hserving]
  simpa only [hexch] using h d

/-- The work of one drop changed, the records kept. -/
theorem mapDrop (h : WorkLaw u) {d : DropId} {f : Drop → Drop}
    (hqueue : (f (u.dropUnit d)).queue.Sublist (u.dropUnit d).queue := by exact List.Sublist.refl _)
    (hserving : ∀ t, (f (u.dropUnit d)).serving = some t → (u.dropUnit d).serving = some t := by exact fun _ => id) :
    WorkLaw (u.mapDrop d f) := by
  intro e
  by_cases he : e = d
  · subst he
    rw [State.dropUnit_mapDrop_self]
    exact ⟨fun it hit => (h e).1 it (hqueue.subset hit), (h e).2.1.sublist hqueue, fun t ht => (h e).2.2 t (hserving t ht)⟩
  · rw [State.dropUnit_mapDrop_ne u f he]
    exact h e

/-- An open record changed within its phase, on its drop. -/
theorem changeExchange (h : WorkLaw u) {t : Tag} {e x : Exchange} (he : u.exchange t = some e)
    (hdrop : x.drop = e.drop := by rfl) (hqueued : e.state = .queued → x.state = .queued)
    (hserved : e.inService = true → x.inService = true) : WorkLaw (u.putExchange t (some x)) := by
  intro d
  obtain ⟨hitems, hdistinct, hserving⟩ := h d
  refine ⟨fun it hit v hv => ?_, hdistinct, fun v hv => ?_⟩
  · obtain ⟨y, hy, hst, hd⟩ := hitems it hit v hv
    by_cases hvt : v = t
    · subst hvt
      obtain rfl := Option.some.inj (he.symm.trans hy)
      exact ⟨x, by simp, hqueued hst, hdrop.trans hd⟩
    · exact ⟨y, by rw [State.exchange_putExchange_ne u _ hvt]; exact hy, hst, hd⟩
  · obtain ⟨y, hy, hst, hd⟩ := hserving v hv
    by_cases hvt : v = t
    · subst hvt
      obtain rfl := Option.some.inj (he.symm.trans hy)
      exact ⟨x, by simp, hserved hst, hdrop.trans hd⟩
    · exact ⟨y, by rw [State.exchange_putExchange_ne u _ hvt]; exact hy, hst, hd⟩

/-- A record that no item names changed in any way. -/
theorem putExchange (h : WorkLaw u) {t : Tag} {x : Option Exchange}
    (hqueue : ∀ d, ∀ it ∈ (u.dropUnit d).queue, it.work ≠ .exchange t)
    (hserving : ∀ d, (u.dropUnit d).serving ≠ some t) : WorkLaw (u.putExchange t x) := by
  intro d
  obtain ⟨hitems, hdistinct, hserved⟩ := h d
  refine ⟨fun it hit v hv => ?_, hdistinct, fun v hv => ?_⟩
  · have hvt : v ≠ t := fun heq => hqueue d it hit (heq ▸ hv)
    rw [State.exchange_putExchange_ne u _ hvt]
    exact hitems it hit v hv
  · have hvt : v ≠ t := fun heq => hserving d (heq ▸ hv)
    rw [State.exchange_putExchange_ne u _ hvt]
    exact hserved v hv

/-- After its item is taken away, nothing names an exchange. -/
theorem without_unnamed (h : WorkLaw u) {t : Tag} {e : Exchange} (he : u.exchange t = some e) :
    (∀ d, ∀ it ∈ ((u.mapDrop e.drop (Drop.without t e)).dropUnit d).queue, it.work ≠ .exchange t)
      ∧ ∀ d, ((u.mapDrop e.drop (Drop.without t e)).dropUnit d).serving ≠ some t := by
  refine ⟨fun d it hit hw => ?_, fun d hs => ?_⟩
  · by_cases hd : d = e.drop
    · subst hd
      rw [State.dropUnit_mapDrop_self] at hit
      obtain ⟨y, hy, hst, -⟩ := h.queued ((Drop.without_sublist t e _).subset hit) hw
      obtain rfl := Option.some.inj (he.symm.trans hy)
      simp [Drop.without, hst, hw] at hit
    · rw [State.dropUnit_mapDrop_ne u _ hd] at hit
      obtain ⟨y, hy, -, hyd⟩ := h.queued hit hw
      obtain rfl := Option.some.inj (he.symm.trans hy)
      exact hd hyd.symm
  · by_cases hd : d = e.drop
    · subst hd
      rw [State.dropUnit_mapDrop_self] at hs
      obtain ⟨it, hit, hw⟩ := Drop.serving_some.1 hs
      obtain ⟨hsame, hout⟩ | ⟨hnone, -⟩ := Drop.without_service t e (u.dropUnit e.drop)
      · obtain ⟨y, hy, hin, -⟩ := h.serving (Drop.serving_some.2 ⟨it, hsame ▸ hit, hw⟩)
        obtain rfl := Option.some.inj (he.symm.trans hy)
        simp [hout] at hin
      · simp [hnone] at hit
    · rw [State.dropUnit_mapDrop_ne u _ hd] at hs
      obtain ⟨y, hy, -, hyd⟩ := h.serving hs
      obtain rfl := Option.some.inj (he.symm.trans hy)
      exact hd hyd.symm

theorem without (h : WorkLaw u) {t : Tag} {e : Exchange} : WorkLaw (u.mapDrop e.drop (Drop.without t e)) :=
  h.mapDrop (Drop.without_sublist t e _) fun v hv => by
    obtain ⟨it, hit, hw⟩ := Drop.serving_some.1 hv
    obtain ⟨hsame, -⟩ | ⟨hnone, -⟩ := Drop.without_service t e (u.dropUnit e.drop)
    · exact Drop.serving_some.2 ⟨it, hsame ▸ hit, hw⟩
    · simp [hnone] at hit

theorem unlink (h : WorkLaw u) {t : Tag} {e : Exchange} (he : u.exchange t = some e) : WorkLaw (u.unlink t e) := by
  obtain ⟨hqueue, hserving⟩ := h.without_unnamed he
  exact h.without.putExchange hqueue hserving

/-- An exchange in service put off, its in-service slot empty (R110). -/
theorem putOff (h : WorkLaw u) {t : Tag} {e x : Exchange} (he : u.exchange t = some e) (hin : e.inService = true) :
    WorkLaw ((u.putExchange t (some x)).mapDrop e.drop (fun y => { y with service := none, expiryHeld := false })) := by
  obtain ⟨hqueue, hserving⟩ := h.without_unnamed he
  have hput : WorkLaw ((u.mapDrop e.drop (Drop.without t e)).putExchange t (some x)) :=
    h.without.putExchange hqueue hserving
  rw [Drop.without_inService t hin] at hput
  exact hput

end WorkLaw
end Sys2Proof.Machine
end

section
/-! PROOFS. The holds through the work of the drops: an exchange opened, taken into service, put off, ended; a notice queued,
sent, discarded (R22, R28). -/

namespace Sys2Proof.Machine

set_option Elab.async false

/-- An exchange is off the line in exactly the states that are not on it. -/
theorem Exchange.offLine_iff (e : Exchange) :
    e.state = .deferred ∨ e.state = .fetchDue ↔ e.state ≠ .queued ∧ e.inService = false := by
  cases hs : e.state <;> simp [Exchange.inService, hs]

/-- A drop's places in its queue and its in-service slot. -/
def Drop.workPlaces (x : Drop) : List BufId := x.queue.map Item.buffer ++ (x.service.map Item.buffer).toList

theorem Drop.places_count_work (x : Drop) (b : BufId) :
    x.places.count b = x.rx.slot.toList.count b + x.workPlaces.count b := by
  rw [Drop.places_count, Drop.workPlaces, List.count_append]; omega

theorem mem_enqueue_iff {it jt : Item} {q : List Item} : jt ∈ enqueue it q ↔ jt = it ∨ jt ∈ q := by
  unfold enqueue
  split
  · simp [or_comm]
  · conv_rhs => rw [← List.takeWhile_append_dropWhile (p := fun x : Item => decide (x.cls = .urgent)) (l := q)]
    simp only [List.mem_append, List.mem_cons]
    tauto

theorem count_enqueue (it : Item) (q : List Item) (b : BufId) :
    ((enqueue it q).map Item.buffer).count b = (q.map Item.buffer).count b + [it.buffer].count b := by
  unfold enqueue
  split
  · simp
  · conv_rhs => rw [← List.takeWhile_append_dropWhile (p := fun x : Item => decide (x.cls = .urgent)) (l := q)]
    simp only [List.map_append, List.map_cons, List.count_append, List.count_cons, List.count_nil]
    omega

namespace Held

variable {x : List BufId} {r : Nat} {s u : State}

theorem releaseAll (h : Held (l ++ x) r u) : Held x r (u.releaseAll l) := by
  induction l generalizing u with
  | nil => exact h
  | cons b l ih => exact ih h.release

/-- The work of one drop changed, with its buffers accounted for. -/
theorem mapWork (h : Held x r u) {y : List BufId} {d : DropId} {f : Drop → Drop}
    (hrx : (f (u.dropUnit d)).rx = (u.dropUnit d).rx)
    (hcount : ∀ b, (f (u.dropUnit d)).workPlaces.count b + y.count b = (u.dropUnit d).workPlaces.count b + x.count b)
    (hrequest : RequestLaw (u.mapDrop d f)) : Held y r (u.mapDrop d f) := by
  refine h.moved rfl (fun b => ?_) (Nat.le_of_eq ?_) (h.receiver.congr (State.rx_mapDrop hrx) fun _ _ _ => rfl) hrequest
  · have hplaces := u.places_mapDrop d f b
    have hb := hcount b
    simp only [Drop.places_count_work, hrx] at hplaces
    omega
  · rw [State.slotsHeld_congr (State.mapDrop_at (fun y => y.rx.slot) (congrArg Receiver.slot hrx))]

/-! ### The end of an exchange -/

/-- Without the item of an exchange, its line hold is unplaced. -/
theorem count_without (h : Held x r u) (hw : WorkLaw u) {t : Tag} {e : Exchange} (he : u.exchange t = some e) (b : BufId) :
    ((u.dropUnit e.drop).without t e).workPlaces.count b + e.lineHolds.count b
      = (u.dropUnit e.drop).workPlaces.count b := by
  obtain ⟨hqueued, hserved, -⟩ := h.request t e he
  simp only [Drop.workPlaces, List.count_append]
  rcases e.phase_cases with hq | hin | hoff
  · obtain ⟨it, hit, hit', hbuf⟩ := hqueued hq
    have hfilter := (hw.distinct e.drop).count_filter hit hit' b
    rw [Drop.without_queued t hq, Exchange.lineHolds_onLine (.inl hq)]
    rw [hbuf] at hfilter
    simp only
    omega
  · obtain ⟨it, hit, -, hbuf⟩ := hserved hin
    rw [Drop.without_inService t hin, Exchange.lineHolds_onLine (.inr hin), hit]
    simp only [Option.map_none, Option.map_some, Option.toList_none, Option.toList_some, List.count_nil, hbuf]
    omega
  · rw [Drop.without_offLine t hoff, Exchange.lineHolds_offLine hoff]
    simp

/-- The other exchanges' items are untouched. -/
theorem request_without (h : RequestLaw u) {t v : Tag} {e f : Exchange} (he : u.exchange t = some e)
    (hf : u.exchange v = some f) (hv : v ≠ t) :
    (f.state = .queued → ∃ it ∈ ((u.mapDrop e.drop (Drop.without t e)).dropUnit f.drop).queue,
        it.work = .exchange v ∧ it.buffer = f.buffer)
      ∧ (f.inService = true → ∃ it, ((u.mapDrop e.drop (Drop.without t e)).dropUnit f.drop).service = some it
        ∧ it.work = .exchange v ∧ it.buffer = f.buffer) := by
  obtain ⟨hqueued, hserved, -⟩ := h v f hf
  obtain ⟨-, hserved', -⟩ := h t e he
  by_cases hd : f.drop = e.drop
  · rw [hd, State.dropUnit_mapDrop_self]
    rw [hd] at hqueued hserved
    refine ⟨fun hq => ?_, fun hin => ?_⟩
    · obtain ⟨it, hit, hw, hb⟩ := hqueued hq
      refine ⟨it, ?_, hw, hb⟩
      unfold Drop.without
      split
      · exact List.mem_filter.2 ⟨hit, by simp [hw, hv]⟩
      all_goals exact hit
    · obtain ⟨it, hit, hw, hb⟩ := hserved hin
      obtain ⟨hsame, -⟩ | ⟨-, hin'⟩ := Drop.without_service t e (u.dropUnit e.drop)
      · exact ⟨it, hsame ▸ hit, hw, hb⟩
      · obtain ⟨jt, hjt, hjw, -⟩ := hserved' hin'
        obtain rfl := Option.some.inj (hit.symm.trans hjt)
        exact absurd (Work.exchange.inj (hw.symm.trans hjw)) hv
  · rw [State.dropUnit_mapDrop_ne u _ hd]
    exact ⟨hqueued, hserved⟩

/-- An exchange unlinked: the holds of its request slot and of its item are unplaced. -/
theorem unlink (h : Held x r u) (hw : WorkLaw u) {t : Tag} {e : Exchange} (he : u.exchange t = some e) :
    Held (e.buffer :: (e.lineHolds ++ x)) r (u.unlink t e) := by
  have hkept : ((u.dropUnit e.drop).without t e).rx = (u.dropUnit e.drop).rx := by simp
  have hrx : ∀ l, (u.unlink t e).rx l = u.rx l := fun l => by
    rw [← State.rx_mapDrop hkept l]; cases l <;> rfl
  have hslots : (u.unlink t e).slotsHeld = u.slotsHeld :=
    State.slotsHeld_congr (State.mapDrop_at (fun y => y.rx.slot) (congrArg Receiver.slot hkept))
  refine h.moved rfl (fun b => ?_) (by rw [hslots]) (h.receiver.congr hrx fun _ _ _ => rfl) fun v f hf => ?_
  · have hput := (u.mapDrop e.drop (Drop.without t e)).places_putExchange t none b
    have hmap := u.places_mapDrop e.drop (Drop.without t e) b
    have hwithout := h.count_without hw he b
    have hexch : (u.mapDrop e.drop (Drop.without t e)).exchange t = some e := he
    simp only [hexch, Option.map_some, Option.map_none, Option.toList_some, Option.toList_none, List.count_nil,
      List.count_singleton] at hput
    simp only [Drop.places_count_work, Drop.without_keeps] at hmap
    rw [List.count_cons, List.count_append]
    unfold State.unlink
    omega
  · have hv : v ≠ t := fun heq => by
      subst heq; simp [State.unlink] at hf
    have hf' : u.exchange v = some f := by
      unfold State.unlink at hf
      rw [State.exchange_putExchange_ne _ _ hv] at hf
      exact hf
    obtain ⟨hq, hin⟩ := request_without h.request he hf' hv
    exact ⟨hq, hin, (h.request v f hf').2.2⟩

/-- A request buffer's holds, when it stands on the line: two (R28). -/
theorem count_onLine (h : Held x r u) {t : Tag} {e : Exchange} (he : u.exchange t = some e)
    (hon : e.state = .queued ∨ e.inService = true) : u.pool.count e.buffer = 2 := by
  obtain ⟨-, -, hcount⟩ := h.request t e he
  rw [hcount, if_neg]
  rw [Exchange.offLine_iff]
  rintro ⟨hq, hin⟩
  rcases hon with hon | hon
  · exact hq hon
  · simp [hin] at hon

theorem count_offLine (h : Held x r u) {t : Tag} {e : Exchange} (he : u.exchange t = some e)
    (hoff : e.state = .deferred ∨ e.state = .fetchDue) : u.pool.count e.buffer = 1 := by
  obtain ⟨-, -, hcount⟩ := h.request t e he
  rw [hcount, if_pos hoff]

/-- A request buffer stands in no receiver's slot. -/
theorem slot_ne_request (h : Held x r u) {t : Tag} {e : Exchange} (he : u.exchange t = some e) {l : Line} {b : BufId}
    (hb : (u.rx l).slot = some b) : b ≠ e.buffer := by
  rintro rfl
  have hone := (h.receiver l).2 _ hb
  have hall := h.request_holds he
  have hplaces := u.requests_le_places l e.drop e.buffer
  have ht := le_sum (fun v : Fin 16 => ((u.exchange v).map Exchange.buffer).toList.count e.buffer) t
  simp only [he, hb, Option.map_some, Option.toList_some, List.count_singleton_self] at ht hplaces
  have := h.count e.buffer
  omega

/-- Closure without answer: the request buffer ends with its CLOSURE's place alone (R120, R122). -/
theorem closeExchange (h : Held x r u) (hw : WorkLaw u) {t : Tag} {c : ClosureReason} : Held x r (u.closeExchange t c) := by
  cases he : u.exchange t with
  | none => simpa [State.closeExchange, he] using h
  | some e =>
    rw [State.closeExchange_eq he]
    have hwork : WorkLaw (u.write e.buffer (closureFrame e.station e.seq c e.attemptsUsed e.fetches)) :=
      hw.congr (fun _ => rfl) (fun _ => rfl) fun _ => rfl
    exact ((((h.write.unlink hwork he).hold List.mem_cons_self).queueUp.release).releaseAll).same

/-- Both holds of a request buffer given up: the buffer is free again. -/
theorem releaseTwice (h : Held (b :: b :: x) (r + 1) u) (htwo : u.pool.count b = 2) :
    Held x r ((u.release b).release b) := by
  have hcount := h.count b
  simp only [List.count_cons_self, htwo] at hcount
  refine h.release.releaseLast ?_ (by omega)
  change u.places.count b = 0
  omega

/-- Closure by answer: the ANSWER's hold becomes its upstream place's, and the request buffer comes back to the reserve
(R121). -/
theorem closeByAnswer (h : Held (a :: x) (r + 1) u) (hw : WorkLaw u) {t : Tag} {e : Exchange} (he : u.exchange t = some e)
    (hin : e.inService = true) : Held x r (u.closeByAnswer t a) := by
  rw [State.closeByAnswer_eq he, Exchange.lineHolds_onLine (.inr hin)]
  have hwork : WorkLaw (u.write a (rewriteSrc (u.content a) e.station)) :=
    hw.congr (fun _ => rfl) (fun _ => rfl) fun _ => rfl
  have hunlinked := h.write.unlink hwork he
  rw [Exchange.lineHolds_onLine (.inr hin)] at hunlinked
  have htwo : ((u.write a (rewriteSrc (u.content a) e.station)).unlink t e).pool.count e.buffer = 2 :=
    h.write.count_onLine he (.inr hin)
  exact (hunlinked.releaseTwice htwo).queueUp.same

/-! ### An exchange put off, taken again, changed within its phase -/

/-- An exchange put off gives up its line hold (R110). -/
theorem deferExchange (h : Held x r u) {t : Tag} {e : Exchange} (he : u.exchange t = some e) (hin : e.inService = true) :
    Held x r (u.deferExchange t) := by
  have htwo := h.count_onLine he (.inr hin)
  have hone : 1 ≤ u.pool.count e.buffer := by omega
  have hcount := Pool.count_release h.pool hone
  have hother : ∀ b, b ≠ e.buffer → (u.pool.release e.buffer).count b = u.pool.count b := fun b hb => by
    have := hcount b
    simpa [Ne.symm hb] using this
  have hwithout := Drop.without_inService t hin
  generalize hx : ({ e with state := .deferred, deadline := some (u.now + fetchTime
    (((u.station e.station).map Station.fetchInterval).getD 0)), limit := none } : Exchange) = x'
  have hbuf : x'.buffer = e.buffer := by rw [← hx]
  have hdrop : x'.drop = e.drop := by rw [← hx]
  have hstate : x'.state = .deferred := by rw [← hx]
  have heq : u.deferExchange t
      = ((u.mapDrop e.drop (Drop.without t e)).putExchange t (some x')).release e.buffer := by
    simp only [State.deferExchange, he, hx, hwithout]
    rfl
  have hrx : ∀ l, (u.mapDrop e.drop (Drop.without t e)).rx l = u.rx l := State.rx_mapDrop (by simp)
  rw [heq]
  refine ⟨h.pool.release _, fun b => ?_, ?_, fun l => ?_, fun v f hf => ?_⟩
  · have hput := (u.mapDrop e.drop (Drop.without t e)).places_putExchange t (some x') b
    have hmap := u.places_mapDrop e.drop (Drop.without t e) b
    have hw : ((u.dropUnit e.drop).without t e).workPlaces.count b + [e.buffer].count b
        = (u.dropUnit e.drop).workPlaces.count b := by
      obtain ⟨it, hit, -, hitbuf⟩ := (h.request t e he).2.1 hin
      rw [hwithout]
      simp [Drop.workPlaces, hit, hitbuf, List.count_cons]
    have hexch : (u.mapDrop e.drop (Drop.without t e)).exchange t = some e := he
    simp only [hexch, Option.map_some, Option.toList_some, hbuf] at hput
    simp only [Drop.places_count_work, Drop.without_keeps] at hmap
    have := hcount b
    have := h.count b
    change (u.pool.release e.buffer).count b
      = ((u.mapDrop e.drop (Drop.without t e)).putExchange t (some x')).places.count b + x.count b
    omega
  · have hfree := Pool.length_free_release hone
    have hslots : (u.mapDrop e.drop (Drop.without t e)).slotsHeld = u.slotsHeld :=
      State.slotsHeld_congr (State.mapDrop_at (fun y => y.rx.slot) (by simp))
    have hreserve := h.reserve
    change 4 ≤ (u.pool.release e.buffer).free.length + (u.mapDrop e.drop (Drop.without t e)).slotsHeld + r
    omega
  · have hline : (((u.mapDrop e.drop (Drop.without t e)).putExchange t (some x')).release e.buffer).rx l = u.rx l := by
      rw [← hrx l]; cases l <;> rfl
    rw [hline]
    refine ⟨(h.receiver l).1, fun b hb => ?_⟩
    exact (hother b (h.slot_ne_request he hb)).trans ((h.receiver l).2 b hb)
  · by_cases hv : v = t
    · subst hv
      have hf' : some x' = some f := by
        have : ((u.mapDrop e.drop (Drop.without v e)).putExchange v (some x')).exchange v = some f := hf
        simpa using this
      obtain rfl := Option.some.inj hf'
      refine ⟨fun hq => by simp [hstate] at hq, fun hin' => by simp [Exchange.inService, hstate] at hin', ?_⟩
      rw [hbuf, if_pos (.inl hstate)]
      have := hcount e.buffer
      simp only [List.count_singleton_self, htwo] at this
      change (u.pool.release e.buffer).count e.buffer = 1
      omega
    · have hf' : u.exchange v = some f := by
        have : ((u.mapDrop e.drop (Drop.without t e)).putExchange t (some x')).exchange v = some f := hf
        rw [State.exchange_putExchange_ne _ _ hv] at this
        exact this
      obtain ⟨hq, hin'⟩ := request_without h.request he hf' hv
      refine ⟨hq, hin', ?_⟩
      exact (hother f.buffer (h.request_unique he hf' (Ne.symm hv))).trans (h.request v f hf').2.2

/-- A record changed within its phase. -/
theorem changeExchange (h : Held x r u) {t : Tag} {e e' : Exchange} (he : u.exchange t = some e)
    (hbuf : e'.buffer = e.buffer := by rfl) (hdrop : e'.drop = e.drop := by rfl)
    (hqueued : e'.state = .queued ↔ e.state = .queued) (hserved : e'.inService = e.inService) :
    Held x r (u.putExchange t (some e')) := by
  refine h.moved rfl (fun b => ?_) (Nat.le_refl _) (h.receiver.congr (fun l => by cases l <;> rfl) fun _ _ _ => rfl)
    fun v f hf => ?_
  · have hput := u.places_putExchange t (some e') b
    simp only [he, Option.map_some, hbuf] at hput
    omega
  · by_cases hv : v = t
    · subst hv
      rw [State.exchange_putExchange_self] at hf
      obtain rfl := Option.some.inj hf
      obtain ⟨hq, hin, hcount⟩ := h.request v e he
      have hoff : (e.state = .deferred ∨ e.state = .fetchDue) ↔ (e'.state = .deferred ∨ e'.state = .fetchDue) := by
        rw [Exchange.offLine_iff, Exchange.offLine_iff, hserved, ne_eq, ne_eq, hqueued]
      rw [hbuf, hdrop, hserved, hqueued]
      exact ⟨hq, hin, hcount.trans (if_congr hoff rfl rfl)⟩
    · rw [State.exchange_putExchange_ne u _ hv] at hf
      exact h.request v f hf

end Held

/-- A fetch candidate in service, its FETCH not yet begun (R77, R80). -/
def State.fetchTaken (s : State) (d : DropId) (t : Tag) (e : Exchange) : State :=
  ((s.putExchange t (some { e with state := .fetching, deadline := none, dueSince := none })).hold e.buffer).mapDrop d
    (fun x => { x with service := some { work := .exchange t, cls := e.cls, buffer := e.buffer }, alternation := .fetch })

theorem State.startFetch_eq {s : State} {d : DropId} {t : Tag} {e : Exchange} (he : s.exchange t = some e) :
    s.startFetch d t = (s.fetchTaken d t e).startSending d (.fetch (fetchFrame (s.lineAddressOf e.station) e.seq)) := by
  unfold State.startFetch
  rw [he]
  rfl

/-- A drop with its queue head in service (R77). -/
def Drop.serve (it : Item) (rest : List Item) (x : Drop) : Drop :=
  { x with queue := rest, service := some it, alternation := .queue }

/-- The queue head in service, its frame addressed but not yet begun (R77, R79, R81). -/
def State.itemTaken (s : State) (d : DropId) (it : Item) (rest : List Item) : State :=
  let s := s.mapDrop d (Drop.serve it rest)
  match it.work with
  | .exchange t =>
    match s.exchange t with
    | none => s
    | some e => (s.putExchange t (some { e with state := .sending })).readdress it.buffer e.station
  | .notice dest => if dest = addrBroadcast then s else s.readdress it.buffer dest

theorem State.startItem_eq (s : State) (d : DropId) (it : Item) (rest : List Item) :
    s.startItem d it rest = (s.itemTaken d it rest).startSending d (.pool it.buffer) := rfl

/-- An exchange's item stays where it was as long as the exchange items of its drop do. -/
theorem RequestLaw.mapWork {u : State} (h : RequestLaw u) {d : DropId} {f : Drop → Drop}
    (hqueue : ∀ it ∈ (u.dropUnit d).queue, ∀ v, it.work = .exchange v → it ∈ (f (u.dropUnit d)).queue)
    (hservice : ∀ it v, (u.dropUnit d).service = some it → it.work = .exchange v → (f (u.dropUnit d)).service = some it) :
    RequestLaw (u.mapDrop d f) := by
  intro t e he
  obtain ⟨hq, hin, hcount⟩ := h t e he
  by_cases hd : e.drop = d
  · subst hd
    rw [State.dropUnit_mapDrop_self]
    refine ⟨fun hs => ?_, fun hs => ?_, hcount⟩
    · obtain ⟨it, hit, hw, hb⟩ := hq hs
      exact ⟨it, hqueue it hit t hw, hw, hb⟩
    · obtain ⟨it, hit, hw, hb⟩ := hin hs
      exact ⟨it, hservice it t hit hw, hw, hb⟩
  · rw [State.dropUnit_mapDrop_ne u f hd]
    exact ⟨hq, hin, hcount⟩

namespace Held

variable {x : List BufId} {r : Nat} {s u : State}

/-! ### Work taken into service -/

/-- A fetch candidate taken into service holds its buffer once more (R28). -/
theorem fetchTaken (h : Held x r u) {d : DropId} {t : Tag} {e : Exchange} (he : u.exchange t = some e) (hd : e.drop = d)
    (hoff : e.state = .deferred ∨ e.state = .fetchDue) (hnone : (u.dropUnit d).service = none) :
    Held x r (u.fetchTaken d t e) := by
  subst hd
  have hone := h.count_offLine he hoff
  have hcount := Pool.count_hold (p := u.pool) (b := e.buffer) (by omega)
  have hother : ∀ b, b ≠ e.buffer → (u.pool.hold e.buffer).count b = u.pool.count b := fun b hb => by
    rw [hcount]; simp [Ne.symm hb]
  have hrx : ∀ l, (u.fetchTaken e.drop t e).rx l = u.rx l := fun l => State.rx_mapDrop (s := State.hold _ _) rfl l
  refine ⟨h.pool.hold _, fun b => ?_, ?_, fun l => ?_, fun v f hf => ?_⟩
  · have hput := u.places_putExchange t (some { e with state := .fetching, deadline := none, dueSince := none }) b
    have hmap := State.places_mapDrop
      ((u.putExchange t (some { e with state := .fetching, deadline := none, dueSince := none })).hold e.buffer) e.drop
      (fun x => { x with
        service := some { work := .exchange t, cls := e.cls, buffer := e.buffer }, alternation := .fetch }) b
    have hunit : ((u.putExchange t (some { e with state := .fetching, deadline := none, dueSince := none })).hold
      e.buffer).dropUnit e.drop = u.dropUnit e.drop := rfl
    simp only [he, Option.map_some, Option.toList_some] at hput
    simp only [hunit, Drop.places_count, hnone, Option.map_none, Option.map_some, Option.toList_none,
      Option.toList_some, List.count_nil] at hmap
    have := hcount b
    have := h.count b
    change (u.pool.hold e.buffer).count b = (u.fetchTaken e.drop t e).places.count b + x.count b
    have hsame : ((u.putExchange t (some { e with state := .fetching, deadline := none, dueSince := none })).hold
      e.buffer).places.count b
        = (u.putExchange t (some { e with state := .fetching, deadline := none, dueSince := none })).places.count b := rfl
    unfold State.fetchTaken
    omega
  · have hslots : (u.fetchTaken e.drop t e).slotsHeld = u.slotsHeld :=
      State.slotsHeld_congr fun d => congrArg Receiver.slot (hrx (.drop d))
    have hreserve := h.reserve
    change 4 ≤ (u.pool.hold e.buffer).free.length + (u.fetchTaken e.drop t e).slotsHeld + r
    rw [Pool.hold_free, hslots]
    exact hreserve
  · rw [hrx]
    exact ⟨(h.receiver l).1, fun b hb => (hother b (h.slot_ne_request he hb)).trans ((h.receiver l).2 b hb)⟩
  · by_cases hv : v = t
    · subst hv
      have hf' : ((u.putExchange v (some { e with state := .fetching, deadline := none, dueSince := none })).exchange v)
          = some f := hf
      rw [State.exchange_putExchange_self] at hf'
      obtain rfl := Option.some.inj hf'
      refine ⟨nofun, fun _ => ⟨_, by rw [State.fetchTaken, State.dropUnit_mapDrop_self], rfl, rfl⟩, ?_⟩
      have := hcount e.buffer
      simp only [List.count_singleton_self, hone] at this
      exact this
    · have hf' : u.exchange v = some f := by
        have : (u.putExchange t (some { e with state := .fetching, deadline := none, dueSince := none })).exchange v
          = some f := hf
        rwa [State.exchange_putExchange_ne _ _ hv] at this
      obtain ⟨hq, hin, hcountf⟩ := h.request v f hf'
      refine ⟨fun hs => ?_, fun hs => ?_, ?_⟩
      · rw [State.fetchTaken, State.mapDrop_at Drop.queue rfl]; exact hq hs
      · obtain ⟨it, hit, hw, hb⟩ := hin hs
        by_cases hd : f.drop = e.drop
        · rw [hd] at hit; rw [hnone] at hit; cases hit
        · rw [State.fetchTaken, State.dropUnit_mapDrop_ne _ _ hd]; exact ⟨it, hit, hw, hb⟩
      · exact (hother f.buffer (h.request_unique he hf' (Ne.symm hv))).trans hcountf

/-- The queue head taken into service keeps its hold (R28). -/
theorem itemTaken (h : Held x r u) (hwork : WorkLaw u) {d : DropId} {it : Item} {rest : List Item}
    (hq : (u.dropUnit d).queue = it :: rest) (hnone : (u.dropUnit d).service = none) :
    Held x r (u.itemTaken d it rest) := by
  have hcount : ∀ b, ((u.dropUnit d).serve it rest).workPlaces.count b + x.count b
        = (u.dropUnit d).workPlaces.count b + x.count b := fun b => by
    simp only [Drop.serve, Drop.workPlaces, hq, hnone, List.map_cons, List.count_append, List.count_cons, Option.map_some,
      Option.map_none, Option.toList_some, Option.toList_none, List.count_nil]
    omega
  have hrest : ∀ jt ∈ (u.dropUnit d).queue, jt.work ≠ it.work → jt ∈ rest := fun jt hjt hne =>
    (List.mem_cons.1 (hq ▸ hjt)).resolve_left fun heq => hne (heq ▸ rfl)
  unfold State.itemTaken
  simp only
  cases hw : it.work with
  | notice a =>
    have hmoved : Held x r (u.mapDrop d (Drop.serve it rest)) :=
      h.mapWork rfl hcount (h.request.mapWork (fun jt hjt v hv => hrest jt hjt (by simp [hv, hw]))
        fun jt v hjt _ => by rw [hnone] at hjt; cases hjt)
    simp only
    split
    · exact hmoved
    · exact hmoved.write
  | exchange t =>
    obtain ⟨e, he, hst, hd⟩ := hwork.queued (hq ▸ List.mem_cons_self) hw
    have hexch : (u.mapDrop d (Drop.serve it rest)).exchange t
      = some e := he
    simp only [hexch]
    refine Held.write ?_
    have hmap := u.places_mapDrop d (Drop.serve it rest)
    refine h.moved rfl (fun b => ?_) (Nat.le_of_eq ?_) (h.receiver.congr (fun l => ?_) fun _ _ _ => rfl) fun v f hf => ?_
    · have hput := (u.mapDrop d (Drop.serve it rest)).places_putExchange t (some { e with state := .sending }) b
      simp only [hexch, Option.map_some] at hput
      have := hmap b
      simp only [Drop.places_count_work] at this
      have hrx : ((u.dropUnit d).serve it rest).rx = (u.dropUnit d).rx := rfl
      rw [hrx] at this
      have := hcount b
      omega
    · exact congrArg (· + r) (State.slotsHeld_congr (State.mapDrop_at (s := u) (d := d) (f := Drop.serve it rest) (fun y => y.rx.slot) rfl)).symm
    · have hrx := State.rx_mapDrop (s := u) (d := d)
        (f := Drop.serve it rest) rfl l
      rw [← hrx]; cases l <;> rfl
    · have hunit : ∀ c, ((u.mapDrop d (Drop.serve it rest)).putExchange t (some { e with state := .sending })).dropUnit c
          = (u.mapDrop d (Drop.serve it rest)).dropUnit c :=
        fun _ => rfl
      simp only [hunit]
      obtain ⟨jt, hjt, hjw, hjb⟩ := (h.request t e he).1 hst
      by_cases hv : v = t
      · subst hv
        rw [State.exchange_putExchange_self] at hf
        obtain rfl := Option.some.inj hf
        have hij : it = jt := (hwork.distinct d).unique (hq ▸ List.mem_cons_self) (hd ▸ hjt) hw hjw
        refine ⟨nofun, fun _ => ⟨it, ?_, hw, hij ▸ hjb⟩, ?_⟩
        · rw [show ({ e with state := .sending } : Exchange).drop = d from hd, State.dropUnit_mapDrop_self]; rfl
        · rw [if_neg (by simp)]; exact (h.count_onLine he (.inl hst) :)
      · rw [State.exchange_putExchange_ne _ _ hv] at hf
        obtain ⟨hfq, hfin, hfc⟩ := h.request v f hf
        refine ⟨fun hs => ?_, fun hs => ?_, hfc⟩
        · obtain ⟨kt, hkt, hkw, hkb⟩ := hfq hs
          by_cases hfd : f.drop = d
          · rw [hfd, State.dropUnit_mapDrop_self]
            exact ⟨kt, hrest kt (hfd ▸ hkt) (by simpa [hkw, hw] using hv), hkw, hkb⟩
          · rw [State.dropUnit_mapDrop_ne _ _ hfd]; exact ⟨kt, hkt, hkw, hkb⟩
        · obtain ⟨kt, hkt, hkw, hkb⟩ := hfin hs
          by_cases hfd : f.drop = d
          · rw [hfd, hnone] at hkt; cases hkt
          · rw [State.dropUnit_mapDrop_ne _ _ hfd]; exact ⟨kt, hkt, hkw, hkb⟩

/-! ### Items that join a queue or leave it -/

/-- A notice queued: its unplaced hold becomes the item's (R61, R62). -/
theorem joinNotice (h : Held (b :: x) r u) {d : DropId} {a : Byte} {c : Class} :
    Held x r (u.joinQueue d { work := .notice a, cls := c, buffer := b }) := by
  refine h.mapWork rfl (fun c => ?_) (h.request.mapWork (fun it hit _ _ => mem_enqueue_iff.2 (.inr hit))
    fun _ _ hit _ => hit)
  simp only [Drop.workPlaces, List.count_append, count_enqueue, List.count_cons, List.count_nil]
  omega

/-- Notices taken out of a queue: their holds are unplaced. -/
theorem takeNotices (h : Held x r u) {d : DropId} {p : Item → Bool}
    (hp : ∀ it ∈ (u.dropUnit d).queue, p it = false → ∀ t, it.work ≠ .exchange t) :
    Held (((u.dropUnit d).queue.filter (fun it => !p it)).map Item.buffer ++ x) r
      (u.mapDrop d (fun x => { x with queue := x.queue.filter p })) := by
  refine h.mapWork rfl (fun b => ?_) (h.request.mapWork (fun it hit v hv => List.mem_filter.2 ⟨hit, ?_⟩)
    fun _ _ hit _ => hit)
  · have hsplit : ∀ q : List Item, ((q.filter p).map Item.buffer).count b
        + ((q.filter fun it => !p it).map Item.buffer).count b = (q.map Item.buffer).count b := fun q => by
      induction q with
      | nil => rfl
      | cons it q ih =>
        cases hp : p it <;> simp only [List.filter_cons, hp, Bool.not_true, Bool.not_false, Bool.false_eq_true,
          if_true, if_false, List.map_cons, List.count_cons] <;> omega
    have := hsplit (u.dropUnit d).queue
    simp only [Drop.workPlaces, List.count_append]
    omega
  · by_contra hne
    exact hp it hit (by simpa using hne) v hv

/-- The notices to an address taken out of a drop's queue, their holds given up in queue order (R157). -/
theorem dropNotices (h : Held x r u) {a : Byte} {d : DropId} : Held x r (State.dropNotices a u d) := by
  have htaken := h.takeNotices (d := d) (p := fun it => decide (it.work ≠ .notice a)) fun it _ hit t ht => by
    simp [ht] at hit
  have hfold : State.dropNotices a u d = (u.mapDrop d (fun x => { x with
      queue := x.queue.filter (fun it => decide (it.work ≠ .notice a)) })).releaseAll
        (((u.dropUnit d).queue.filter (fun it => !decide (it.work ≠ .notice a))).map Item.buffer) := by
    simp [State.dropNotices, State.releaseAll, List.foldl_map]
  rw [hfold]
  exact htaken.releaseAll

/-- A notice in service leaves, its hold given up (R81). -/
theorem leaveNotice (h : Held x r u) {d : DropId} {it : Item} {a : Byte} (hit : (u.dropUnit d).service = some it)
    (ha : it.work = .notice a) : Held x r (u.leaveService d it.buffer) := by
  have hleft : Held (it.buffer :: x) r (u.mapDrop d (fun x => { x with service := none, expiryHeld := false })) := by
    refine h.mapWork rfl (fun b => ?_) (h.request.mapWork (fun _ hjt _ _ => hjt) fun jt v hjt hv => ?_)
    · simp only [Drop.workPlaces, List.count_append, hit, Option.map_some, Option.map_none, Option.toList_some,
        Option.toList_none, List.count_nil, List.count_cons]
      omega
    · obtain rfl := Option.some.inj (hit.symm.trans hjt)
      rw [ha] at hv; cases hv
  exact hleft.release

/-- The notice at the head of a queue discarded (R91). -/
theorem popNotice (h : Held x r u) {d : DropId} {it : Item} {rest : List Item} {a : Byte}
    (hq : (u.dropUnit d).queue = it :: rest) (ha : it.work = .notice a) :
    Held x r ((u.release it.buffer).mapDrop d (fun x => { x with queue := rest })) := by
  have hleft : Held (it.buffer :: x) r (u.mapDrop d (fun x => { x with queue := rest })) := by
    refine h.mapWork rfl (fun b => ?_) (h.request.mapWork (fun jt hjt v hv => ?_) fun _ _ hjt _ => hjt)
    · simp only [Drop.workPlaces, List.count_append, hq, List.map_cons, List.count_cons]
      omega
    · rw [hq] at hjt
      refine (List.mem_cons.1 hjt).resolve_left fun heq => ?_
      rw [heq, ha] at hv; cases hv
  exact hleft.release

/-- An exchange opened: its buffer held by its record and by its item (R67, R72). -/
theorem openExchange (h : Held (b :: x) r u) {d : DropId} {t : Tag} {e : Exchange} {c : Class}
    (hfree : u.exchange t = none) (hbuf : e.buffer = b) (hstate : e.state = .queued) (hd : e.drop = d)
    (hone : u.pool.count b = 1) :
    Held x r (((u.putExchange t (some e)).hold b).joinQueue d { work := .exchange t, cls := c, buffer := b }) := by
  have hcount := Pool.count_hold (p := u.pool) (b := b) (by omega)
  have hother : ∀ a, a ≠ b → (u.pool.hold b).count a = u.pool.count a := fun a ha => by
    rw [hcount]; simp [Ne.symm ha]
  have hrx : ∀ l, (((u.putExchange t (some e)).hold b).joinQueue d { work := .exchange t, cls := c, buffer := b }).rx l
      = u.rx l := fun l => State.rx_mapDrop (s := State.hold _ _) rfl l
  refine ⟨h.pool.hold _, fun a => ?_, ?_, fun l => ?_, fun v f hf => ?_⟩
  · have hput := u.places_putExchange t (some e) a
    have hmap := State.places_mapDrop ((u.putExchange t (some e)).hold b) d
      (fun y => { y with queue := enqueue { work := .exchange t, cls := c, buffer := b } y.queue }) a
    simp only [Drop.places_count, count_enqueue] at hmap
    simp only [hfree, Option.map_some, Option.map_none, Option.toList_some, Option.toList_none, List.count_nil, hbuf]
      at hput
    have hsame : ((u.putExchange t (some e)).hold b).places.count a = (u.putExchange t (some e)).places.count a := rfl
    have := hcount a
    have hb := h.count a
    rw [List.count_cons] at hb
    simp only [List.count_cons, List.count_nil] at *
    change (u.pool.hold b).count a = _
    unfold State.joinQueue
    omega
  · have hslots : (((u.putExchange t (some e)).hold b).joinQueue d
        { work := .exchange t, cls := c, buffer := b }).slotsHeld = u.slotsHeld :=
      State.slotsHeld_congr fun d => congrArg Receiver.slot (hrx (.drop d))
    have hreserve := h.reserve
    rw [hslots]
    change 4 ≤ (u.pool.hold b).free.length + u.slotsHeld + r
    rw [Pool.hold_free]
    exact hreserve
  · rw [hrx]
    refine ⟨(h.receiver l).1, fun a ha => ?_⟩
    exact (hother a (h.slot_ne List.mem_cons_self ha)).trans ((h.receiver l).2 a ha)
  · by_cases hv : v = t
    · subst hv
      have hf' : (u.putExchange v (some e)).exchange v = some f := hf
      rw [State.exchange_putExchange_self] at hf'
      obtain rfl := Option.some.inj hf'
      refine ⟨fun _ => ⟨{ work := .exchange v, cls := c, buffer := b }, ?_, rfl, hbuf.symm⟩,
        fun hin => by simp [Exchange.inService, hstate] at hin, ?_⟩
      · rw [hd, State.joinQueue, State.dropUnit_mapDrop_self]
        exact mem_enqueue_iff.2 (.inl rfl)
      · rw [hbuf, if_neg (by simp [hstate])]
        have := hcount b
        rwa [hone, List.count_singleton_self] at this
    · have hf' : u.exchange v = some f := by
        have : (u.putExchange t (some e)).exchange v = some f := hf
        rwa [State.exchange_putExchange_ne _ _ hv] at this
      obtain ⟨hq, hin, hcountf⟩ := h.request v f hf'
      refine ⟨fun hs => ?_, fun hs => ?_, ?_⟩
      · obtain ⟨it, hit, hw, hb⟩ := hq hs
        refine ⟨it, ?_, hw, hb⟩
        by_cases hfd : f.drop = d
        · rw [hfd, State.joinQueue, State.dropUnit_mapDrop_self]
          exact mem_enqueue_iff.2 (.inr (hfd ▸ hit))
        · rw [State.joinQueue, State.dropUnit_mapDrop_ne _ _ hfd]; exact hit
      · rw [State.joinQueue, State.mapDrop_at Drop.service rfl]; exact hin hs
      · exact (hother f.buffer (h.request_ne List.mem_cons_self hf')).trans hcountf

end Held
end Sys2Proof.Machine
end

section
/-! PROOFS. `Sound k o x r s`: the laws of the work while a command is under way. `k` says which of them are carried: WorkLaw
always, then ServiceLaw, and with it the tallies or the holds. `o` are the drops between two line states, of which nothing is
said about the line state; `x` and `r` are those of `Held`. -/

namespace Sys2Proof.Machine

set_option Elab.async false

/-- Which laws of the work a chain carries. -/
inductive Scope where
  | work
  | service
  | tally
  | hold
deriving DecidableEq

/-- What ServiceLaw says, of a drop. -/
def Drop.Served (loading : Prop) (x : Drop) : Prop :=
  (x.line = .disabled ∨ x.line = .idle ∨ x.line = .fault → x.service = none)
    ∧ (x.line = .disabled ∨ x.line = .fault → x.queue = [])
    ∧ (∀ it a, x.service = some it → it.work = .notice a → x.line = .sending)
    ∧ (x.line = .disabled → x.mode = .disabled ∨ loading)
    ∧ (x.line = .sending ↔ ∃ src r began, x.tx = .sending src r began)

/-- A transmitter sends a frame. -/
def Transmitter.Sends (x : Transmitter) : Prop := ∃ src r began, x = .sending src r began

theorem serviceLaw_iff (s : State) : ServiceLaw s ↔ ∀ d, (s.dropUnit d).Served (s.image.config = .loading) := Iff.rfl

/-- What TallyLaw says of a record alone. -/
def Exchange.Tallied (e : Exchange) : Prop :=
  (1 ≤ e.attempts ∧ e.attempts ≤ 4 ∧ e.fetches ≤ 255) ∧ (e.state ≠ .fetching → e.fetches ≤ 254 ∧ e.limit.getD 0 ≤ 3)
    ∧ e.limit.getD 0 ≤ 255

/-- What TallyLaw says of a record in service on its drop. -/
def Exchange.TalliedOn (e : Exchange) (x : Drop) (t : Tag) : Prop :=
  x.serving = some t →
    (x.line = .guard → e.attempts ≤ 3 ∧ e.state ≠ .fetching) ∧ (x.line = .sending → e.fetches ≤ 254)

theorem tallyLaw_iff (s : State) : TallyLaw s ↔
    ProbeLaw s ∧ ∀ t e, s.exchange t = some e → e.Tallied ∧ e.TalliedOn (s.dropUnit e.drop) t := by
  simp only [TallyLaw, ProbeLaw, Exchange.Tallied, Exchange.TalliedOn, and_assoc]

/-- The laws of the work, so far as `k` carries them, but for the drops of `o`. -/
structure Sound (k : Scope) (o : DropId → Prop) (x : List BufId) (r : Nat) (s : State) : Prop where
  work : WorkLaw s
  service : k ≠ .work → ∀ d, ¬ o d → (s.dropUnit d).Served (s.image.config = .loading)
  tally : k = .tally → ∀ t e, s.exchange t = some e → e.Tallied ∧ (¬ o e.drop → e.TalliedOn (s.dropUnit e.drop) t)
  hold : k = .hold → Held x r s

/-- No drop. -/
def nobody : DropId → Prop := fun _ => False

/-- The one drop. -/
def only (d : DropId) : DropId → Prop := fun e => e = d

/-! ### A drop's line state and its work -/

theorem Drop.Served.congr {L M : Prop} {x y : Drop} (h : x.Served L) (hline : y.line = x.line) (hmode : y.mode = x.mode)
    (htx : y.tx = x.tx) (hqueue : y.queue = x.queue) (hservice : y.service = x.service) (hLM : L → M) : y.Served M := by
  obtain ⟨h1, h2, h3, h4, h5⟩ := h
  simp only [Drop.Served, hline, hmode, htx, hqueue, hservice]
  exact ⟨h1, h2, h3, fun hl => (h4 hl).imp id hLM, h5⟩

theorem Exchange.TalliedOn.congr {e : Exchange} {x y : Drop} {t : Tag} (h : e.TalliedOn x t) (hline : y.line = x.line)
    (hservice : y.serving = some t → x.serving = some t) : e.TalliedOn y t := by
  unfold Exchange.TalliedOn
  rw [hline]
  exact fun hs => h (hservice hs)

/-- Without the item of an exchange a drop is as well served as before. -/
theorem Drop.Served.without {L : Prop} {x : Drop} (h : x.Served L) (t : Tag) (e : Exchange) : (x.without t e).Served L := by
  obtain ⟨h1, h2, h3, h4, h5⟩ := h
  have hservice : ∀ it, (x.without t e).service = some it → x.service = some it := fun it hit => by
    obtain ⟨hsame, -⟩ | ⟨hnone, -⟩ := Drop.without_service t e x
    · exact hsame ▸ hit
    · simp [hnone] at hit
  have hnone : x.service = none → (x.without t e).service = none := fun hn => by
    cases hs : (x.without t e).service with
    | none => rfl
    | some it => simp [hservice it hs] at hn
  refine ⟨fun hl => hnone (h1 (by simpa using hl)), fun hl => ?_, fun it a hit ha => ?_, by simpa using h4, by simpa using h5⟩
  · have hempty := h2 (by simpa using hl)
    have hsub := Drop.without_sublist t e x
    rw [hempty] at hsub
    exact List.sublist_nil.1 hsub
  · simpa using h3 it a (hservice it hit) ha

theorem Drop.serving_without {x : Drop} {t v : Tag} {e : Exchange} (h : (x.without t e).serving = some v) :
    x.serving = some v := by
  obtain ⟨it, hit, hw⟩ := Drop.serving_some.1 h
  obtain ⟨hsame, -⟩ | ⟨hnone, -⟩ := Drop.without_service t e x
  · exact Drop.serving_some.2 ⟨it, hsame ▸ hit, hw⟩
  · simp [hnone] at hit

/-- A drop that serves no exchange, and no notice outside SENDING, serves nothing. -/
theorem Drop.Served.service_none {L : Prop} {x : Drop} (h : x.Served L) (hline : x.line ≠ .sending)
    (hserving : x.serving = none) : x.service = none := by
  cases hs : x.service with
  | none => rfl
  | some it =>
    cases hw : it.work with
    | exchange t =>
      have := Drop.serving_some.2 ⟨it, hs, hw⟩
      simp [hserving] at this
    | notice a => exact absurd (h.2.2.1 it a hs hw) hline

/-- Outside SENDING no frame is being sent. -/
theorem Drop.Served.not_sends {L : Prop} {x : Drop} (h : x.Served L) (hline : x.line ≠ .sending) : ¬ x.tx.Sends :=
  fun hs => hline (h.2.2.2.2.2 hs)

namespace Sound

variable {k : Scope} {o : DropId → Prop} {x : List BufId} {r : Nat} {s u : State}

/-! ### Drops between two line states -/

theorem weaken (h : Sound k o x r u) {q : DropId → Prop} (hoq : ∀ d, o d → q d) : Sound k q x r u :=
  ⟨h.work, fun hk d hd => h.service hk d fun ho => hd (hoq d ho),
    fun hk t e he => ⟨(h.tally hk t e he).1, fun hd => (h.tally hk t e he).2 fun ho => hd (hoq _ ho)⟩, h.hold⟩

/-- A drop has come to its new line state. -/
theorem settle {q : DropId → Prop} (h : Sound k q x r u) (d : DropId) (hq : ∀ e, q e → o e ∨ e = d)
    (hserved : k ≠ .work → (u.dropUnit d).Served (u.image.config = .loading))
    (htally : k = .tally → ∀ t e, u.exchange t = some e → e.drop = d → e.TalliedOn (u.dropUnit d) t) :
    Sound k o x r u := by
  refine ⟨h.work, fun hk e he => ?_, fun hk t e he => ⟨(h.tally hk t e he).1, fun hd => ?_⟩, h.hold⟩
  · by_cases hed : e = d
    · exact hed ▸ hserved hk
    · exact h.service hk e fun hqe => (hq e hqe).elim he hed
  · by_cases hed : e.drop = d
    · rw [hed]; exact htally hk t e he hed
    · exact (h.tally hk t e he).2 fun hqe => (hq _ hqe).elim hd hed

/-! ### Changes outside the work -/

/-- The records and the drops' work left alone, only the holds moved. -/
theorem ofHeld (h : Sound k o x r s) {y : List BufId} {q : Nat} {t : State} (hexch : ∀ v, t.exchange v = s.exchange v)
    (hline : ∀ d, (t.dropUnit d).line = (s.dropUnit d).line) (hmode : ∀ d, (t.dropUnit d).mode = (s.dropUnit d).mode)
    (htx : ∀ d, (t.dropUnit d).tx = (s.dropUnit d).tx) (hqueue : ∀ d, (t.dropUnit d).queue = (s.dropUnit d).queue)
    (hservice : ∀ d, (t.dropUnit d).service = (s.dropUnit d).service)
    (himage : s.image.config = .loading → t.image.config = .loading) (hheld : k = .hold → Held y q t) :
    Sound k o y q t := by
  have hserving : ∀ d, (t.dropUnit d).serving = (s.dropUnit d).serving := fun d => by simp only [Drop.serving, hservice]
  refine ⟨h.work.congr hexch hqueue hservice, fun hk d hd => ?_, fun hk v e he => ?_, hheld⟩
  · exact (h.service hk d hd).congr (hline d) (hmode d) (htx d) (hqueue d) (hservice d) himage
  · rw [hexch] at he
    obtain ⟨hall, hon⟩ := h.tally hk v e he
    exact ⟨hall, fun hd => (hon hd).congr (hline _) fun hs => by rwa [hserving] at hs⟩

/-- The same with the drops untouched. -/
theorem ofHeldSame (h : Sound k o x r s) {y : List BufId} {q : Nat} {t : State}
    (hheld : k = .hold → Held y q t) (hexch : t.exchanges = s.exchanges := by rfl)
    (hdrops : t.drops = s.drops := by rfl) (himage : s.image.config = .loading → t.image.config = .loading := by exact id) :
    Sound k o y q t := by
  have hunit : ∀ d, t.dropUnit d = s.dropUnit d := fun d => by simp [State.dropUnit, hdrops]
  exact h.ofHeld (fun v => by simp [State.exchange, hexch]) (fun d => by rw [hunit]) (fun d => by rw [hunit])
    (fun d => by rw [hunit]) (fun d => by rw [hunit]) (fun d => by rw [hunit]) himage hheld

/-- What stands in no law of the work changed. -/
theorem same (h : Sound k o x r s) {t : State} (hpool : t.pool = s.pool := by rfl)
    (hexch : t.exchanges = s.exchanges := by rfl) (hdrops : t.drops = s.drops := by rfl)
    (hrx : t.trunk.rx = s.trunk.rx := by rfl) (htx : t.trunk.tx.pooled = s.trunk.tx.pooled := by rfl)
    (hurgent : t.upstream.urgent = s.upstream.urgent := by rfl)
    (hroutine : t.upstream.routine = s.upstream.routine := by rfl)
    (hslot : t.mgmt.slot.buffer = s.mgmt.slot.buffer := by rfl)
    (himage : s.image.config = .loading → t.image.config = .loading := by exact id) : Sound k o x r t :=
  h.ofHeldSame (fun hk => (h.hold hk).same hpool hexch hdrops hrx htx hurgent hroutine hslot) hexch hdrops himage

theorem advance (h : Sound k o x r u) {n : Nat} : Sound k o x r (u.advance n) := h.same

theorem write (h : Sound k o x r u) {b : BufId} {v : List Byte} : Sound k o x r (u.write b v) :=
  h.ofHeldSame fun hk => (h.hold hk).write

theorem addHold (h : Sound k o x r u) {b : BufId} (hb : b ∈ x) : Sound k o (b :: x) r (u.hold b) :=
  h.ofHeldSame fun hk => (h.hold hk).hold hb

theorem release (h : Sound k o (b :: x) r u) : Sound k o x r (u.release b) :=
  h.ofHeldSame fun hk => (h.hold hk).release

theorem queueUp (h : Sound k o (b :: x) r u) {c : Class} : Sound k o x r (u.queueUp c b) :=
  h.ofHeldSame (fun hk => (h.hold hk).queueUp) (by simp) (by simp) (by simp)

theorem arbitrate (h : Sound k o x r u) : Sound k o x r u.arbitrate :=
  h.ofHeldSame (fun hk => (h.hold hk).arbitrate) (by simp) (by simp) (by simp)

theorem mapStation (h : Sound k o x r u) {a : Byte} {f : Station → Station} : Sound k o x r (u.mapStation a f) := h.same

theorem mapTrunkCounters (h : Sound k o x r u) {f : TrunkCounters → TrunkCounters} :
    Sound k o x r (u.mapTrunkCounters f) := h.same

/-- A drop changed outside its line state, its work and its receiver. -/
theorem mapDrop (h : Sound k o x r u) {d : DropId} {f : Drop → Drop}
    (hline : (f (u.dropUnit d)).line = (u.dropUnit d).line := by rfl)
    (hmode : (f (u.dropUnit d)).mode = (u.dropUnit d).mode := by rfl)
    (htx : (f (u.dropUnit d)).tx = (u.dropUnit d).tx := by rfl)
    (hqueue : (f (u.dropUnit d)).queue = (u.dropUnit d).queue := by rfl)
    (hservice : (f (u.dropUnit d)).service = (u.dropUnit d).service := by rfl)
    (hrx : (f (u.dropUnit d)).rx = (u.dropUnit d).rx := by rfl) : Sound k o x r (u.mapDrop d f) :=
  h.ofHeld (fun _ => rfl) (State.mapDrop_at Drop.line hline) (State.mapDrop_at Drop.mode hmode)
    (State.mapDrop_at Drop.tx htx) (State.mapDrop_at Drop.queue hqueue) (State.mapDrop_at Drop.service hservice) id
    fun hk => (h.hold hk).mapDrop hrx hqueue hservice

/-- A drop comes to another line state with the work it has. -/
theorem setLine {q : DropId → Prop} (h : Sound k q x r u) {d : DropId} {f : Drop → Drop} (hq : ∀ e, q e → o e ∨ e = d)
    (hserved : k ≠ .work → (f (u.dropUnit d)).Served (u.image.config = .loading))
    (htally : k = .tally → ∀ t e, u.exchange t = some e → e.drop = d → e.TalliedOn (f (u.dropUnit d)) t)
    (hqueue : (f (u.dropUnit d)).queue = (u.dropUnit d).queue := by rfl)
    (hservice : (f (u.dropUnit d)).service = (u.dropUnit d).service := by rfl)
    (hrx : (f (u.dropUnit d)).rx = (u.dropUnit d).rx := by rfl) : Sound k o x r (u.mapDrop d f) := by
  have hserving : (f (u.dropUnit d)).serving = (u.dropUnit d).serving := by simp only [Drop.serving, hservice]
  refine ⟨h.work.mapDrop (by rw [hqueue]) (fun t ht => by rwa [hserving] at ht), fun hk e he => ?_,
    fun hk t e he => ⟨(h.tally hk t e he).1, fun hd => ?_⟩, fun hk => (h.hold hk).mapDrop hrx hqueue hservice⟩
  · by_cases hed : e = d
    · subst hed; rw [State.dropUnit_mapDrop_self]; exact hserved hk
    · rw [State.dropUnit_mapDrop_ne u f hed]
      exact h.service hk e fun hqe => (hq e hqe).elim he hed
  · by_cases hed : e.drop = d
    · rw [hed, State.dropUnit_mapDrop_self]; exact htally hk t e he hed
    · rw [State.dropUnit_mapDrop_ne u f hed]
      exact (h.tally hk t e he).2 fun hqe => (hq _ hqe).elim hd hed

theorem mapDropCounters (h : Sound k o x r u) {d : DropId} {f : DropCounters → DropCounters} :
    Sound k o x r (u.mapDropCounters d f) := h.mapDrop

theorem countBroken (h : Sound k o x r u) {l : Line} : Sound k o x r (u.countBroken l) := by
  unfold State.countBroken
  split
  · exact h.mapTrunkCounters
  · exact h.mapDropCounters

theorem countBad (h : Sound k o x r u) {l : Line} : Sound k o x r (u.countBad l) := by
  unfold State.countBad
  split
  · exact h.mapTrunkCounters
  · exact h.mapDropCounters

/-! ### Receivers -/

/-- A receiver set, whatever it does to the holds. -/
theorem ofSetRx (h : Sound k o x r u) {y : List BufId} {q : Nat} {l : Line} {v : Receiver}
    (hheld : k = .hold → Held y q (u.setRx l v)) : Sound k o y q (u.setRx l v) :=
  h.ofHeld (fun w => by simp [State.exchange]) (fun d => (u.setRx_work l v d).2.2.1) (fun d => (u.setRx_work l v d).2.2.2.1)
    (fun d => (u.setRx_work l v d).2.2.2.2) (fun d => (u.setRx_work l v d).1) (fun d => (u.setRx_work l v d).2.1)
    (by simp) hheld

theorem setRx (h : Sound k o x r u) {l : Line} {v : Receiver} (hstate : v.state = (u.rx l).state := by rfl)
    (hslot : v.slot = (u.rx l).slot := by rfl) : Sound k o x r (u.setRx l v) :=
  h.ofSetRx fun hk => (h.hold hk).setRx hstate hslot

theorem setRxIdle (h : Sound k o x r u) {l : Line} {v : Receiver} (hl : (u.rx l).state ≠ .assemble)
    (hv : v.slot = none := by rfl) (hstate : v.state ≠ .assemble := by nofun) : Sound k o x r (u.setRx l v) :=
  h.ofSetRx fun hk => (h.hold hk).setRxIdle hl hv hstate

theorem dropFrame (h : Sound k o x r u) {l : Line} {next : RxState} (hnext : next ≠ .assemble := by nofun) :
    Sound k o x r (u.dropFrame l next) := by
  have hunit : ∀ d, (u.dropFrame l next).dropUnit d
      = (u.setRx l { Receiver.idle with state := next }).dropUnit d := fun d => by
    unfold State.dropFrame
    simp only
    split <;> rfl
  refine h.ofHeld (fun w => by simp [State.exchange]) (fun d => ?_) (fun d => ?_) (fun d => ?_) (fun d => ?_) (fun d => ?_)
    (by simp) fun hk => (h.hold hk).dropFrame hnext
  · rw [hunit]; exact (u.setRx_work l _ d).2.2.1
  · rw [hunit]; exact (u.setRx_work l _ d).2.2.2.1
  · rw [hunit]; exact (u.setRx_work l _ d).2.2.2.2
  · rw [hunit]; exact (u.setRx_work l _ d).1
  · rw [hunit]; exact (u.setRx_work l _ d).2.1

theorem holdReceiver (h : Sound k o x r u) {d : DropId} {counted : Bool} : Sound k o x r (u.holdReceiver d counted) := by
  unfold State.holdReceiver
  split
  · refine dropFrame ?_
    split
    · exact h.countBroken
    · exact h
  · next hst => exact h.setRxIdle hst

end Sound
end Sys2Proof.Machine
end

section
/-! PROOFS. The laws of the work through the ends of an exchange and the taking of work into service (R76 to R82, R110,
R120 to R123). -/

namespace Sys2Proof.Machine

set_option Elab.async false

/-! ### What the operations make of the records and the drops -/

theorem State.mapDrop_mapDrop (s : State) (d : DropId) (f g : Drop → Drop) :
    (s.mapDrop d f).mapDrop d g = s.mapDrop d (fun x => g (f x)) := by simp [State.mapDrop]

theorem State.releaseAll_keeps (l : List BufId) (s : State) :
    (s.releaseAll l).exchanges = s.exchanges ∧ (s.releaseAll l).drops = s.drops ∧ (s.releaseAll l).image = s.image := by
  unfold State.releaseAll
  exact ⟨foldl_keeps State.exchanges State.release (fun _ _ => rfl) l s,
    foldl_keeps State.drops State.release (fun _ _ => rfl) l s, foldl_keeps State.image State.release (fun _ _ => rfl) l s⟩

theorem State.unlink_exchange_self (s : State) (t : Tag) (e : Exchange) : (s.unlink t e).exchange t = none := by
  simp [State.unlink]

theorem State.unlink_exchange_ne (s : State) {t v : Tag} (e : Exchange) (h : v ≠ t) :
    (s.unlink t e).exchange v = s.exchange v := by
  unfold State.unlink
  rw [State.exchange_putExchange_ne _ _ h]
  rfl

/-- A closure without answer frees the record, and leaves the drops without the exchange's item. -/
theorem State.closeExchange_work {s : State} {t : Tag} {e : Exchange} (he : s.exchange t = some e) (c : ClosureReason) :
    (s.closeExchange t c).exchanges = (s.unlink t e).exchanges ∧ (s.closeExchange t c).drops = (s.unlink t e).drops := by
  rw [State.closeExchange_eq he]
  refine ⟨?_, ?_⟩
  · rw [State.mapStation_exchanges, (State.releaseAll_keeps _ _).1]; simp; rfl
  · rw [State.mapStation_drops, (State.releaseAll_keeps _ _).2.1]; simp; rfl

theorem State.closeExchange_dropUnit {s : State} {t : Tag} {e : Exchange} (he : s.exchange t = some e) (c : ClosureReason)
    (d : DropId) : (s.closeExchange t c).dropUnit d = (s.mapDrop e.drop (Drop.without t e)).dropUnit d := by
  simp only [State.dropUnit, (State.closeExchange_work he c).2]
  rfl

theorem State.closeExchange_exchange_self {s : State} {t : Tag} (c : ClosureReason) :
    (s.closeExchange t c).exchange t = none := by
  cases he : s.exchange t with
  | none => simp [State.closeExchange, he]
  | some e => simp only [State.exchange, (State.closeExchange_work he c).1]; exact s.unlink_exchange_self t e

theorem State.closeExchange_exchange_ne {s : State} {t v : Tag} (c : ClosureReason) (h : v ≠ t) :
    (s.closeExchange t c).exchange v = s.exchange v := by
  cases he : s.exchange t with
  | none => simp [State.closeExchange, he]
  | some e => simp only [State.exchange, (State.closeExchange_work he c).1]; exact s.unlink_exchange_ne e h

/-- The in-service slot of a closed exchange's drop is empty. -/
theorem State.closeExchange_service {s : State} {t : Tag} {e : Exchange} (he : s.exchange t = some e)
    (hin : e.inService = true) (c : ClosureReason) : ((s.closeExchange t c).dropUnit e.drop).service = none := by
  rw [State.closeExchange_dropUnit he, State.dropUnit_mapDrop_self, Drop.without_inService t hin]

theorem State.mapDrop_putExchange (s : State) (d : DropId) (f : Drop → Drop) (t : Tag) (e : Option Exchange) :
    (s.putExchange t e).mapDrop d f = (s.mapDrop d f).putExchange t e := rfl

theorem State.leaveService_dropUnit (s : State) (d : DropId) (b : BufId) (c : DropId) :
    (s.leaveService d b).dropUnit c = (s.mapDrop d (fun x => { x with service := none, expiryHeld := false })).dropUnit c := rfl

/-- What a closure leaves of every drop outside its work. -/
theorem State.closeExchange_at {α : Type} (F : Drop → α) (hF : ∀ (t : Tag) (e : Exchange) (x : Drop), F (x.without t e) = F x)
    (s : State) (t : Tag) (c : ClosureReason) (d : DropId) : F ((s.closeExchange t c).dropUnit d) = F (s.dropUnit d) := by
  cases he : s.exchange t with
  | none => simp [State.closeExchange, he]
  | some e => rw [State.closeExchange_dropUnit he]; exact State.mapDrop_at F (hF t e _) d

/-- The fetch candidate is FETCH DUE on its drop (R77). -/
theorem State.fetchCandidate_some {s : State} {d : DropId} {t : Tag} (h : s.fetchCandidate d = some t) :
    ∃ e, s.exchange t = some e ∧ e.drop = d ∧ e.state = .fetchDue := by
  have hfold : ∀ (l : List Tag) (best : Option Tag),
      (∀ v, best = some v → ∃ e, s.exchange v = some e ∧ e.drop = d ∧ e.state = .fetchDue) →
      ∀ v, l.foldl (s.older d) best = some v → ∃ e, s.exchange v = some e ∧ e.drop = d ∧ e.state = .fetchDue := by
    intro l
    induction l with
    | nil => exact fun _ hb => hb
    | cons a l ih =>
      intro best hb
      refine ih _ fun v hv => ?_
      unfold State.older at hv
      split at hv
      · exact hb v hv
      · next e he =>
        split at hv
        · next hc =>
          split at hv
          · cases hv; exact ⟨e, he, hc⟩
          · split at hv
            · cases hv; exact ⟨e, he, hc⟩
            · exact hb v hv
        · exact hb v hv
  exact hfold _ none nofun t h

namespace WorkLaw

variable {u : State}

/-- A drop takes an exchange that is in service there. -/
theorem mapServing (h : WorkLaw u) {d : DropId} {f : Drop → Drop}
    (hqueue : (f (u.dropUnit d)).queue.Sublist (u.dropUnit d).queue := by exact List.Sublist.refl _)
    (hserving : ∀ t, (f (u.dropUnit d)).serving = some t → ∃ e, u.exchange t = some e ∧ e.inService = true ∧ e.drop = d) :
    WorkLaw (u.mapDrop d f) := by
  intro e
  by_cases he : e = d
  · subst he
    rw [State.dropUnit_mapDrop_self]
    exact ⟨fun it hit => (h e).1 it (hqueue.subset hit), (h e).2.1.sublist hqueue, hserving⟩
  · rw [State.dropUnit_mapDrop_ne u f he]
    exact h e

/-- An exchange off the line is named nowhere. -/
theorem offLine_unnamed (h : WorkLaw u) {t : Tag} {e : Exchange} (he : u.exchange t = some e)
    (hoff : e.state = .deferred ∨ e.state = .fetchDue) :
    (∀ d, ∀ it ∈ (u.dropUnit d).queue, it.work ≠ .exchange t) ∧ ∀ d, (u.dropUnit d).serving ≠ some t := by
  rw [Exchange.offLine_iff] at hoff
  obtain ⟨hq, hin⟩ := hoff
  refine ⟨fun d it hit hw => ?_, fun d hs => ?_⟩
  · obtain ⟨y, hy, hst, -⟩ := h.queued hit hw
    obtain rfl := Option.some.inj (he.symm.trans hy)
    exact hq hst
  · obtain ⟨y, hy, hst, -⟩ := h.serving hs
    obtain rfl := Option.some.inj (he.symm.trans hy)
    simp [hin] at hst

theorem fetchTaken (h : WorkLaw u) {d : DropId} {t : Tag} {e : Exchange} (he : u.exchange t = some e) (hd : e.drop = d)
    (hoff : e.state = .deferred ∨ e.state = .fetchDue) : WorkLaw (u.fetchTaken d t e) := by
  obtain ⟨hqueue, hserving⟩ := h.offLine_unnamed he hoff
  have hput : WorkLaw (u.putExchange t (some { e with state := .fetching, deadline := none, dueSince := none })) :=
    h.putExchange hqueue hserving
  have hheld : WorkLaw ((u.putExchange t (some { e with state := .fetching, deadline := none, dueSince := none })).hold
    e.buffer) := hput.congr (fun _ => rfl) (fun _ => rfl) fun _ => rfl
  refine hheld.mapServing (hserving := fun v hv => ?_)
  obtain rfl : t = v := by simpa [Drop.serving] using hv
  exact ⟨_, State.exchange_putExchange_self .., rfl, hd⟩

/-- The head of a queue taken out is named nowhere else. -/
theorem popped_unnamed (h : WorkLaw u) {d : DropId} {it : Item} {rest : List Item} {t : Tag}
    (hq : (u.dropUnit d).queue = it :: rest) (hw : it.work = .exchange t) :
    (∀ c, ∀ jt ∈ ((u.mapDrop d (fun x => { x with queue := rest })).dropUnit c).queue, jt.work ≠ .exchange t)
      ∧ ∀ c, ((u.mapDrop d (fun x => { x with queue := rest })).dropUnit c).serving ≠ some t := by
  obtain ⟨e, he, hst, hd⟩ := h.queued (hq ▸ List.mem_cons_self) hw
  refine ⟨fun c jt hjt hjw => ?_, fun c hs => ?_⟩
  · by_cases hc : c = d
    · subst hc
      rw [State.dropUnit_mapDrop_self] at hjt
      have hdistinct := h.distinct c
      rw [hq] at hdistinct
      exact (List.pairwise_cons.1 hdistinct).1 jt hjt t hw hjw
    · rw [State.dropUnit_mapDrop_ne u _ hc] at hjt
      obtain ⟨y, hy, -, hyd⟩ := h.queued hjt hjw
      obtain rfl := Option.some.inj (he.symm.trans hy)
      exact hc (hyd.symm.trans hd)
  · have hs' : (u.dropUnit c).serving = some t := by
      by_cases hc : c = d
      · subst hc; rwa [State.dropUnit_mapDrop_self] at hs
      · rwa [State.dropUnit_mapDrop_ne u _ hc] at hs
    obtain ⟨y, hy, hin, -⟩ := h.serving hs'
    obtain rfl := Option.some.inj (he.symm.trans hy)
    simp [Exchange.inService, hst] at hin

theorem itemTaken (h : WorkLaw u) {d : DropId} {it : Item} {rest : List Item} (hq : (u.dropUnit d).queue = it :: rest) :
    WorkLaw (u.itemTaken d it rest) := by
  have hsub : rest.Sublist (u.dropUnit d).queue := hq ▸ List.sublist_cons_self it rest
  unfold State.itemTaken
  simp only
  cases hw : it.work with
  | notice a =>
    have hserved : WorkLaw (u.mapDrop d (Drop.serve it rest)) :=
      h.mapServing hsub fun v hv => by
        obtain ⟨jt, hjt, hjw⟩ := Drop.serving_some.1 hv
        obtain rfl : it = jt := Option.some.inj hjt
        rw [hw] at hjw; cases hjw
    simp only
    split
    · exact hserved
    · exact hserved.congr (fun _ => rfl) (fun _ => rfl) fun _ => rfl
  | exchange t =>
    obtain ⟨e, he, hst, hd⟩ := h.queued (hq ▸ List.mem_cons_self) hw
    obtain ⟨hqueue, hserving⟩ := h.popped_unnamed hq hw
    have hexch : (u.mapDrop d (Drop.serve it rest)).exchange t = some e := he
    simp only [hexch]
    have hpopped : WorkLaw (u.mapDrop d (fun x => { x with queue := rest })) := h.mapDrop (hqueue := hsub)
    have hput := hpopped.putExchange (x := some { e with state := .sending }) hqueue hserving
    have hserved : WorkLaw (((u.mapDrop d (fun x => { x with queue := rest })).putExchange t
        (some { e with state := .sending })).mapDrop d (fun x => { x with service := some it, alternation := .queue })) :=
      hput.mapServing (hserving := fun v hv => by
        obtain ⟨jt, hjt, hjw⟩ := Drop.serving_some.1 hv
        obtain rfl : it = jt := Option.some.inj hjt
        obtain rfl : t = v := Work.exchange.inj (hw.symm.trans hjw)
        exact ⟨_, State.exchange_putExchange_self .., rfl, hd⟩)
    have hsame : ((u.mapDrop d (fun x => { x with queue := rest })).putExchange t
        (some { e with state := .sending })).mapDrop d (fun x => { x with service := some it, alternation := .queue })
          = (u.mapDrop d (Drop.serve it rest)).putExchange t (some { e with state := .sending }) := by
      rw [State.mapDrop_putExchange, State.mapDrop_mapDrop]
      rfl
    rw [hsame] at hserved
    exact hserved.congr (fun _ => rfl) (fun _ => rfl) fun _ => rfl

end WorkLaw

namespace Sound

variable {k : Scope} {o : DropId → Prop} {x : List BufId} {r : Nat} {s u : State}

/-! ### The ends of an exchange -/

theorem releaseAll (h : Sound k o (l ++ x) r u) : Sound k o x r (u.releaseAll l) := by
  induction l generalizing u with
  | nil => exact h
  | cons b l ih => exact ih h.release

theorem unlink (h : Sound k o x r u) {t : Tag} {e : Exchange} (he : u.exchange t = some e) :
    Sound k o (e.buffer :: (e.lineHolds ++ x)) r (u.unlink t e) := by
  have hunit : ∀ d, (u.unlink t e).dropUnit d = (u.mapDrop e.drop (Drop.without t e)).dropUnit d := fun _ => rfl
  refine ⟨h.work.unlink he, fun hk d hd => ?_, fun hk v f hf => ?_, fun hk => (h.hold hk).unlink h.work he⟩
  · have hserved := h.service hk d hd
    rw [hunit]
    by_cases hde : d = e.drop
    · subst hde; rw [State.dropUnit_mapDrop_self]; exact hserved.without t e
    · rw [State.dropUnit_mapDrop_ne u _ hde]; exact hserved
  · have hv : v ≠ t := fun heq => by rw [heq, u.unlink_exchange_self] at hf; cases hf
    rw [u.unlink_exchange_ne e hv] at hf
    obtain ⟨hall, hon⟩ := h.tally hk v f hf
    refine ⟨hall, fun hd => ?_⟩
    rw [hunit]
    by_cases hde : f.drop = e.drop
    · rw [hde, State.dropUnit_mapDrop_self]
      exact (hde ▸ hon hd).congr (by simp) Drop.serving_without
    · rw [State.dropUnit_mapDrop_ne u _ hde]; exact hon hd

theorem closeExchange (h : Sound k o x r u) {t : Tag} {c : ClosureReason} : Sound k o x r (u.closeExchange t c) := by
  cases he : u.exchange t with
  | none => simpa [State.closeExchange, he] using h
  | some e =>
    rw [State.closeExchange_eq he]
    exact ((((h.write.unlink he).addHold List.mem_cons_self).queueUp.release).releaseAll).mapStation

/-- Closure by answer: the ANSWER's buffer is upstream, the request buffer free again (R121). -/
theorem closeByAnswer (h : Sound k o (a :: x) (r + 1) u) {t : Tag} {e : Exchange} (he : u.exchange t = some e)
    (hin : e.inService = true) : Sound k o x r (u.closeByAnswer t a) := by
  have hchain : Sound k o x (r + 1) (u.closeByAnswer t a) := by
    rw [State.closeByAnswer_eq he]
    exact ((h.write.unlink he).release.releaseAll.queueUp).mapStation
  exact { hchain with hold := fun hk => (h.hold hk).closeByAnswer h.work he hin }

/-- An exchange in service put off (R110). -/
theorem deferExchange (h : Sound k o x r u) {t : Tag} {e : Exchange} (he : u.exchange t = some e)
    (hin : e.inService = true) (hfetch : k = .tally → e.fetches ≤ 254) : Sound k o x r (u.deferExchange t) := by
  have hheld := fun hk => (h.hold hk).deferExchange he hin
  simp only [State.deferExchange, he] at hheld ⊢
  refine ⟨?_, fun hk d hd => ?_, fun hk v f hf => ?_, hheld⟩
  · exact (h.work.putOff he hin).congr (fun _ => rfl) (fun _ => rfl) fun _ => rfl
  · have hserved := h.service hk d hd
    rw [State.leaveService_dropUnit]
    by_cases hde : d = e.drop
    · subst hde
      rw [State.dropUnit_mapDrop_self]
      obtain ⟨h1, h2, h3, h4, h5⟩ := hserved
      exact ⟨fun _ => rfl, h2, nofun, h4, h5⟩
    · rw [State.dropUnit_mapDrop_ne _ _ hde]; exact hserved
  · have hf' : (u.putExchange t (some { e with
        state := .deferred, deadline := some (u.now + fetchTime (((u.station e.station).map Station.fetchInterval).getD 0))
        limit := none })).exchange v = some f := hf
    rw [State.leaveService_dropUnit]
    by_cases hv : v = t
    · subst hv
      rw [State.exchange_putExchange_self] at hf'
      obtain rfl := Option.some.inj hf'
      obtain ⟨hcounts, -⟩ := (h.tally hk v e he).1
      refine ⟨⟨hcounts, fun _ => ⟨hfetch hk, Nat.zero_le _⟩, Nat.zero_le _⟩, fun _ hs => ?_⟩
      rw [State.dropUnit_mapDrop_self] at hs
      simp [Drop.serving] at hs
    · rw [State.exchange_putExchange_ne _ _ hv] at hf'
      obtain ⟨hall, hon⟩ := h.tally hk v f hf'
      refine ⟨hall, fun hd => (hon hd).congr (State.mapDrop_at Drop.line rfl _) fun hs => ?_⟩
      by_cases hde : f.drop = e.drop
      · rw [hde, State.dropUnit_mapDrop_self] at hs; simp [Drop.serving] at hs
      · rw [State.dropUnit_mapDrop_ne _ _ hde] at hs; exact hs

/-- A record changed within its phase. -/
theorem changeExchange (h : Sound k o x r u) {t : Tag} {e e' : Exchange} (he : u.exchange t = some e)
    (hqueued : e'.state = .queued ↔ e.state = .queued) (hserved : e'.inService = e.inService)
    (htally : k = .tally → e.Tallied → e'.Tallied)
    (hon : k = .tally → ¬ o e.drop → e.TalliedOn (u.dropUnit e.drop) t → e'.TalliedOn (u.dropUnit e.drop) t)
    (hbuf : e'.buffer = e.buffer := by rfl) (hdrop : e'.drop = e.drop := by rfl) :
    Sound k o x r (u.putExchange t (some e')) := by
  refine ⟨h.work.changeExchange he hdrop hqueued.2 (fun hin => hserved.trans hin), h.service, fun hk v f hf => ?_,
    fun hk => (h.hold hk).changeExchange he hbuf hdrop hqueued hserved⟩
  by_cases hv : v = t
  · subst hv
    rw [State.exchange_putExchange_self] at hf
    obtain rfl := Option.some.inj hf
    obtain ⟨hall, hon'⟩ := h.tally hk v e he
    exact ⟨htally hk hall, fun hd => by
      rw [hdrop] at hd ⊢
      exact hon hk hd (hon' hd)⟩
  · rw [State.exchange_putExchange_ne _ _ hv] at hf
    exact h.tally hk v f hf

/-! ### Work taken into service -/

/-- SENDING entered: the drop has come to its line state (R15, R17). -/
theorem startSending {q : DropId → Prop} (h : Sound k q x r u) {d : DropId} {src : TxSource} (hq : ∀ e, q e → o e ∨ e = d)
    (hfetch : k = .tally → ∀ t e, u.exchange t = some e → e.drop = d → (u.dropUnit d).serving = some t → e.fetches ≤ 254) :
    Sound k o x r (u.startSending d src) := by
  have hexch : ∀ t, (u.holdReceiver d true).exchange t = u.exchange t := fun t => by simp [State.exchange]
  have hservice : ((u.holdReceiver d true).dropUnit d).service = (u.dropUnit d).service := by
    unfold State.holdReceiver
    split
    · have hunit : ∀ v : State, ((v.dropFrame (.drop d) .hunt).dropUnit d).service = (v.dropUnit d).service := fun v => by
        unfold State.dropFrame
        simp only
        split
        · exact (v.setRx_work _ _ d).2.1
        · exact (v.setRx_work _ _ d).2.1
      rw [hunit]
      simp [State.countBroken, State.mapDropCounters]
    · exact (u.setRx_work _ _ d).2.1
  refine h.holdReceiver.setLine hq (fun hk => ?_) fun hk t e he hd hs => ?_
  · exact ⟨by simp, by simp, fun _ _ _ _ => rfl, by simp, ⟨fun _ => ⟨_, _, _, rfl⟩, fun _ => rfl⟩⟩
  · refine ⟨by simp, fun _ => hfetch hk t e (hexch t ▸ he) hd ?_⟩
    simpa [Drop.serving, hservice] using hs

/-- A fetch candidate taken: its drop is between IDLE and SENDING. -/
theorem fetchTaken (h : Sound k o x r u) {d : DropId} {t : Tag} {e : Exchange} (he : u.exchange t = some e) (hd : e.drop = d)
    (hoff : e.state = .deferred ∨ e.state = .fetchDue) (hnone : k ≠ .work → (u.dropUnit d).service = none) :
    Sound k (fun c => o c ∨ c = d) x r (u.fetchTaken d t e) := by
  have hne : ∀ c, c ≠ d → (u.fetchTaken d t e).dropUnit c = u.dropUnit c := fun c hc => State.dropUnit_mapDrop_ne _ _ hc
  refine ⟨h.work.fetchTaken he hd hoff, fun hk c hc => ?_, fun hk v f hf => ?_,
    fun hk => (h.hold hk).fetchTaken he hd hoff (hnone (by simp [hk]))⟩
  · obtain ⟨ho, hcd⟩ := not_or.1 hc
    rw [hne c hcd]
    exact h.service hk c ho
  · have hf' : (u.putExchange t (some { e with state := .fetching, deadline := none, dueSince := none })).exchange v
        = some f := hf
    by_cases hv : v = t
    · subst hv
      rw [State.exchange_putExchange_self] at hf'
      obtain rfl := Option.some.inj hf'
      obtain ⟨hcounts, -, hlimit⟩ := (h.tally hk v e he).1
      exact ⟨⟨hcounts, fun hs => absurd rfl hs, hlimit⟩, fun hc => absurd (Or.inr hd) hc⟩
    · rw [State.exchange_putExchange_ne _ _ hv] at hf'
      obtain ⟨hall, hon⟩ := h.tally hk v f hf'
      refine ⟨hall, fun hc => ?_⟩
      obtain ⟨ho, hcd⟩ := not_or.1 hc
      rw [hne _ hcd]
      exact hon ho

theorem startFetch (h : Sound k o x r u) {d : DropId} {t : Tag} (ht : u.fetchCandidate d = some t)
    (hnone : k ≠ .work → (u.dropUnit d).service = none) : Sound k o x r (u.startFetch d t) := by
  obtain ⟨e, he, hd, hdue⟩ := State.fetchCandidate_some ht
  rw [State.startFetch_eq he]
  refine (h.fetchTaken he hd (.inr hdue) hnone).startSending (fun _ => id) fun hk v f hf hfd hs => ?_
  have hvt : t = v := by simpa [State.fetchTaken, Drop.serving] using hs
  subst hvt
  have hf' : (u.putExchange t (some { e with state := .fetching, deadline := none, dueSince := none })).exchange t
      = some f := hf
  rw [State.exchange_putExchange_self] at hf'
  obtain rfl := Option.some.inj hf'
  exact ((h.tally hk t e he).1.2.1 (by simp [hdue])).1

/-- What an item taken leaves of the other drops, and of the other records. -/
theorem itemTaken_dropUnit (s : State) (d : DropId) (it : Item) (rest : List Item) (c : DropId) :
    (s.itemTaken d it rest).dropUnit c = (s.mapDrop d (Drop.serve it rest)).dropUnit c := by
  unfold State.itemTaken
  simp only
  split
  · split <;> rfl
  · split <;> rfl

theorem itemTaken_exchange {s : State} {d : DropId} {it : Item} {rest : List Item} {v : Tag} {f : Exchange}
    (hf : (s.itemTaken d it rest).exchange v = some f) :
    ∃ e, s.exchange v = some e ∧ (f = e ∨ it.work = .exchange v ∧ f = { e with state := .sending }) := by
  unfold State.itemTaken at hf
  simp only at hf
  split at hf
  · next t hw =>
    split at hf
    · exact ⟨f, hf, .inl rfl⟩
    · next e he =>
      by_cases hv : v = t
      · subst hv
        have hf' : ((s.mapDrop d (Drop.serve it rest)).putExchange v (some { e with state := .sending })).exchange v
          = some f := hf
        rw [State.exchange_putExchange_self] at hf'
        exact ⟨e, he, .inr ⟨hw, (Option.some.inj hf').symm⟩⟩
      · have hf' : ((s.mapDrop d (Drop.serve it rest)).putExchange t (some { e with state := .sending })).exchange v
          = some f := hf
        rw [State.exchange_putExchange_ne _ _ hv] at hf'
        exact ⟨f, hf', .inl rfl⟩
  · split at hf
    · exact ⟨f, hf, .inl rfl⟩
    · exact ⟨f, hf, .inl rfl⟩

theorem itemTaken (h : Sound k o x r u) {d : DropId} {it : Item} {rest : List Item}
    (hq : (u.dropUnit d).queue = it :: rest) (hnone : k ≠ .work → (u.dropUnit d).service = none) :
    Sound k (fun c => o c ∨ c = d) x r (u.itemTaken d it rest) := by
  have hne : ∀ c, c ≠ d → (u.itemTaken d it rest).dropUnit c = u.dropUnit c := fun c hc => by
    rw [itemTaken_dropUnit]; exact State.dropUnit_mapDrop_ne _ _ hc
  have himage : (u.itemTaken d it rest).image = u.image := by
    unfold State.itemTaken
    simp only
    split
    · split <;> rfl
    · split <;> rfl
  refine ⟨h.work.itemTaken hq, fun hk c hc => ?_, fun hk v f hf => ?_,
    fun hk => (h.hold hk).itemTaken h.work hq (hnone (by simp [hk]))⟩
  · obtain ⟨ho, hcd⟩ := not_or.1 hc
    rw [hne c hcd, himage]
    exact h.service hk c ho
  · obtain ⟨e, he, rfl | ⟨hw, rfl⟩⟩ := itemTaken_exchange hf
    · obtain ⟨hall, hon⟩ := h.tally hk v f he
      refine ⟨hall, fun hc => ?_⟩
      obtain ⟨ho, hcd⟩ := not_or.1 hc
      rw [hne _ hcd]
      exact hon ho
    · obtain ⟨y, hy, hst, hd⟩ := h.work.queued (hq ▸ List.mem_cons_self) hw
      obtain rfl := Option.some.inj (he.symm.trans hy)
      obtain ⟨hcounts, hnot, hlimit⟩ := (h.tally hk v e he).1
      exact ⟨⟨hcounts, fun _ => hnot (by simp [hst]), hlimit⟩, fun hc => absurd (Or.inr hd) hc⟩

theorem startItem (h : Sound k o x r u) {d : DropId} {it : Item} {rest : List Item}
    (hq : (u.dropUnit d).queue = it :: rest) (hnone : k ≠ .work → (u.dropUnit d).service = none) :
    Sound k o x r (u.startItem d it rest) := by
  rw [State.startItem_eq]
  refine (h.itemTaken hq hnone).startSending (fun _ => id) fun hk v f hf hfd hs => ?_
  rw [itemTaken_dropUnit, State.dropUnit_mapDrop_self] at hs
  obtain ⟨jt, hjt, hjw⟩ := Drop.serving_some.1 hs
  obtain rfl : it = jt := Option.some.inj hjt
  obtain ⟨y, hy, hst, -⟩ := h.work.queued (hq ▸ List.mem_cons_self) hjw
  obtain ⟨e, he, hfe⟩ := itemTaken_exchange hf
  obtain rfl := Option.some.inj (he.symm.trans hy)
  have hfetches : f.fetches = e.fetches := by rcases hfe with rfl | ⟨-, rfl⟩ <;> rfl
  rw [hfetches]
  exact ((h.tally hk v e he).1.2.1 (by simp [hst])).1

/-- An IDLE drop's choice (R76, R77). -/
theorem chooseWork (h : Sound k o x r u) {d : DropId} (hd : ¬ o d) : Sound k o x r (u.chooseWork d) := by
  unfold State.chooseWork
  split
  · next hidle =>
    have hnone : k ≠ .work → (u.dropUnit d).service = none := fun hk =>
      (h.service hk d hd).1 (.inr (.inl hidle.1))
    split
    · exact h
    · next ht _ => exact h.startFetch ht hnone
    · next hq => exact h.startItem hq hnone
    · next ht hq =>
      split
      · exact h.startFetch ht hnone
      · exact h.startItem hq hnone
  · exact h

theorem applyRate (h : Sound k o x r u) {d : DropId} : Sound k o x r (u.applyRate d) := by
  unfold State.applyRate
  split
  · exact h
  · split
    · exact h.mapDrop
    · exact h.holdReceiver.mapDrop

/-- IDLE entered by a drop with nothing in service, its transmitter sending nothing (R76). -/
theorem enterIdle {q : DropId → Prop} (h : Sound k q x r u) {d : DropId} (hq : ∀ e, q e → o e ∨ e = d) (hd : ¬ o d)
    (hnone : k ≠ .work → (u.dropUnit d).service = none) (htx : k ≠ .work → ¬ (u.dropUnit d).tx.Sends) :
    Sound k o x r (u.enterIdle d) := by
  refine (h.setLine hq (fun hk => ?_) fun hk t e _ _ hs => ?_).applyRate.chooseWork hd
  · exact ⟨fun _ => hnone hk, by simp, fun it a hit => by simp [hnone hk] at hit, by simp,
      ⟨by simp, fun hs => absurd hs (htx hk)⟩⟩
  · have := hnone (by simp [hk])
    simp [Drop.serving, this] at hs

end Sound
end Sys2Proof.Machine
end

section
/-! PROOFS. The laws of the work through the drop line unit: windows, guard times, matches, faults, disables and the
ends of its frames (R79 to R94, R103 to R114). -/

namespace Sys2Proof.Machine

set_option Elab.async false

/-! ### The record of a window started (R103, R113) -/

/-- What the start of its window makes of a record: the limit read from the entry now. -/
def State.windowed (s : State) (e : Exchange) : Exchange :=
  { e with
    state := if e.state = .fetching then .fetching else .awaiting
    deadline := some (s.now + windowTime (((s.station e.station).map Station.window).getD 0))
    limit := if e.state = .fetching then (s.station e.station).map Station.fetchLimit
      else (s.station e.station).map Station.retryLimit }

theorem State.startWindow_eq (s : State) (d : DropId) (t : Tag) (e : Exchange) : s.startWindow d t e =
    (s.putExchange t (some (s.windowed e))).mapDrop d (fun x => { x with line := .listening, expiryHeld := false }) := by
  obtain ⟨a, b, c, f, st, g, i, j, l, m, n, p, v⟩ := e
  cases st <;> rfl

/-! ### Line states that wait for the line -/

/-- A drop in GUARD, LISTENING or RECEIVING: it has something in service or not, but no notice. -/
theorem Drop.Served.waiting {L : Prop} {x : Drop} (hline : x.line = .guard ∨ x.line = .listening ∨ x.line = .receiving)
    (hnotice : ∀ it a, x.service = some it → it.work ≠ .notice a) (htx : ¬ x.tx.Sends) : x.Served L := by
  have hsending : x.line ≠ .sending := by rcases hline with hl | hl | hl <;> simp [hl]
  refine ⟨fun hl => ?_, fun hl => ?_, fun it a hit ha => absurd ha (hnotice it a hit), fun hl => ?_,
    ⟨fun hl => absurd hl hsending, fun hs => absurd hs htx⟩⟩
  · rcases hline with h | h | h <;> simp [h] at hl
  · rcases hline with h | h | h <;> simp [h] at hl
  · rcases hline with h | h | h <;> simp [h] at hl

/-- A drop with nothing in service and nothing queued, in FAULT or DISABLED. -/
theorem Drop.Served.cleared {L : Prop} {x : Drop} (hservice : x.service = none) (hqueue : x.queue = [])
    (hline : x.line ≠ .sending) (hmode : x.line = .disabled → x.mode = .disabled ∨ L) (htx : ¬ x.tx.Sends) : x.Served L :=
  ⟨fun _ => hservice, fun _ => hqueue, fun it a hit => by simp [hservice] at hit, hmode,
    ⟨fun hl => absurd hl hline, fun hs => absurd hs htx⟩⟩

/-- No notice is in service outside SENDING. -/
theorem Drop.Served.no_notice {L : Prop} {x : Drop} (h : x.Served L) (hline : x.line ≠ .sending) :
    ∀ it a, x.service = some it → it.work ≠ .notice a :=
  fun it a hit ha => hline (h.2.2.1 it a hit ha)

/-- No notice is in service where an exchange is. -/
theorem Drop.serving_no_notice {x : Drop} {t : Tag} (h : x.serving = some t) :
    ∀ it a, x.service = some it → it.work ≠ .notice a := by
  obtain ⟨jt, hjt, hjw⟩ := Drop.serving_some.1 h
  rintro it a hit ha
  obtain rfl : jt = it := Option.some.inj (hjt.symm.trans hit)
  simp [hjw] at ha

theorem Exchange.not_queued (e : Exchange) (h : e.inService = true) : e.state ≠ .queued := fun hq => by
  simp [Exchange.inService, hq] at h

theorem Exchange.TalliedOn.listening {e : Exchange} {x : Drop} {t : Tag} (h : x.line = .listening ∨ x.line = .receiving) :
    e.TalliedOn x t := fun _ => by rcases h with h | h <;> simp [h]

theorem Exchange.TalliedOn.unserved {e : Exchange} {x : Drop} {t : Tag} (h : x.service = none) : e.TalliedOn x t :=
  fun hs => by simp [Drop.serving, h] at hs

/-- What leaves the drops alone but for their work. -/
theorem State.closeExchange_line (s : State) (t : Tag) (c : ClosureReason) (d : DropId) :
    ((s.closeExchange t c).dropUnit d).line = (s.dropUnit d).line :=
  State.closeExchange_at Drop.line (fun t e x => (Drop.without_keeps t e x).2.1) s t c d

theorem State.closeExchange_tx (s : State) (t : Tag) (c : ClosureReason) (d : DropId) :
    ((s.closeExchange t c).dropUnit d).tx = (s.dropUnit d).tx :=
  State.closeExchange_at Drop.tx (fun t e x => (Drop.without_keeps t e x).2.2.2.2.2.2.1) s t c d

theorem State.closeByAnswer_work {s : State} {t : Tag} {e : Exchange} (he : s.exchange t = some e) (b : BufId) :
    (s.closeByAnswer t b).drops = (s.mapDrop e.drop (Drop.without t e)).drops
      ∧ (s.closeByAnswer t b).image = s.image := by
  rw [State.closeByAnswer_eq he]
  refine ⟨?_, ?_⟩
  · simp [(State.releaseAll_keeps _ _).2.1]; rfl
  · simp [(State.releaseAll_keeps _ _).2.2]; rfl

/-- The exchange a reply is matched against (R84). -/
theorem State.awaited_some {s : State} {d : DropId} {t : Tag} {e : Exchange} {st : Station}
    (h : s.awaited d = some (t, e, st)) : (s.dropUnit d).line = .receiving ∧ (s.dropUnit d).serving = some t
      ∧ s.exchange t = some e ∧ s.station e.station = some st := by
  unfold State.awaited at h
  split at h
  · next hline =>
    simp only [Option.bind_eq_bind, Option.bind_eq_some_iff, Option.pure_def, Option.some.injEq, Prod.mk.injEq] at h
    obtain ⟨v, hv, f, hf, z, hz, rfl, rfl, rfl⟩ := h
    exact ⟨hline, hv, hf, hz⟩
  · cases h

namespace Sound

variable {k : Scope} {o q : DropId → Prop} {x : List BufId} {r : Nat} {s u : State} {d : DropId}

/-- A drop between two line states, changed outside its work and its receiver. -/
theorem mapExempt (h : Sound k o x r u) (hd : o d) {f : Drop → Drop}
    (hqueue : (f (u.dropUnit d)).queue = (u.dropUnit d).queue := by rfl)
    (hservice : (f (u.dropUnit d)).service = (u.dropUnit d).service := by rfl)
    (hrx : (f (u.dropUnit d)).rx = (u.dropUnit d).rx := by rfl) : Sound k o x r (u.mapDrop d f) := by
  have hserving : (f (u.dropUnit d)).serving = (u.dropUnit d).serving := by simp only [Drop.serving, hservice]
  have hne : ∀ c, ¬ o c → (u.mapDrop d f).dropUnit c = u.dropUnit c := fun c hc =>
    State.dropUnit_mapDrop_ne u f fun hcd => hc (hcd ▸ hd)
  refine ⟨h.work.mapDrop (by rw [hqueue]) (fun t ht => by rwa [hserving] at ht), fun hk c hc => ?_,
    fun hk t e he => ⟨(h.tally hk t e he).1, fun hc => ?_⟩, fun hk => (h.hold hk).mapDrop hrx hqueue hservice⟩
  · rw [hne c hc]; exact h.service hk c hc
  · rw [hne _ hc]; exact (h.tally hk t e he).2 hc

/-! ### The end of a guard time (R82, R89, R109) -/

theorem retry (h : Sound k o x r u) {t : Tag} {e : Exchange} (he : u.exchange t = some e)
    (hs : (u.dropUnit d).serving = some t) (hguard : k = .tally → e.attempts ≤ 3 ∧ e.state ≠ .fetching) :
    Sound k o x r (u.retry d t e) := by
  obtain ⟨y, hy, hin, hd⟩ := h.work.serving hs
  obtain rfl := Option.some.inj (he.symm.trans hy)
  have hchanged : Sound k (fun c => o c ∨ c = d) x r
      (u.putExchange t (some { e with state := .sending, attempts := e.attempts + 1, deadline := none })) := by
    refine (h.weaken fun _ => .inl).changeExchange he ?_ ?_ ?_ ?_
    · simp [e.not_queued hin]
    · rw [hin]; rfl
    · rintro hk ⟨⟨-, -, hfetches⟩, hnot, hlimit⟩
      obtain ⟨hattempts, hstate⟩ := hguard hk
      exact ⟨⟨Nat.le_add_left _ _, Nat.succ_le_succ hattempts, hfetches⟩, fun _ => hnot hstate, hlimit⟩
    · exact fun _ hc => absurd (Or.inr hd) hc
  refine hchanged.startSending (fun _ => id) fun hk v f hf _ hv => ?_
  obtain rfl : t = v := Option.some.inj (hs.symm.trans hv)
  rw [State.exchange_putExchange_self] at hf
  obtain rfl := Option.some.inj hf
  exact ((h.tally hk t e he).1.2.1 (hguard hk).2).1

/-- The exchange in service closed: its drop has nothing in service. -/
theorem closeServing (h : Sound k q x r u) (hq : ∀ c, q c → o c ∨ c = d) {t : Tag} {c : ClosureReason}
    (hs : (u.dropUnit d).serving = some t) (hserved : k ≠ .work → (u.dropUnit d).Served (u.image.config = .loading)) :
    Sound k o x r (u.closeExchange t c) := by
  obtain ⟨e, he, hin, hd⟩ := h.work.serving hs
  have hunit : (u.closeExchange t c).dropUnit d = (u.dropUnit d).without t e := by
    rw [State.closeExchange_dropUnit he, hd, State.dropUnit_mapDrop_self]
  refine h.closeExchange.settle d hq (fun hk => ?_) fun _ _ _ _ _ => ?_
  · rw [hunit]
    simpa using (hserved hk).without t e
  · refine .unserved ?_
    rw [← hd]; exact State.closeExchange_service he hin c

/-- The exchange in service put off: its drop has nothing in service (R110). -/
theorem deferServing (h : Sound k q x r u) (hq : ∀ c, q c → o c ∨ c = d) {t : Tag} {e : Exchange}
    (he : u.exchange t = some e) (hs : (u.dropUnit d).serving = some t)
    (hserved : k ≠ .work → (u.dropUnit d).Served (u.image.config = .loading)) (hfetch : k = .tally → e.fetches ≤ 254) :
    Sound k o x r (u.deferExchange t) := by
  obtain ⟨y, hy, hin, hd⟩ := h.work.serving hs
  obtain rfl := Option.some.inj (he.symm.trans hy)
  have hunit : (u.deferExchange t).dropUnit d = { u.dropUnit d with service := none, expiryHeld := false } := by
    simp only [State.deferExchange, he]
    rw [State.leaveService_dropUnit, hd, State.dropUnit_mapDrop_self]
    rfl
  refine (h.deferExchange he hin hfetch).settle d hq (fun hk => ?_) fun _ _ _ _ _ => .unserved (by rw [hunit])
  rw [hunit]
  obtain ⟨-, h2, -, h4, h5⟩ := hserved hk
  exact ⟨fun _ => rfl, h2, nofun, by simpa using h4, h5⟩

/-- The guard time of a drop in GUARD ends (R89). -/
theorem endGuard (h : Sound k o x r u) (hd : ¬ o d) (hline : (u.dropUnit d).line = .guard) :
    Sound k o x r (u.endGuard d) := by
  have hno : ¬ (u.dropUnit d).line = .sending := by simp [hline]
  unfold State.endGuard
  split
  · next hs =>
    exact h.enterIdle (fun _ => .inl) hd (fun hk => (h.service hk d hd).service_none hno hs)
      fun hk => (h.service hk d hd).not_sends hno
  · next t hs =>
    obtain ⟨e, he, hin, hed⟩ := h.work.serving hs
    simp only [he]
    split
    · refine h.closeExchange.enterIdle (fun _ => .inl) hd (fun _ => ?_) fun hk => ?_
      · rw [← hed]; exact State.closeExchange_service he hin _
      · rw [State.closeExchange_tx]; exact (h.service hk d hd).not_sends hno
    · refine h.retry he hs fun hk => ?_
      obtain ⟨-, hon⟩ := h.tally hk t e he
      rw [hed] at hon
      exact (hon hd hs).1 hline

theorem settleGuard (h : Sound k o x r u) (hd : ¬ o d) : Sound k o x r (u.settleGuard d) := by
  unfold State.settleGuard
  split
  · next hc => exact h.endGuard hd hc.1
  · exact h

/-! ### The window (R79, R87, R103, R107, R113, R114) -/

theorem startWindow (h : Sound k q x r u) (hq : ∀ c, q c → o c ∨ c = d) {t : Tag} {e : Exchange}
    (he : u.exchange t = some e) (hs : (u.dropUnit d).serving = some t) (htx : k ≠ .work → ¬ (u.dropUnit d).tx.Sends)
    (hlimits : k = .tally → RangeLaw u) : Sound k o x r (u.startWindow d t e) := by
  obtain ⟨y, hy, hin, hd⟩ := h.work.serving hs
  obtain rfl := Option.some.inj (he.symm.trans hy)
  have hlimit : ∀ f : Station → Nat, ∀ n, k = .tally → (∀ st ∈ u.stations, f st ≤ n) →
      (((u.station e.station).map f).getD 0) ≤ n := fun f n _ hf => by
    cases hst : u.station e.station with
    | none => exact Nat.zero_le _
    | some st => exact hf st (List.mem_of_find?_eq_some hst)
  have hentry : k = .tally → ∀ st ∈ u.stations, st.retryLimit ≤ 3 ∧ st.fetchLimit ≤ 255 := fun hk st hst => by
    obtain ⟨-, -, -, hstations⟩ := hlimits hk
    obtain ⟨-, -, hretry, -, -, -, hfetch, -⟩ := hstations st hst
    exact ⟨hretry, hfetch⟩
  have hput : Sound k (fun c => o c ∨ c = d) x r (u.putExchange t (some (u.windowed e))) := by
    refine (h.weaken (q := fun c => o c ∨ c = d) hq).changeExchange he ?_ ?_ (fun hk ⟨hcounts, hnot, _⟩ => ?_)
      fun _ hc => absurd (Or.inr hd) hc
    · simp only [State.windowed, e.not_queued hin, iff_false]
      split <;> simp
    · rw [hin]
      unfold Exchange.inService State.windowed
      split <;> rfl
    · by_cases hf : e.state = .fetching
      · simp only [Exchange.Tallied, State.windowed, hf, if_true]
        exact ⟨hcounts, fun hn => absurd rfl hn, hlimit _ _ hk fun st hm => (hentry hk st hm).2⟩
      · simp only [Exchange.Tallied, State.windowed, hf, if_false]
        have hretry := hlimit _ _ hk fun st hm => (hentry hk st hm).1
        exact ⟨hcounts, fun _ => ⟨(hnot hf).1, hretry⟩, hretry.trans (by decide)⟩
  rw [State.startWindow_eq]
  refine hput.setLine (fun _ => id) (fun hk => ?_) fun _ _ _ _ _ => .listening (.inl rfl)
  exact .waiting (.inr (.inl rfl)) (Drop.serving_no_notice hs) (htx hk)

/-- What the expiry of its window makes of the exchange in service (R107, R114). -/
theorem expireExchange (h : Sound k q x r u) (hq : ∀ c, q c → o c ∨ c = d) {t : Tag}
    (hs : (u.dropUnit d).serving = some t) (hserved : k ≠ .work → (u.dropUnit d).Served (u.image.config = .loading))
    (hline : (u.dropUnit d).line ≠ .sending) : Sound k o x r (u.expireExchange t) := by
  obtain ⟨e, he, hin, hd⟩ := h.work.serving hs
  simp only [State.expireExchange, he]
  split
  · exact h.closeServing hq hs hserved
  · split
    · next hfetching =>
      split
      · exact h.closeServing hq hs hserved
      · next hbelow =>
        refine h.deferServing hq he hs hserved fun hk => ?_
        have := (h.tally hk t e he).1.2.2
        omega
    · next hstate =>
      split
      · next hretry =>
        have hchanged : Sound k (fun c => o c ∨ c = d) x r
            (u.putExchange t (some { e with deadline := none, limit := none })) :=
          (h.weaken (q := fun c => o c ∨ c = d) hq).changeExchange he Iff.rfl rfl
            (fun _ ⟨hcounts, hnot, _⟩ => ⟨hcounts, fun hn => ⟨(hnot hn).1, Nat.zero_le _⟩, Nat.zero_le _⟩)
            fun _ hc => absurd (Or.inr hd) hc
        refine hchanged.settle d (fun _ => id) hserved fun hk v f hf _ hv => ?_
        obtain rfl : t = v := Option.some.inj (hs.symm.trans hv)
        rw [State.exchange_putExchange_self] at hf
        obtain rfl := Option.some.inj hf
        have hlimit := ((h.tally hk t e he).1.2.1 hstate).2
        exact ⟨fun _ => ⟨hretry.trans hlimit, hstate⟩, fun hl => absurd hl hline⟩
      · exact h.closeServing hq hs hserved

theorem takeExpiry (h : Sound k o x r u) (hd : ¬ o d)
    (hline : (u.dropUnit d).line = .listening ∨ (u.dropUnit d).line = .receiving) : Sound k o x r (u.takeExpiry d) := by
  have hsending : (u.dropUnit d).line ≠ .sending := by rcases hline with hl | hl <;> simp [hl]
  have hunit : (u.expiryCounted d).dropUnit d = { u.dropUnit d with
      line := .guard, expiryHeld := false
      counters := { (u.dropUnit d).counters with timeouts := bump (u.dropUnit d).counters.timeouts } } := by
    simp [State.expiryCounted, State.mapDropCounters]
  have hcounted : Sound k (fun c => o c ∨ c = d) x r (u.expiryCounted d) :=
    (h.weaken fun _ => .inl).mapDropCounters.mapExempt (.inr rfl)
  have hserved : k ≠ .work → ((u.expiryCounted d).dropUnit d).Served ((u.expiryCounted d).image.config = .loading) :=
    fun hk => by
      rw [hunit]
      exact .waiting (.inl rfl) ((h.service hk d hd).no_notice hsending) ((h.service hk d hd).not_sends hsending)
  rw [State.takeExpiry_eq]
  refine (settleGuard ?_ hd).arbitrate
  unfold State.serviceExpired
  split
  · next t hs => exact hcounted.expireExchange (fun _ => id) hs hserved (by rw [hunit]; simp)
  · next hs =>
    exact hcounted.settle d (fun _ => id) hserved fun _ t _ _ _ hv => by rw [hs] at hv; cases hv

theorem afterFrame (h : Sound k o x r u) (hd : ¬ o d) : Sound k o x r (u.afterFrame d) := by
  unfold State.afterFrame
  split
  · next hline =>
    split
    · exact h.takeExpiry hd (.inr hline)
    · refine h.setLine (fun _ => .inl) (fun hk => ?_) fun _ _ _ _ _ => .listening (.inl rfl)
      have hno : (u.dropUnit d).line ≠ .sending := by simp [hline]
      exact .waiting (.inr (.inl rfl)) ((h.service hk d hd).no_notice hno) ((h.service hk d hd).not_sends hno)
  · exact h

/-! ### Matching (R84 to R86, R106) -/

/-- The last hold of a buffer given up, the reserve made whole by it (R25). -/
theorem releaseLast (h : Sound k o (b :: x) (r + 1) u) (hlast : k = .hold → u.places.count b = 0 ∧ x.count b = 0) :
    Sound k o x r (u.release b) :=
  h.ofHeldSame fun hk => (h.hold hk).releaseLast (hlast hk).1 (hlast hk).2

theorem deferDecided (h : Sound k q x r u) (hq : ∀ c, q c → o c ∨ c = d) {t : Tag}
    (hs : (u.dropUnit d).serving = some t) (hserved : k ≠ .work → (u.dropUnit d).Served (u.image.config = .loading)) :
    Sound k o x r (u.deferDecided t) := by
  obtain ⟨e, he, hin, hd⟩ := h.work.serving hs
  simp only [State.deferDecided, he]
  split
  · exact h.closeServing hq hs hserved
  · split
    · exact h.closeServing hq hs hserved
    · next hbelow =>
      refine h.deferServing hq he hs hserved fun hk => ?_
      obtain ⟨-, hnot, hlimit⟩ := (h.tally hk t e he).1
      by_cases hf : e.state = .fetching
      · have : ¬ e.limit.getD 0 ≤ e.fetches := fun hle => hbelow ⟨hf, hle⟩
        omega
      · exact (hnot hf).1

/-- Closure by answer of the exchange in service: its drop has nothing in service (R121). -/
theorem answerServing {b : BufId} (h : Sound k q (b :: x) (r + 1) u) (hq : ∀ c, q c → o c ∨ c = d) {t : Tag}
    (hs : (u.dropUnit d).serving = some t) (hserved : k ≠ .work → (u.dropUnit d).Served (u.image.config = .loading)) :
    Sound k o x r (u.closeByAnswer t b) := by
  obtain ⟨e, he, hin, hd⟩ := h.work.serving hs
  obtain ⟨hdrops, himage⟩ := State.closeByAnswer_work he b
  have hunit : (u.closeByAnswer t b).dropUnit d = (u.dropUnit d).without t e := by
    simp only [State.dropUnit, hdrops, hd]
    exact State.dropUnit_mapDrop_self u d _
  refine (h.closeByAnswer he hin).settle d hq (fun hk => ?_) fun _ _ _ _ _ => .unserved ?_
  · rw [hunit, himage]; exact (hserved hk).without t e
  · rw [hunit, Drop.without_inService t hin]

/-- A stray dropped (R86). -/
theorem stray {b : BufId} (h : Sound k o (b :: x) (r + 1) u) (hd : ¬ o d)
    (hlast : k = .hold → u.places.count b = 0 ∧ x.count b = 0) : Sound k o x r (u.stray d b) :=
  ((h.releaseLast hlast).mapDropCounters (d := d) (f := fun c => { c with strays := bump c.strays })).afterFrame hd

/-- A match taken (R85). -/
theorem takeMatch {b : BufId} (h : Sound k o (b :: x) (r + 1) u) (hd : ¬ o d) {t : Tag} {e : Exchange}
    (hline : (u.dropUnit d).line = .receiving) (hs : (u.dropUnit d).serving = some t)
    (hlast : k = .hold → u.places.count b = 0 ∧ x.count b = 0) : Sound k o x r (u.takeMatch d t e b) := by
  have hunit : ∀ v : State, (v.replyHeard d e).dropUnit d = { v.dropUnit d with line := .guard, expiryHeld := false } :=
    fun v => State.dropUnit_mapDrop_self _ _ _
  have hserved : k ≠ .work → ((u.replyHeard d e).dropUnit d).Served (u.image.config = .loading) := fun hk => by
    rw [hunit]
    exact .waiting (.inl rfl) (Drop.serving_no_notice hs) ((h.service hk d hd).not_sends (by simp [hline]))
  have hserving : ((u.replyHeard d e).dropUnit d).serving = some t := by rw [hunit]; exact hs
  have hheard : ∀ {y : List BufId} {n : Nat} {v : State}, Sound k o y n v →
      Sound k (fun c => o c ∨ c = d) y n (v.replyHeard d e) := fun hv =>
    ((hv.weaken fun _ => .inl).mapStation).mapExempt (.inr rfl)
  rw [State.takeMatch_eq]
  split
  · refine (hheard h).mapDropCounters.answerServing (d := d) (fun _ => id) ?_ fun hk => ?_
    · simpa [State.mapDropCounters, Drop.serving] using hserving
    · refine (hserved hk).congr ?_ ?_ ?_ ?_ ?_ id <;> simp [State.mapDropCounters]
  · have hreleased : Sound k (fun c => o c ∨ c = d) x r ((u.replyHeard d e).release b) := hheard (h.releaseLast hlast)
    exact hreleased.deferDecided (d := d) (fun _ => id) hserving hserved

theorem matchFrame {b : BufId} (h : Sound k o (b :: x) (r + 1) u) (hd : ¬ o d)
    (hlast : k = .hold → u.places.count b = 0 ∧ x.count b = 0) : Sound k o x r (u.matchFrame d b) := by
  unfold State.matchFrame
  split
  · exact h.stray hd hlast
  · next ha =>
    split
    · obtain ⟨hline, hs, -, -⟩ := State.awaited_some ha
      exact (h.takeMatch hd hline hs hlast).arbitrate
    · exact h.stray hd hlast

end Sound
end Sys2Proof.Machine
end

section
/-! PROOFS. The laws of the work where a drop's work closes together (R90, R91, R93), and at the ends of its frames. -/

namespace Sys2Proof.Machine

set_option Elab.async false

/-! ### The queue emptied item by item -/

/-- A drop's queue replaced. -/
def Drop.withQueue (l : List Item) (x : Drop) : Drop := { x with queue := l }

theorem State.mapDrop_comm (s : State) (d c : DropId) {f g : Drop → Drop} (hfg : ∀ x, f (g x) = g (f x)) :
    (s.mapDrop d f).mapDrop c g = (s.mapDrop c g).mapDrop d f := by
  by_cases hcd : c = d
  · subst hcd; simp [State.mapDrop, hfg]
  · have hval : c.val ≠ d.val := fun h => hcd (Fin.ext h)
    simp only [State.mapDrop, Fin.getElem_fin]
    congr 1
    rw [Vector.getElem_set_ne _ _ hval.symm, Vector.getElem_set_ne _ _ hval, Vector.set_comm _ _ hval.symm]

theorem State.mapDrop_releaseAll (s : State) (d : DropId) (f : Drop → Drop) (l : List BufId) :
    (s.releaseAll l).mapDrop d f = (s.mapDrop d f).releaseAll l := by
  unfold State.releaseAll
  induction l generalizing s with
  | nil => rfl
  | cons b l ih => exact ih (s.release b)

theorem State.mapDrop_queueUp (s : State) (d : DropId) (f : Drop → Drop) (c : Class) (b : BufId) :
    (s.queueUp c b).mapDrop d f = (s.mapDrop d f).queueUp c b := by cases c <;> rfl

theorem Drop.withQueue_without (t : Tag) (e : Exchange) (x : Drop) :
    Drop.withQueue [] (x.without t e) = (Drop.withQueue [] x).without t e := by
  unfold Drop.without
  split <;> rfl

/-- Closing an exchange does not care whether a queue is emptied before or after. -/
theorem State.closeExchange_emptied (s : State) (t : Tag) (r : ClosureReason) (d : DropId) :
    (s.closeExchange t r).mapDrop d (Drop.withQueue []) = (s.mapDrop d (Drop.withQueue [])).closeExchange t r := by
  cases he : s.exchange t with
  | none =>
    have he' : (s.mapDrop d (Drop.withQueue [])).exchange t = none := he
    simp [State.closeExchange, he, he']
  | some e =>
    have he' : (s.mapDrop d (Drop.withQueue [])).exchange t = some e := he
    have hunlink : ∀ v : State, (v.unlink t e).mapDrop d (Drop.withQueue [])
        = (v.mapDrop d (Drop.withQueue [])).unlink t e := fun v => by
      simp only [State.unlink, State.mapDrop_putExchange]
      rw [State.mapDrop_comm v e.drop d fun x => (Drop.withQueue_without t e x).symm]
    have hstation : ∀ (v : State) (a : Byte) (f : Station → Station), (v.mapStation a f).mapDrop d (Drop.withQueue [])
        = (v.mapDrop d (Drop.withQueue [])).mapStation a f := fun _ _ _ => rfl
    have hrelease : ∀ (v : State) (b : BufId), (v.release b).mapDrop d (Drop.withQueue [])
        = (v.mapDrop d (Drop.withQueue [])).release b := fun _ _ => rfl
    have hhold : ∀ (v : State) (b : BufId), (v.hold b).mapDrop d (Drop.withQueue [])
        = (v.mapDrop d (Drop.withQueue [])).hold b := fun _ _ => rfl
    have hwrite : ∀ (v : State) (b : BufId) (c : List Byte), (v.write b c).mapDrop d (Drop.withQueue [])
        = (v.mapDrop d (Drop.withQueue [])).write b c := fun _ _ _ => rfl
    rw [State.closeExchange_eq he, State.closeExchange_eq he', hstation, State.mapDrop_releaseAll, hrelease,
      State.mapDrop_queueUp, hhold, hunlink, hwrite]
    rfl

theorem State.clearItem_emptied (s : State) (r : ClosureReason) (it : Item) (d : DropId) :
    (s.clearItem r it).mapDrop d (Drop.withQueue []) = (s.mapDrop d (Drop.withQueue [])).clearItem r it := by
  unfold State.clearItem
  split
  · exact s.closeExchange_emptied _ r d
  · rfl

theorem State.clearItems_emptied (s : State) (r : ClosureReason) (l : List Item) (d : DropId) :
    (l.foldl (State.clearItem r) s).mapDrop d (Drop.withQueue [])
      = l.foldl (State.clearItem r) (s.mapDrop d (Drop.withQueue [])) := by
  induction l generalizing s with
  | nil => rfl
  | cons it l ih => rw [List.foldl_cons, List.foldl_cons, ih, s.clearItem_emptied]

/-- One queue item ended and taken from the head of its queue. -/
def State.clearHead (s : State) (d : DropId) (r : ClosureReason) (it : Item) (rest : List Item) : State :=
  (s.clearItem r it).mapDrop d (Drop.withQueue rest)

/-- The items of a queue ended with the queue emptied at the end: as with each item taken out as it ends. -/
theorem State.clearItems_cons (s : State) (d : DropId) (r : ClosureReason) (it : Item) (rest : List Item) :
    ((it :: rest).foldl (State.clearItem r) s).mapDrop d (Drop.withQueue [])
      = (rest.foldl (State.clearItem r) (s.clearHead d r it rest)).mapDrop d (Drop.withQueue []) := by
  rw [State.clearItems_emptied, State.clearItems_emptied, List.foldl_cons, ← State.clearItem_emptied, State.clearHead,
    State.mapDrop_mapDrop]
  rfl

/-! ### What the closing of a drop's work leaves -/

theorem Drop.without_queue_nil {x : Drop} (h : x.queue = []) (t : Tag) (e : Exchange) : (x.without t e).queue = [] :=
  List.sublist_nil.1 (h ▸ Drop.without_sublist t e x)

theorem Drop.without_service_none {x : Drop} (h : x.service = none) (t : Tag) (e : Exchange) :
    (x.without t e).service = none := by
  obtain ⟨hsame, -⟩ | ⟨hnone, -⟩ := Drop.without_service t e x
  · rw [hsame, h]
  · exact hnone

/-- What a closure does to a drop: nothing, or its item taken away. -/
theorem State.closeExchange_unit (s : State) (t : Tag) (c : ClosureReason) (d : DropId) :
    (s.closeExchange t c).dropUnit d = s.dropUnit d ∨ ∃ e, (s.closeExchange t c).dropUnit d = (s.dropUnit d).without t e := by
  cases he : s.exchange t with
  | none => simp [State.closeExchange, he]
  | some e =>
    rw [State.closeExchange_dropUnit he]
    by_cases hd : d = e.drop
    · subst hd; exact .inr ⟨e, State.dropUnit_mapDrop_self ..⟩
    · exact .inl (State.dropUnit_mapDrop_ne s _ hd)

theorem State.closeExchange_service_none {s : State} {d : DropId} (h : (s.dropUnit d).service = none) (t : Tag)
    (c : ClosureReason) : ((s.closeExchange t c).dropUnit d).service = none := by
  obtain hu | ⟨e, hu⟩ := s.closeExchange_unit t c d
  · rw [hu, h]
  · rw [hu]; exact Drop.without_service_none h t e

theorem State.closeExchange_queue_nil {s : State} {d : DropId} (h : (s.dropUnit d).queue = []) (t : Tag)
    (c : ClosureReason) : ((s.closeExchange t c).dropUnit d).queue = [] := by
  obtain hu | ⟨e, hu⟩ := s.closeExchange_unit t c d
  · rw [hu, h]
  · rw [hu]; exact Drop.without_queue_nil h t e

theorem State.clearItem_service_none {s : State} {d : DropId} (h : (s.dropUnit d).service = none) (r : ClosureReason)
    (it : Item) : ((s.clearItem r it).dropUnit d).service = none := by
  unfold State.clearItem
  split
  · exact State.closeExchange_service_none h _ r
  · exact h

/-- A drop whose work has been closed has nothing in service and nothing queued. -/
theorem State.closeWork_empty {s : State} (hw : WorkLaw s) {d : DropId}
    (hnotice : ∀ it a, (s.dropUnit d).service = some it → it.work ≠ .notice a) (first rest : ClosureReason) :
    ((s.closeWork d first rest).dropUnit d).service = none ∧ ((s.closeWork d first rest).dropUnit d).queue = [] := by
  have hclosed : ((s.serviceClosed d first).dropUnit d).service = none := by
    unfold State.serviceClosed
    split
    · next t hs =>
      obtain ⟨e, he, hin, hd⟩ := hw.serving hs
      rw [← hd]; exact State.closeExchange_service he hin first
    · next hs =>
      cases hservice : (s.dropUnit d).service with
      | none => rfl
      | some it =>
        cases hwork : it.work with
        | notice a => exact absurd hwork (hnotice it a hservice)
        | exchange t => simp [Drop.serving_some.2 ⟨it, hservice, hwork⟩] at hs
  have hitems : ∀ (l : List Item) (u : State), (u.dropUnit d).service = none →
      ((l.foldl (State.clearItem rest) u).dropUnit d).service = none := fun l => by
    induction l with
    | nil => exact fun _ h => h
    | cons it l ih => exact fun u h => ih _ (State.clearItem_service_none h rest it)
  have htags : ∀ (l : List Tag) (u : State), (u.dropUnit d).service = none ∧ (u.dropUnit d).queue = [] →
      ((l.foldl (fun s t => s.closeExchange t rest) u).dropUnit d).service = none
        ∧ ((l.foldl (fun s t => s.closeExchange t rest) u).dropUnit d).queue = [] := fun l => by
    induction l with
    | nil => exact fun _ h => h
    | cons t l ih =>
      exact fun u h => ih _ ⟨State.closeExchange_service_none h.1 t rest, State.closeExchange_queue_nil h.2 t rest⟩
  rw [State.closeWork_eq]
  refine htags _ _ ?_
  unfold State.queueCleared
  rw [State.dropUnit_mapDrop_self]
  exact ⟨hitems _ _ hclosed, rfl⟩

/-- What the closing of a drop's work leaves of every drop outside its work. -/
theorem State.closeWork_at {α : Type} (F : Drop → α) (hF : ∀ (t : Tag) (e : Exchange) (x : Drop), F (x.without t e) = F x)
    (hqueue : ∀ x : Drop, F { x with queue := [] } = F x) (s : State) (d : DropId) (first rest : ClosureReason) (c : DropId) :
    F ((s.closeWork d first rest).dropUnit c) = F (s.dropUnit c) := by
  have hitems : ∀ (l : List Item) (u : State), F ((l.foldl (State.clearItem rest) u).dropUnit c) = F (u.dropUnit c) :=
    fun l => by
      induction l with
      | nil => exact fun _ => rfl
      | cons it l ih =>
        intro u
        refine (ih _).trans ?_
        unfold State.clearItem
        split
        · exact State.closeExchange_at F hF u _ rest c
        · rfl
  have htags : ∀ (l : List Tag) (u : State),
      F ((l.foldl (fun s t => s.closeExchange t rest) u).dropUnit c) = F (u.dropUnit c) := fun l => by
    induction l with
    | nil => exact fun _ => rfl
    | cons t l ih => exact fun u => (ih _).trans (State.closeExchange_at F hF u t rest c)
  rw [State.closeWork_eq, htags]
  unfold State.queueCleared
  rw [State.mapDrop_at F (hqueue _), hitems]
  unfold State.serviceClosed
  split
  · exact State.closeExchange_at F hF s _ first c
  · rfl

/-- What the hold of a receiver leaves of every drop outside its receiver and its counters. -/
theorem State.holdReceiver_at {α : Type} (F : Drop → α) (hrx : ∀ (x : Drop) (v : Receiver), F { x with rx := v } = F x)
    (hcounters : ∀ (x : Drop) (c : DropCounters), F { x with counters := c } = F x) (s : State) (d : DropId)
    (counted : Bool) (c : DropId) : F ((s.holdReceiver d counted).dropUnit c) = F (s.dropUnit c) := by
  have hdrop : ∀ u : State, F ((u.dropFrame (.drop d) .hunt).dropUnit c) = F (u.dropUnit c) := fun u => by
    unfold State.dropFrame
    simp only
    split <;> exact State.mapDrop_at F (f := fun x => { x with rx := _ }) (hrx _ _) c
  unfold State.holdReceiver
  split
  · rw [hdrop]
    split
    · exact State.mapDrop_at F (f := fun x => { x with counters := _ }) (hcounters _ _) c
    · rfl
  · exact State.mapDrop_at F (f := fun x => { x with rx := _ }) (hrx _ _) c

theorem State.putExchange_exchange (s : State) (t : Tag) : s.putExchange t (s.exchange t) = s := by
  simp [State.putExchange, State.exchange]

namespace Sound

variable {k : Scope} {o q : DropId → Prop} {x : List BufId} {r : Nat} {s u : State} {d : DropId}

/-- Queues changed, in FAULT and DISABLED not from empty. -/
theorem ofQueues (h : Sound k o x r s) {y : List BufId} {n : Nat} {t : State} (hwork : WorkLaw t)
    (hexch : ∀ v, t.exchange v = s.exchange v) (hline : ∀ d, (t.dropUnit d).line = (s.dropUnit d).line)
    (hmode : ∀ d, (t.dropUnit d).mode = (s.dropUnit d).mode) (htx : ∀ d, (t.dropUnit d).tx = (s.dropUnit d).tx)
    (hservice : ∀ d, (t.dropUnit d).service = (s.dropUnit d).service)
    (hqueue : k ≠ .work → ∀ d, ¬ o d → ((s.dropUnit d).line = .disabled ∨ (s.dropUnit d).line = .fault) →
      (s.dropUnit d).queue = [] → (t.dropUnit d).queue = [])
    (himage : s.image.config = .loading → t.image.config = .loading) (hheld : k = .hold → Held y n t) :
    Sound k o y n t := by
  have hserving : ∀ d, (t.dropUnit d).serving = (s.dropUnit d).serving := fun d => by simp only [Drop.serving, hservice]
  refine ⟨hwork, fun hk d hd => ?_, fun hk v e he => ?_, hheld⟩
  · obtain ⟨h1, h2, h3, h4, h5⟩ := h.service hk d hd
    simp only [Drop.Served, hline, hmode, htx, hservice]
    exact ⟨h1, fun hl => hqueue hk d hd hl (h2 hl), h3, fun hl => (h4 hl).imp id himage, h5⟩
  · rw [hexch] at he
    obtain ⟨hall, hon⟩ := h.tally hk v e he
    exact ⟨hall, fun hd => (hon hd).congr (hline _) fun hs => by rwa [hserving] at hs⟩

/-- The head of a queue ended and taken out. -/
theorem clearHead (h : Sound k o x r u) {it : Item} {rest : List Item} {c : ClosureReason}
    (hq : (u.dropUnit d).queue = it :: rest) : Sound k o x r (u.clearHead d c it rest) := by
  unfold State.clearHead State.clearItem
  split
  · next t hw =>
    obtain ⟨e, he, hst, hd⟩ := h.work.queued (hq ▸ List.mem_cons_self) hw
    refine h.closeExchange.mapDrop (hqueue := ?_)
    rw [State.closeExchange_dropUnit he, hd, State.dropUnit_mapDrop_self, Drop.without_queued t hst]
    have hdistinct := h.work.distinct d
    rw [hq] at hdistinct
    have hkeep : rest.filter (fun jt => jt.work ≠ .exchange t) = rest := List.filter_eq_self.2 fun jt hjt => by
      simpa using (List.pairwise_cons.1 hdistinct).1 jt hjt t hw
    simp only [Drop.withQueue, hq, List.filter_cons, hw]
    simpa using hkeep.symm
  · next a hw =>
    have hsub : rest.Sublist (u.dropUnit d).queue := hq ▸ List.sublist_cons_self it rest
    have hwork : WorkLaw (u.release it.buffer) := h.work.congr (fun _ => rfl) (fun _ => rfl) fun _ => rfl
    refine h.ofQueues (hwork.mapDrop (hqueue := hsub)) (fun _ => rfl) (State.mapDrop_at Drop.line rfl)
      (State.mapDrop_at Drop.mode rfl) (State.mapDrop_at Drop.tx rfl) (State.mapDrop_at Drop.service rfl)
      (fun _ c _ _ hnil => ?_) id fun hk => (h.hold hk).popNotice hq hw
    by_cases hcd : c = d
    · subst hcd; simp [hq] at hnil
    · rw [State.dropUnit_mapDrop_ne _ _ hcd]; exact hnil

/-- The work of a drop between two line states closes (R91). -/
theorem closeWork (h : Sound k o x r u) {first rest : ClosureReason} :
    Sound k o x r (u.closeWork d first rest) := by
  have hitems : ∀ (l : List Item) (v : State), Sound k o x r v → (v.dropUnit d).queue = l →
      Sound k o x r ((l.foldl (State.clearItem rest) v).mapDrop d (Drop.withQueue [])) := fun l => by
    induction l with
    | nil => exact fun v hv hq => hv.mapDrop (hqueue := hq.symm)
    | cons it l ih =>
      intro v hv hq
      rw [State.clearItems_cons]
      exact ih _ (hv.clearHead hq) (by unfold State.clearHead; rw [State.dropUnit_mapDrop_self]; rfl)
  have htags : ∀ (l : List Tag) (v : State), Sound k o x r v →
      Sound k o x r (l.foldl (fun s t => s.closeExchange t rest) v) := fun l => by
    induction l with
    | nil => exact fun _ hv => hv
    | cons t l ih => exact fun v hv => ih _ hv.closeExchange
  have hfirst : Sound k o x r (u.serviceClosed d first) := by
    unfold State.serviceClosed
    split
    · exact h.closeExchange
    · exact h
  rw [State.closeWork_eq]
  exact htags _ _ (hitems _ _ hfirst rfl)

/-- FAULT or DISABLED entered: the work closed, and the drop come to its line state. -/
theorem closeAll (h : Sound k q x r u) (hq : ∀ c, q c → o c ∨ c = d) {first rest : ClosureReason}
    (hnotice : k ≠ .work → ∀ it a, (u.dropUnit d).service = some it → it.work ≠ .notice a)
    (hline : (u.dropUnit d).line ≠ .sending)
    (hmode : k ≠ .work → (u.dropUnit d).line = .disabled → (u.dropUnit d).mode = .disabled ∨ u.image.config = .loading)
    (htx : k ≠ .work → ¬ (u.dropUnit d).tx.Sends) : Sound k o x r (u.closeWork d first rest) := by
  have hat : ∀ {α : Type} (F : Drop → α), (∀ (t : Tag) (e : Exchange) (x : Drop), F (x.without t e) = F x) →
      (∀ x : Drop, F { x with queue := [] } = F x) → F ((u.closeWork d first rest).dropUnit d) = F (u.dropUnit d) :=
    fun F hF hnil => State.closeWork_at F hF hnil u d first rest d
  have hlines := hat Drop.line (fun t e x => (Drop.without_keeps t e x).2.1) fun _ => rfl
  have htxs := hat Drop.tx (fun t e x => (Drop.without_keeps t e x).2.2.2.2.2.2.1) fun _ => rfl
  have hmodes := hat Drop.mode (fun t e x => (Drop.without_keeps t e x).1) fun _ => rfl
  refine h.closeWork.settle d hq (fun hk => ?_) fun hk _ _ _ _ =>
    .unserved (State.closeWork_empty h.work (hnotice (by simp [hk])) first rest).1
  obtain ⟨hservice, hqueue⟩ := State.closeWork_empty h.work (hnotice hk) first rest
  refine .cleared hservice hqueue (by rwa [hlines]) ?_ (by rw [htxs]; exact htx hk)
  rw [hlines, hmodes]
  simpa using hmode hk

/-! ### Fault, disable, enable (R90 to R94) -/

theorem enterFault (h : Sound k o x r u) (hd : ¬ o d) (hline : (u.dropUnit d).line ≠ .sending) :
    Sound k o x r (u.enterFault d) := by
  have hheld : Sound k (fun c => o c ∨ c = d) x r (u.holdReceiver d false) := (h.weaken fun _ => .inl).holdReceiver
  unfold State.enterFault
  refine (hheld.mapExempt (.inr rfl)).closeAll (fun _ => id) (fun hk => ?_) ?_ (fun _ hl => ?_) fun hk => ?_
  · rw [State.dropUnit_mapDrop_self]
    change ∀ it a, ((u.holdReceiver d false).dropUnit d).service = some it → _
    rw [State.holdReceiver_at Drop.service (fun _ _ => rfl) fun _ _ => rfl]
    exact (h.service hk d hd).no_notice hline
  · rw [State.dropUnit_mapDrop_self]; simp
  · rw [State.dropUnit_mapDrop_self] at hl; simp at hl
  · rw [State.dropUnit_mapDrop_self]
    change ¬ ((u.holdReceiver d false).dropUnit d).tx.Sends
    rw [State.holdReceiver_at Drop.tx (fun _ _ => rfl) fun _ _ => rfl]
    exact (h.service hk d hd).not_sends hline

/-- DISABLED entered by a drop that serves no notice and sends nothing (R93). -/
theorem enterDisabled (h : Sound k q x r u) (hq : ∀ c, q c → o c ∨ c = d) {c : ClosureReason}
    (hnotice : k ≠ .work → ∀ it a, (u.dropUnit d).service = some it → it.work ≠ .notice a)
    (hmode : k ≠ .work → (u.dropUnit d).mode = .disabled) (htx : k ≠ .work → ¬ (u.dropUnit d).tx.Sends) :
    Sound k o x r (u.enterDisabled d c) := by
  have hheld : Sound k (fun c => o c ∨ c = d) x r (u.holdReceiver d false) := (h.weaken hq).holdReceiver
  unfold State.enterDisabled
  refine (hheld.mapExempt (.inr rfl)).closeAll (fun _ => id) (fun hk => ?_) ?_ (fun hk _ => .inl ?_) fun hk => ?_
  · rw [State.dropUnit_mapDrop_self]
    change ∀ it a, ((u.holdReceiver d false).dropUnit d).service = some it → _
    rw [State.holdReceiver_at Drop.service (fun _ _ => rfl) fun _ _ => rfl]
    exact hnotice hk
  · rw [State.dropUnit_mapDrop_self]; simp
  · rw [State.dropUnit_mapDrop_self]
    change ((u.holdReceiver d false).dropUnit d).mode = .disabled
    rw [State.holdReceiver_at Drop.mode (fun _ _ => rfl) fun _ _ => rfl]
    exact hmode hk
  · rw [State.dropUnit_mapDrop_self]
    change ¬ ((u.holdReceiver d false).dropUnit d).tx.Sends
    rw [State.holdReceiver_at Drop.tx (fun _ _ => rfl) fun _ _ => rfl]
    exact htx hk

theorem disableDrop (h : Sound k o x r u) (hd : ¬ o d) : Sound k o x r (u.disableDrop d) := by
  have hexempt : Sound k (fun c => o c ∨ c = d) x r (u.mapDrop d (fun x => { x with mode := .disabled })) :=
    (h.weaken fun _ => .inl).mapExempt (.inr rfl)
  have hunit := State.dropUnit_mapDrop_self u d (fun x => { x with mode := .disabled })
  have hkept : Sound k o x r (u.mapDrop d (fun x => { x with mode := .disabled })) := by
    refine hexempt.settle d (fun _ => id) (fun hk => ?_) fun hk t e he hed => ?_
    · rw [hunit]
      obtain ⟨h1, h2, h3, -, h5⟩ := h.service hk d hd
      exact ⟨h1, h2, h3, fun _ => .inl rfl, h5⟩
    · rw [hunit]
      obtain ⟨-, hon⟩ := h.tally hk t e he
      rw [hed] at hon
      exact hon hd
  have hline : ((u.mapDrop d (fun x => { x with mode := .disabled })).dropUnit d).line ≠ .sending →
      Sound k o x r ((u.mapDrop d (fun x => { x with mode := .disabled })).enterDisabled d .dropDisabled) := fun hl =>
    hkept.enterDisabled (fun _ => .inl) (fun hk => (hkept.service hk d hd).no_notice hl) (fun _ => by rw [hunit])
      fun hk => (hkept.service hk d hd).not_sends hl
  unfold State.disableDrop
  simp only
  split
  · exact hkept
  · exact hkept
  · exact hkept
  · next hl => exact hline (by rw [hl]; decide)
  · next hl => exact hline (by rw [hl]; decide)
  · next hl => exact hline (by rw [hl]; decide)
  · next hl => exact hline (by rw [hl]; decide)

theorem mapExchange (h : Sound k o x r u) {t : Tag} {f : Exchange → Exchange} (hf : ∀ e, (f e).state = e.state)
    (hbuf : ∀ e, (f e).buffer = e.buffer) (hdrop : ∀ e, (f e).drop = e.drop) (hattempts : ∀ e, (f e).attempts = e.attempts)
    (hfetches : ∀ e, (f e).fetches = e.fetches) (hlimit : ∀ e, (f e).limit = e.limit) :
    Sound k o x r (u.mapExchange t f) := by
  unfold State.mapExchange
  cases he : u.exchange t with
  | none =>
    have hsame : u.putExchange t (u.exchange t) = u := State.putExchange_exchange u t
    rw [he] at hsame
    simpa [hsame] using h
  | some e =>
    refine h.changeExchange he (by rw [hf]) (by simp [Exchange.inService, hf]) (fun _ => ?_) (fun _ _ => ?_) (hbuf e) (hdrop e)
    · simp [Exchange.Tallied, hf, hattempts, hfetches, hlimit]
    · simp [Exchange.TalliedOn, hf, hattempts, hfetches]

theorem enableDrop (h : Sound k o x r u) (hd : ¬ o d) : Sound k o x r (u.enableDrop d) := by
  have hexempt : Sound k (fun c => o c ∨ c = d) x r (u.mapDrop d (fun x => { x with mode := .enabled })) :=
    (h.weaken fun _ => .inl).mapExempt (.inr rfl)
  have hunit := State.dropUnit_mapDrop_self u d (fun x => { x with mode := .enabled })
  have hkept : (u.dropUnit d).line ≠ .disabled → Sound k o x r (u.mapDrop d (fun x => { x with mode := .enabled })) := by
    refine fun hl => hexempt.settle d (fun _ => id) (fun hk => ?_) fun hk t e he hed => ?_
    · rw [hunit]
      obtain ⟨h1, h2, h3, -, h5⟩ := h.service hk d hd
      exact ⟨h1, h2, h3, fun hl' => absurd hl' hl, h5⟩
    · rw [hunit]
      obtain ⟨-, hon⟩ := h.tally hk t e he
      rw [hed] at hon
      exact hon hd
  have hline : ((u.mapDrop d (fun x => { x with mode := .enabled })).dropUnit d).line = (u.dropUnit d).line := by rw [hunit]
  unfold State.enableDrop
  simp only
  split
  · next hl =>
    rw [hline] at hl
    refine hexempt.enterIdle (fun _ => id) hd (fun hk => ?_) fun hk => ?_
    · rw [hunit]; exact (h.service hk d hd).1 (.inl hl)
    · rw [hunit]; exact (h.service hk d hd).not_sends (by simp [hl])
  · next hl =>
    have hs := hkept (by rw [← hline, hl]; decide)
    split
    · refine hs.mapExchange ?_ ?_ ?_ ?_ ?_ ?_ <;> intro e <;> unfold Exchange.disableWithdrawn <;> split <;> rfl
    · exact hs
  all_goals
    next hl => exact hkept (by rw [← hline, hl]; decide)

theorem setPendingRate (h : Sound k o x r u) (hd : ¬ o d) {n : Rate} : Sound k o x r (u.setPendingRate d n) := by
  have hpending : Sound k o x r (u.mapDrop d (fun x => { x with pendingRate := some n })) := h.mapDrop
  unfold State.setPendingRate
  simp only
  split
  · next hl =>
    exact hpending.enterIdle (fun _ => .inl) hd (fun hk => (hpending.service hk d hd).1 (.inr (.inl hl)))
      fun hk => (hpending.service hk d hd).not_sends (by rw [hl]; decide)
  · exact hpending

/-! ### The end of a frame sent (R79 to R81, R88, R93, R103, R113) -/

/-- The hold of a notice in service given up (R81). -/
theorem leaveNotice (h : Sound k o x r u) (hd : o d) {it : Item} {a : Byte} (hit : (u.dropUnit d).service = some it)
    (ha : it.work = .notice a) : Sound k o x r (u.leaveService d it.buffer) := by
  have hne : ∀ c, ¬ o c → (u.leaveService d it.buffer).dropUnit c = u.dropUnit c := fun c hc => by
    rw [State.leaveService_dropUnit]
    exact State.dropUnit_mapDrop_ne u _ fun hcd => hc (hcd ▸ hd)
  have hwork : WorkLaw (u.mapDrop d (fun x => { x with service := none, expiryHeld := false })) :=
    h.work.mapServing (hserving := nofun)
  refine ⟨hwork.congr (fun _ => rfl) (fun _ => rfl) fun _ => rfl, fun hk c hc => ?_,
    fun hk t e he => ⟨(h.tally hk t e he).1, fun hc => ?_⟩, fun hk => (h.hold hk).leaveNotice hit ha⟩
  · rw [hne c hc]; exact h.service hk c hc
  · rw [hne _ hc]; exact (h.tally hk t e he).2 hc

/-- GUARD entered with nothing in service or an exchange, nothing being sent. -/
theorem toGuard (h : Sound k q x r u) (hq : ∀ c, q c → o c ∨ c = d)
    (hnone : k ≠ .work → (u.dropUnit d).service = none) (htx : k ≠ .work → ¬ (u.dropUnit d).tx.Sends) :
    Sound k o x r (u.mapDrop d (fun x => { x with line := .guard })) :=
  h.setLine hq (fun hk => .waiting (.inl rfl) (fun it a hit => by rw [hnone hk] at hit; cases hit) (htx hk))
    fun hk _ _ _ _ => .unserved (hnone (by simp [hk]))

theorem noticeSent (h : Sound k q x r u) (hq : ∀ c, q c → o c ∨ c = d) {it : Item} {a : Byte}
    (hit : (u.dropUnit d).service = some it) (ha : it.work = .notice a) (htx : k ≠ .work → ¬ (u.dropUnit d).tx.Sends) :
    Sound k o x r (u.noticeSent d it.buffer) := by
  have hleft : Sound k (fun c => o c ∨ c = d) x r (u.leaveService d it.buffer) :=
    (h.weaken hq).leaveNotice (.inr rfl) hit ha
  have hunit : (u.leaveService d it.buffer).dropUnit d = { u.dropUnit d with service := none, expiryHeld := false } := by
    rw [State.leaveService_dropUnit, State.dropUnit_mapDrop_self]
  have hnone : ((u.leaveService d it.buffer).dropUnit d).service = none := by rw [hunit]
  have hidle : k ≠ .work → ¬ ((u.leaveService d it.buffer).dropUnit d).tx.Sends := fun hk => by
    rw [hunit]; exact htx hk
  unfold State.noticeSent
  simp only
  split
  · next hmode =>
    exact hleft.enterDisabled (fun _ => id) (fun _ it a hit => by rw [hnone] at hit; cases hit) (fun _ => hmode) hidle
  · exact hleft.toGuard (fun _ => id) (fun _ => hnone) hidle

theorem exchangeSent (h : Sound k q x r u) (hq : ∀ c, q c → o c ∨ c = d) {t : Tag} {e : Exchange}
    (he : u.exchange t = some e) (hs : (u.dropUnit d).serving = some t) (htx : k ≠ .work → ¬ (u.dropUnit d).tx.Sends)
    (hfetch : k = .tally → e.fetches ≤ 254) (hlimits : k = .tally → RangeLaw u) :
    Sound k o x r (u.exchangeSent d t e) := by
  obtain ⟨y, hy, hin, hd⟩ := h.work.serving hs
  obtain rfl := Option.some.inj (he.symm.trans hy)
  have hstate : e.frameSent.state = e.state ∧ e.frameSent.buffer = e.buffer ∧ e.frameSent.drop = e.drop
      ∧ e.frameSent.attempts = e.attempts ∧ e.frameSent.limit = e.limit := by
    unfold Exchange.frameSent; split <;> exact ⟨rfl, rfl, rfl, rfl, rfl⟩
  obtain ⟨hst, hbuf, hdrop, hattempts, hlimit⟩ := hstate
  have hput : Sound k (fun c => o c ∨ c = d) x r (u.putExchange t (some e.frameSent)) := by
    refine (h.weaken (q := fun c => o c ∨ c = d) hq).changeExchange he (by rw [hst]) (by simp [Exchange.inService, hst])
      (fun hk ⟨⟨h1, h2, h3⟩, h4, h5⟩ => ?_) (fun _ hc => absurd (Or.inr hd) hc) hbuf hdrop
    have hmore := hfetch hk
    simp only [Exchange.Tallied, hst, hattempts, hlimit]
    unfold Exchange.frameSent
    split
    · next hf => exact ⟨⟨h1, h2, Nat.succ_le_succ hmore⟩, fun hn => absurd hf hn, h5⟩
    · exact ⟨⟨h1, h2, h3⟩, h4, h5⟩
  have hget : (u.putExchange t (some e.frameSent)).exchange t = some e.frameSent := State.exchange_putExchange_self ..
  unfold State.exchangeSent
  simp only
  split
  · next hmode =>
    exact hput.enterDisabled (fun _ => id) (fun _ => Drop.serving_no_notice hs) (fun _ => hmode) htx
  · split
    · refine hput.closeExchange.toGuard (fun _ => id) (fun _ => ?_) fun hk => ?_
      · have := State.closeExchange_service hget (by simpa [Exchange.inService, hst] using hin) .removed
        rwa [hdrop, hd] at this
      · rw [State.closeExchange_tx]; exact htx hk
    · exact hput.startWindow (fun _ => id) hget hs htx hlimits

/-- The EOF of the frame a drop sends (R79 to R81). -/
theorem dropFrameSent (h : Sound k o x r u) (hd : ¬ o d) (hline : (u.dropUnit d).line = .sending)
    (hlimits : k = .tally → RangeLaw u) : Sound k o x r (u.dropFrameSent d) := by
  have hcounted : Sound k (fun c => o c ∨ c = d) x r (u.eofCounted d) :=
    (h.weaken fun _ => .inl).mapDropCounters.mapExempt (.inr rfl)
  have hidle : ((u.eofCounted d).dropUnit d).tx = .idle := by
    unfold State.eofCounted; rw [State.dropUnit_mapDrop_self]
  have hservice : ((u.eofCounted d).dropUnit d).service = (u.dropUnit d).service := by
    simp [State.eofCounted, State.mapDropCounters]
  have htx : k ≠ .work → ¬ ((u.eofCounted d).dropUnit d).tx.Sends := fun _ ⟨_, _, _, hs⟩ => by rw [hidle] at hs; cases hs
  rw [State.dropFrameSent_eq]
  split
  · next hnone => exact hcounted.toGuard (fun _ => id) (fun _ => hnone) htx
  · next it hit =>
    split
    · next a ha => exact hcounted.noticeSent (fun _ => id) hit ha htx
    · next t ht =>
      have hs : ((u.eofCounted d).dropUnit d).serving = some t := Drop.serving_some.2 ⟨it, hit, ht⟩
      obtain ⟨e, he, -, hed⟩ := hcounted.work.serving hs
      simp only [he]
      refine hcounted.exchangeSent (fun _ => id) he hs htx (fun hk => ?_) fun hk => hlimits hk
      obtain ⟨-, hon⟩ := h.tally hk t e he
      rw [hed] at hon
      exact (hon hd (Drop.serving_some.2 ⟨it, hservice ▸ hit, ht⟩)).2 hline

/-! ### Claims on stations and exchanges (R115, R118, R157, R159) -/

theorem forceClose (h : Sound k nobody x r u) {t : Tag} {e : Exchange} (he : u.exchange t = some e) : Sound k nobody x r (u.forceClose t e) := by
  unfold State.forceClose
  split
  · exact h.closeExchange
  · next hin =>
    rw [Bool.not_eq_false] at hin
    split
    · exact h.changeExchange he Iff.rfl rfl (fun _ => id) fun _ _ => id
    · next hline =>
      refine h.closeExchange.toGuard (fun _ => .inl) (fun _ => State.closeExchange_service he hin _) fun hk => ?_
      rw [State.closeExchange_tx]
      exact (h.service hk e.drop id).not_sends hline

theorem dropNotices (h : Sound k o x r u) {a : Byte} : Sound k o x r (State.dropNotices a u d) := by
  have hdrops : (State.dropNotices a u d).drops
      = (u.mapDrop d (Drop.withQueue ((u.dropUnit d).queue.filter (fun it => it.work ≠ .notice a)))).drops :=
    foldl_keeps State.drops (fun s (it : Item) => s.release it.buffer) (fun _ _ => rfl) _ _
  have hexch : (State.dropNotices a u d).exchanges = u.exchanges :=
    foldl_keeps State.exchanges (fun s (it : Item) => s.release it.buffer) (fun _ _ => rfl) _ _
  have himage : (State.dropNotices a u d).image = u.image :=
    foldl_keeps State.image (fun s (it : Item) => s.release it.buffer) (fun _ _ => rfl) _ _
  have hunit : ∀ c, (State.dropNotices a u d).dropUnit c
      = (u.mapDrop d (Drop.withQueue ((u.dropUnit d).queue.filter (fun it => it.work ≠ .notice a)))).dropUnit c := fun c => by
    simp only [State.dropUnit, hdrops]
  have hat : ∀ {α : Type} (F : Drop → α), (∀ (y : Drop) l, F (y.withQueue l) = F y) →
      ∀ c, F ((State.dropNotices a u d).dropUnit c) = F (u.dropUnit c) := fun F hF c => by
    rw [hunit]; exact State.mapDrop_at F (hF _ _) c
  have hwork : WorkLaw (State.dropNotices a u d) :=
    (h.work.mapDrop (f := Drop.withQueue ((u.dropUnit d).queue.filter (fun it => it.work ≠ .notice a)))
      (hqueue := List.filter_sublist)).congr (fun v => by simp only [State.exchange, hexch]; rfl)
      (fun c => by rw [hunit]) fun c => by rw [hunit]
  refine h.ofQueues hwork (fun v => by simp only [State.exchange, hexch]) (hat Drop.line fun _ _ => rfl)
    (hat Drop.mode fun _ _ => rfl) (hat Drop.tx fun _ _ => rfl) (hat Drop.service fun _ _ => rfl)
    (fun _ c _ _ hnil => ?_) (by rw [himage]; exact id) fun hk => (h.hold hk).dropNotices
  rw [hunit]
  by_cases hcd : c = d
  · subst hcd; rw [State.dropUnit_mapDrop_self]; simp [Drop.withQueue, hnil]
  · rw [State.dropUnit_mapDrop_ne _ _ hcd]; exact hnil

theorem eraseStation (h : Sound k o x r u) {a : Byte} : Sound k o x r (u.eraseStation a) := h.same

theorem removeStation (h : Sound k nobody x r u) {a : Byte} {force : Bool} :
    Sound k nobody x r (u.removeStation a force).1 := by
  have hforced : Sound k nobody x r (u.exchangeForced a) := by
    unfold State.exchangeForced
    split
    · exact h
    · split
      · exact h
      · next he => exact h.forceClose he
  have hnotices : ∀ (l : List DropId) (v : State), Sound k nobody x r v →
      Sound k nobody x r (l.foldl (State.dropNotices a) v) := fun l => by
    induction l with
    | nil => exact fun _ hv => hv
    | cons d l ih => exact fun v hv => ih _ hv.dropNotices
  have hgone : Sound k nobody x r (u.stationForced a) := (hnotices _ _ hforced).eraseStation
  rw [State.removeStation_eq]
  split
  · exact h
  · split
    · simp only
      split
      · exact hgone
      · exact hgone.settleGuard id
    · split
      · exact h
      · exact h.eraseStation

theorem cancelExchange (h : Sound k o x r u) {a : Byte} : Sound k o x r (u.cancelExchange a).1 := by
  unfold State.cancelExchange
  split
  · exact h
  · split
    · exact h.mapExchange (fun _ => rfl) (fun _ => rfl) (fun _ => rfl) (fun _ => rfl) (fun _ => rfl) fun _ => rfl
    · exact h.closeExchange

theorem setDrop (h : Sound k o x r u) (hd : ¬ o d) {mode : Option Mode} {rate : Option Rate} :
    Sound k o x r (u.setDrop d mode rate) := by
  have hmode : Sound k o x r (match mode with
      | none => u
      | some .disabled => u.disableDrop d
      | some .enabled => u.enableDrop d) := by
    split
    · exact h
    · exact h.disableDrop hd
    · exact h.enableDrop hd
  unfold State.setDrop
  simp only
  cases rate with
  | none => exact hmode
  | some n => exact hmode.setPendingRate hd

end Sound
end Sys2Proof.Machine
end

section
/-! PROOFS. The laws of the work after a restart: nothing is open, queued, in service or being sent (R97, R98, R165,
R166, R171). -/

namespace Sys2Proof.Machine

set_option Elab.async false

/-- No work, and no buffer in any place. -/
structure State.Blank (s : State) : Prop where
  exchange : ∀ t, s.exchange t = none
  queue : ∀ d, (s.dropUnit d).queue = []
  service : ∀ d, (s.dropUnit d).service = none
  rx : ∀ l, s.rx l = Receiver.idle
  urgent : s.upstream.urgent = []
  routine : s.upstream.routine = []
  tx : s.trunk.tx.pooled = none
  slot : s.mgmt.slot.buffer = none

/-- A drop as every restart leaves it: nothing being sent, DISABLED only by its mode or while LOADING. -/
def Drop.Rests (loading : Prop) (x : Drop) : Prop :=
  x.line ≠ .sending ∧ (x.line = .disabled → x.mode = .disabled ∨ loading) ∧ ¬ x.tx.Sends

namespace State.Blank

variable {s : State}

theorem places (h : s.Blank) (b : BufId) : s.places.count b = 0 := by
  have hrx : s.trunk.rx.slot = none := congrArg Receiver.slot (h.rx .trunk)
  have hdrops : ∀ d : Fin 4, (s.dropUnit d).places.count b = 0 := fun d => by
    have hslot : (s.dropUnit d).rx.slot = none := congrArg Receiver.slot (h.rx (.drop d))
    simp [Drop.places_count, hslot, h.queue d, h.service d]
  have hexch : ∀ t : Fin 16, ((s.exchange t).map Exchange.buffer).toList.count b = 0 := fun t => by simp [h.exchange t]
  rw [State.places_count]
  simp [hrx, hdrops, hexch, h.urgent, h.routine, h.tx, h.slot]

theorem work (h : s.Blank) : WorkLaw s := fun d => by
  rw [h.queue d]
  refine ⟨nofun, List.Pairwise.nil, fun t ht => ?_⟩
  simp [Drop.serving, h.service d] at ht

theorem held (h : s.Blank) {x : List BufId} (hpool : s.pool.Lawful) (hcount : ∀ b, s.pool.count b = x.count b)
    (hfree : 4 ≤ s.pool.free.length) : Held x 0 s := by
  refine ⟨hpool, fun b => by rw [h.places, hcount, Nat.zero_add], by omega, fun l => ?_, fun t e he => ?_⟩
  · rw [h.rx l]
    exact ⟨by simp [Receiver.idle], nofun⟩
  · rw [h.exchange t] at he; cases he

theorem sound (h : s.Blank) {k : Scope} {x : List BufId} {o : DropId → Prop}
    (hrest : ∀ d, (s.dropUnit d).Rests (s.image.config = .loading)) (hheld : k = .hold → Held x 0 s) :
    Sound k o x 0 s := by
  refine ⟨h.work, fun _ d _ => ?_, fun _ t e he => ?_, hheld⟩
  · obtain ⟨hline, hmode, htx⟩ := hrest d
    exact .cleared (h.service d) (h.queue d) hline hmode htx
  · rw [h.exchange t] at he; cases he

end State.Blank

/-! ### The drops -/

theorem State.cutOff_not_sends (s : State) (x : Transmitter) : ¬ (s.cutOff x).Sends := by
  rintro ⟨src, r, began, h⟩
  unfold State.cutOff at h
  split at h <;> cases h

theorem State.cutOff_pooled (s : State) (x : Transmitter) : (s.cutOff x).pooled = none := by
  unfold State.cutOff
  split <;> rfl

/-- What a rate applied leaves of a drop. -/
theorem Drop.rateApplied_work (now : Nat) (x : Drop) : (x.rateApplied now).queue = x.queue
    ∧ (x.rateApplied now).service = x.service ∧ (x.rateApplied now).line = x.line ∧ (x.rateApplied now).mode = x.mode
    ∧ (x.rateApplied now).tx = x.tx := by
  unfold Drop.rateApplied
  split
  · exact ⟨rfl, rfl, rfl, rfl, rfl⟩
  · split <;> exact ⟨rfl, rfl, rfl, rfl, rfl⟩

/-- A drop settled at a warm restart has no work, and sends nothing (R97). -/
theorem Drop.warmSettled_work (now : Nat) (x : Drop) (L : Prop) : (x.warmSettled now).queue = []
    ∧ (x.warmSettled now).service = none ∧ (¬ x.tx.Sends → (x.warmSettled now).Rests L) := by
  have hwarm : (x.warm now).queue = [] ∧ (x.warm now).service = none ∧ (¬ x.tx.Sends → (x.warm now).Rests L) := by
    refine ⟨rfl, rfl, fun htx => ⟨?_, ?_, htx⟩⟩
    · unfold Drop.warm
      simp only
      split
      · decide
      · split <;> decide
    · intro hl
      unfold Drop.warm at hl ⊢
      simp only at hl ⊢
      split at hl
      · cases hl
      · split at hl
        · cases hl
        · next hmode => left; cases hm : x.mode <;> simp_all
  unfold Drop.warmSettled
  split
  · obtain ⟨hqueue, hservice, hline, hmode, htx⟩ := Drop.rateApplied_work now (x.warm now)
    rw [hqueue, hservice]
    refine ⟨hwarm.1, hwarm.2.1, fun hs => ?_⟩
    obtain ⟨h1, h2, h3⟩ := hwarm.2.2 hs
    exact ⟨by rwa [hline], by rwa [hline, hmode], by rwa [htx]⟩
  · exact hwarm

/-! ### The restarts -/

/-- The RESULT of a restart takes buffer 0 of the rebuilt pool, for its place in the urgent queue (R34). -/
def State.restartTaken (s : State) (q : Byte) (kind : RestartKind) : State :=
  State.write { s with pool := Pool.cold.taken 0 (List.finRange 40).tail } 0
    (resultFrame s.settings.ownAddress q ResultCode.done.code opRestart [kind.code])

theorem State.restartTaken_mgmt (s : State) (q : Byte) (kind : RestartKind) : (s.restartTaken q kind).mgmt = s.mgmt := rfl

theorem State.hold_queueUp (s : State) (c : Class) (a b : BufId) :
    (s.queueUp c a).hold b = (s.hold b).queueUp c a := by cases c <;> rfl

theorem State.restartResult_eq {s : State} (h : s.pool = Pool.cold) (q : Byte) (kind : RestartKind) :
    s.restartResult q kind = (s.restartTaken q kind).queueUp .urgent 0 := by
  simp only [State.restartResult, h, Pool.cold_take]
  rfl

namespace State.Blank

variable {s : State} {k : Scope} {o : DropId → Prop}

theorem restartTaken (h : s.Blank) (hrest : ∀ d, (s.dropUnit d).Rests (s.image.config = .loading)) (q : Byte)
    (kind : RestartKind) : Sound k o [0] 0 (s.restartTaken q kind) := by
  have hblank : State.Blank { s with pool := Pool.cold.taken 0 (List.finRange 40).tail } :=
    ⟨h.exchange, h.queue, h.service, fun l => (by cases l <;> rfl : _ = s.rx l).trans (h.rx l), h.urgent, h.routine, h.tx,
      h.slot⟩
  have hfree : 4 ≤ (Pool.cold.taken 0 (List.finRange 40).tail).free.length := by simp [Pool.taken]
  refine (hblank.sound hrest fun _ => hblank.held (Pool.Lawful.cold.taken rfl) (fun b => ?_) hfree).write
  rw [Pool.count_taken, Pool.count_eq_zero (Pool.cold_all_free b).1, List.count_singleton]
  by_cases hb : b = 0
  · simp only [hb, if_true, BEq.rfl]
  · rw [if_neg hb, if_neg (by simpa using Ne.symm hb)]

end State.Blank

theorem State.restartCore_blank_work (s : State) : (∀ t, s.restartCore.exchange t = none)
    ∧ s.restartCore.trunk.rx = Receiver.idle ∧ s.restartCore.trunk.tx.pooled = none := by
  refine ⟨fun t => by simp [State.restartCore, State.exchange], rfl, s.cutOff_pooled _⟩

theorem State.warmed_dropUnit (s : State) (d : DropId) :
    s.warmed.dropUnit d = Drop.warmSettled s.restartCore.now (s.noticeRestored.restartCore.dropUnit d) := by
  have hnow : s.noticeRestored.restartCore.now = s.restartCore.now := by
    unfold State.noticeRestored; split <;> rfl
  have hfold := State.dropUnit_foldl_warmDrop (List.nodup_finRange 4) s.noticeRestored.restartCore d
  rwa [if_pos (List.mem_finRange d), hnow] at hfold

theorem State.warmed_blank (s : State) : s.warmed.Blank := by
  obtain ⟨hexch, hrx, htx⟩ := s.noticeRestored.restartCore_blank_work
  have hwarm : ∀ {α : Type} (F : State → α), (∀ (u : State) (d : DropId), F (u.warmDrop d) = F u) →
      F s.warmed = F s.noticeRestored.restartCore := fun F hF => foldl_keeps F State.warmDrop hF _ _
  have htrunk := hwarm State.trunk fun _ _ => by simp
  have hupstream := hwarm State.upstream fun _ _ => by simp
  refine ⟨fun t => ?_, fun d => ?_, fun d => ?_, fun l => ?_, by rw [hupstream]; rfl, by rw [hupstream]; rfl,
    by rw [htrunk]; exact htx, by rw [hwarm State.mgmt fun _ _ => by simp]; rfl⟩
  · have := hwarm State.exchanges fun _ _ => by simp
    simp only [State.exchange, this]; exact hexch t
  · rw [s.warmed_dropUnit]; exact (Drop.warmSettled_work _ _ True).1
  · rw [s.warmed_dropUnit]; exact (Drop.warmSettled_work _ _ True).2.1
  · cases l with
    | trunk => exact (congrArg Trunk.rx htrunk).trans hrx
    | drop d => exact (congrArg Drop.rx (s.warmed_dropUnit d)).trans (Drop.warmSettled_rx _ _)

/-- A reload's state, its RESULT still to come (R166). -/
def State.reloadCore (s : State) : State :=
  { s.restartCore with
    stations := []
    drops := s.restartCore.drops.map Drop.reloaded
    upstream := { s.restartCore.upstream with report := 0#8 }
    settings := { Settings.cold with ownAddress := s.settings.ownAddress }
    image := ImageUnit.cold }

theorem State.restartReload_eq (s : State) (q : Byte) : s.restartReload q = s.reloadCore.restartResult q .reload := rfl

theorem State.reloadCore_dropUnit (s : State) (d : DropId) :
    s.reloadCore.dropUnit d = (s.restartCore.dropUnit d).reloaded := State.dropUnit_of_map rfl d

theorem State.reloadCore_blank (s : State) : s.reloadCore.Blank := by
  obtain ⟨hexch, hrx, htx⟩ := s.restartCore_blank_work
  refine ⟨hexch, fun d => ?_, fun d => ?_, fun l => ?_, rfl, rfl, htx, rfl⟩
  · rw [s.reloadCore_dropUnit]; rfl
  · rw [s.reloadCore_dropUnit]; rfl
  · cases l with
    | trunk => exact hrx
    | drop d => exact congrArg Drop.rx (s.reloadCore_dropUnit d)

theorem State.coldReset_dropUnit (s : State) (straps : Rate) (d : DropId) :
    (s.coldReset straps).dropUnit d = (s.dropUnit d).coldReset :=
  State.dropUnit_of_map (by simp [State.coldReset]) d

theorem State.coldReset_blank (s : State) (straps : Rate) : (s.coldReset straps).Blank := by
  refine ⟨fun t => by simp [State.coldReset, State.exchange], fun d => ?_, fun d => ?_, s.coldReset_receivers straps, rfl,
    rfl, rfl, rfl⟩
  · rw [s.coldReset_dropUnit]; rfl
  · rw [s.coldReset_dropUnit]; rfl

namespace Sound

variable {k : Scope} {o : DropId → Prop}

/-- The replay slot set, with the hold that it has. -/
theorem setSlot {x y : List BufId} {r : Nat} {u : State} (h : Sound k o x r u) {m : Management}
    (hm : ∀ a, m.slot.buffer.toList.count a + y.count a = u.mgmt.slot.buffer.toList.count a + x.count a) :
    Sound k o y r { u with mgmt := m } := h.ofHeldSame fun hk => (h.hold hk).setSlot hm

theorem restartWarm (s : State) (q : Byte) : Sound k o [] 0 (s.restartWarm q) := by
  have hrest : ∀ d, (s.warmed.dropUnit d).Rests (s.warmed.image.config = .loading) := fun d => by
    rw [s.warmed_dropUnit]
    refine (Drop.warmSettled_work _ _ _).2.2 ?_
    rw [State.restartCore_dropUnit]
    exact State.cutOff_not_sends _ _
  have htaken : Sound k o [0] 0 (s.warmed.restartTaken q .warm) := s.warmed_blank.restartTaken hrest q .warm
  have hqueued : Sound k o [0] 0 (((s.warmed.restartTaken q .warm).hold 0).queueUp .urgent 0) :=
    (htaken.addHold List.mem_cons_self).queueUp
  have hslot : s.warmed.mgmt.slot.buffer = none := s.warmed_blank.slot
  have hpool : s.warmed.pool = Pool.cold := State.foldl_warmDrop_pool _ _
  rw [State.restartWarm_warmed, State.restartResult_eq hpool, State.hold_queueUp]
  refine hqueued.setSlot fun a => ?_
  have hsame : (((s.warmed.restartTaken q .warm).hold 0).queueUp .urgent 0).mgmt = s.warmed.mgmt := by
    rw [(State.queueUp_keeps _ _ _).2.2.2.2.2.2.2.1, State.hold_mgmt, State.restartTaken_mgmt]
  rw [hsame, hslot]
  exact Nat.add_comm _ _

theorem restartReload (s : State) (q : Byte) : Sound k o [] 0 (s.restartReload q) := by
  have hrest : ∀ d, (s.reloadCore.dropUnit d).Rests (s.reloadCore.image.config = .loading) := fun d => by
    rw [s.reloadCore_dropUnit]
    refine ⟨nofun, fun _ => .inl rfl, ?_⟩
    rw [State.restartCore_dropUnit]
    exact State.cutOff_not_sends _ _
  rw [State.restartReload_eq, State.restartResult_eq rfl]
  exact (s.reloadCore_blank.restartTaken hrest q .reload).queueUp

theorem restart (s : State) (q : Byte) (kind : RestartKind) : Sound k o [] 0 (s.restart q kind) := by
  cases kind
  · exact restartWarm s q
  · exact restartReload s q

theorem coldReset (s : State) (straps : Rate) : Sound k o [] 0 (s.coldReset straps) := by
  refine (s.coldReset_blank straps).sound (fun d => ?_) fun _ => (s.coldReset_blank straps).held .cold (fun b => ?_)
    (show 4 ≤ Pool.cold.free.length by decide)
  · rw [s.coldReset_dropUnit]
    exact ⟨nofun, fun _ => .inl rfl, fun ⟨_, _, _, h⟩ => by cases h⟩
  · exact Pool.count_eq_zero (Pool.cold_all_free b).1

end Sound
end Sys2Proof.Machine
end

section
/-! PROOFS. The laws of the work through trunk arrival and the management operations (R55 to R69, R142 to R164). -/

namespace Sys2Proof.Machine

set_option Elab.async false

/-! ### Items that join a queue -/

theorem enqueue_perm (it : Item) (q : List Item) : (enqueue it q).Perm (it :: q) := by
  unfold enqueue
  split
  · exact List.perm_append_singleton it q
  · refine List.perm_middle.trans ?_
    rw [List.takeWhile_append_dropWhile]

namespace WorkLaw

variable {u : State}

/-- An item joins a queue whose exchange, if it has one, is queued there and nowhere named yet. -/
theorem joinQueue (h : WorkLaw u) {d : DropId} {it : Item} (hexch : ∀ t, it.work = .exchange t →
      (∃ e, u.exchange t = some e ∧ e.state = .queued ∧ e.drop = d)
        ∧ ∀ jt ∈ (u.dropUnit d).queue, jt.work ≠ .exchange t) : WorkLaw (u.joinQueue d it) := by
  intro c
  unfold State.joinQueue
  by_cases hc : c = d
  · subst hc
    rw [State.dropUnit_mapDrop_self]
    refine ⟨fun jt hjt t ht => ?_, ?_, (h c).2.2⟩
    · obtain rfl | hold := mem_enqueue_iff.1 hjt
      · exact (hexch t ht).1
      · exact h.queued hold ht
    · have hsym : ∀ {y z : Item}, (∀ t, y.work = .exchange t → z.work ≠ .exchange t) →
          ∀ t, z.work = .exchange t → y.work ≠ .exchange t := fun hyz t hz hy => hyz t hy hz
      refine ((enqueue_perm it (u.dropUnit c).queue).pairwise_iff hsym).2 ?_
      exact List.pairwise_cons.2 ⟨fun jt hjt t ht => (hexch t ht).2 jt hjt, h.distinct c⟩
  · rw [State.dropUnit_mapDrop_ne _ _ hc]
    exact h c

/-- A FREE record is named nowhere. -/
theorem free_unnamed (h : WorkLaw u) {t : Tag} (hfree : u.exchange t = none) :
    (∀ d, ∀ it ∈ (u.dropUnit d).queue, it.work ≠ .exchange t) ∧ ∀ d, (u.dropUnit d).serving ≠ some t := by
  refine ⟨fun d it hit hw => ?_, fun d hs => ?_⟩
  · obtain ⟨e, he, -, -⟩ := h.queued hit hw
    rw [hfree] at he; cases he
  · obtain ⟨e, he, -, -⟩ := h.serving hs
    rw [hfree] at he; cases he

end WorkLaw

/-- The record that admission opens (R67). -/
def Exchange.opened (st : Station) (q : Byte) (b : BufId) : Exchange :=
  { station := st.address, drop := st.drop, seq := q, cls := st.cls, state := .queued, attempts := 1, fetches := 0,
    deadline := none, cancelPending := false, buffer := b, limit := none, dueSince := none, removal := .none }

/-- An exchange opened, its drop's choice still to come (R67). -/
def State.exchangeOpened (s : State) (b : BufId) (st : Station) (t : Tag) : State :=
  ((s.putExchange t (some (.opened st (seqOf (s.content b)) b))).hold b).joinQueue st.drop
    { work := .exchange t, cls := st.cls, buffer := b }

theorem State.openExchange_eq (s : State) (b : BufId) (st : Station) (t : Tag) :
    s.openExchange b st t = (s.exchangeOpened b st t).chooseWork st.drop := rfl

/-- An operation carried out leaves the replay slot alone. -/
theorem State.carryOut_slot (s : State) (z : MgmtRequest) : (s.carryOut z).1.mgmt.slot = s.mgmt.slot := by
  cases z with
  | writeSettings f =>
    simp only [State.carryOut, noData, State.writeSettings]
    split
    · simp only; split <;> rfl
    · rfl
  | readStation a => simp only [State.carryOut]; split <;> rfl
  | _ => simp [State.carryOut, doneWith, noData]

namespace Sound

variable {k : Scope} {o : DropId → Prop} {x : List BufId} {r : Nat} {s u : State} {d : DropId} {b : BufId}

theorem joinQueue (h : Sound k o x r u) {it : Item} {y : List BufId} {n : Nat} (hwork : WorkLaw (u.joinQueue d it))
    (hline : k ≠ .work → (u.dropUnit d).line ≠ .disabled ∧ (u.dropUnit d).line ≠ .fault)
    (hheld : k = .hold → Held y n (u.joinQueue d it)) : Sound k o y n (u.joinQueue d it) := by
  refine h.ofQueues hwork (fun _ => rfl) (State.mapDrop_at Drop.line rfl) (State.mapDrop_at Drop.mode rfl)
    (State.mapDrop_at Drop.tx rfl) (State.mapDrop_at Drop.service rfl) (fun hk c _ hl hnil => ?_) id hheld
  by_cases hc : c = d
  · subst hc
    exact absurd hl (not_or.2 (hline hk))
  · unfold State.joinQueue
    rw [State.dropUnit_mapDrop_ne _ _ hc]; exact hnil

theorem joinNotice (h : Sound k o (b :: x) r u) {a : Byte} {c : Class}
    (hline : k ≠ .work → (u.dropUnit d).line ≠ .disabled ∧ (u.dropUnit d).line ≠ .fault) :
    Sound k o x r (u.joinQueue d { work := .notice a, cls := c, buffer := b }) :=
  h.joinQueue (h.work.joinQueue nofun) hline fun hk => (h.hold hk).joinNotice

/-! ### Notices (R61, R62) -/

theorem countDropped (h : Sound k o x r u) : Sound k o x r (u.countDropped d) := h.mapDropCounters

/-- An ENABLED drop is not DISABLED once the load has ended. -/
theorem enabled_line (h : Sound k o x r u) (hd : ¬ o d) (hready : k ≠ .work → u.image.config ≠ .loading)
    (hmode : (u.dropUnit d).mode ≠ .disabled) : k ≠ .work → (u.dropUnit d).line ≠ .disabled := fun hk hl =>
  ((h.service hk d hd).2.2.2.1 hl).elim hmode (hready hk)

theorem stationNotice (h : Sound k o (b :: x) r u) {st : Station} (hd : ¬ o st.drop)
    (hready : k ≠ .work → u.image.config ≠ .loading) : Sound k o x r (u.stationNotice b st) := by
  unfold State.stationNotice
  simp only
  split
  · next hc =>
    simp only [Drop.takesNotices, Bool.and_eq_true, decide_eq_true_eq] at hc
    obtain ⟨⟨hmode, hline⟩, -⟩ := hc
    exact (h.joinNotice fun hk => ⟨h.enabled_line hd hready (by rw [hmode]; decide) hk, by simpa using hline⟩).chooseWork hd
  · exact h.countDropped.release

theorem offerBroadcast (h : Sound k o (b :: x) r u) : Sound k o (b :: x) r (State.offerBroadcast b u d) := by
  unfold State.offerBroadcast
  simp only
  split
  · next hc =>
    split
    · simp only [Drop.takesBroadcasts, Drop.takesNotices, Bool.and_eq_true, decide_eq_true_eq] at hc
      obtain ⟨⟨-, hfault⟩, hdisabled⟩ := hc
      exact (h.addHold List.mem_cons_self).joinNotice fun _ =>
        ⟨show (u.dropUnit d).line ≠ .disabled by simpa using hdisabled, show (u.dropUnit d).line ≠ .fault by simpa using hfault⟩
    · exact h.countDropped
  · exact h

theorem broadcast (h : Sound k nobody (b :: x) r u) : Sound k nobody x r (u.broadcast b) := by
  have hoffered : ∀ (l : List DropId) (v : State), Sound k nobody (b :: x) r v →
      Sound k nobody (b :: x) r (l.foldl (State.offerBroadcast b) v) := fun l => by
    induction l with
    | nil => exact fun _ hv => hv
    | cons d l ih => exact fun v hv => ih _ hv.offerBroadcast
  have hchosen : ∀ (l : List DropId) (v : State), Sound k nobody x r v →
      Sound k nobody x r (l.foldl State.chooseWork v) := fun l => by
    induction l with
    | nil => exact fun _ hv => hv
    | cons d l ih => exact fun v hv => ih _ (hv.chooseWork id)
  exact hchosen _ _ (hoffered _ _ h).release

/-! ### Admission (R64 to R67) -/

theorem refuse (h : Sound k o (b :: x) r u) {c : Class} {reason : RefusalReason} : Sound k o x r (u.refuse b c reason) :=
  h.write.mapTrunkCounters.queueUp

theorem fastFail (h : Sound k o (b :: x) r u) {c : Class} : Sound k o x r (u.fastFail b c) := h.write.queueUp

theorem exchangeOpened (h : Sound k o (b :: x) r u) {st : Station} {t : Tag} (hfree : u.exchange t = none)
    (hline : k ≠ .work → (u.dropUnit st.drop).line ≠ .disabled ∧ (u.dropUnit st.drop).line ≠ .fault)
    (hone : k = .hold → u.pool.count b = 1) : Sound k o x r (u.exchangeOpened b st t) := by
  obtain ⟨hqueue, hserving⟩ := h.work.free_unnamed hfree
  have hput : Sound k o (b :: x) r u → WorkLaw ((u.putExchange t (some (.opened st (seqOf (u.content b)) b))).hold b) :=
    fun h => (h.work.putExchange hqueue hserving).congr (fun _ => rfl) (fun _ => rfl) fun _ => rfl
  have hwork : WorkLaw (u.exchangeOpened b st t) := (hput h).joinQueue fun v hv => by
    obtain rfl := Work.exchange.inj hv
    exact ⟨⟨_, State.exchange_putExchange_self .., rfl, rfl⟩, fun jt hjt => hqueue _ jt hjt⟩
  have hunit : ∀ c, (u.exchangeOpened b st t).dropUnit c = (u.mapDrop st.drop (Drop.withQueue
      (enqueue { work := .exchange t, cls := st.cls, buffer := b } (u.dropUnit st.drop).queue))).dropUnit c := fun _ => rfl
  have hat : ∀ {α : Type} (F : Drop → α), (∀ (y : Drop) l, F (y.withQueue l) = F y) →
      ∀ c, F ((u.exchangeOpened b st t).dropUnit c) = F (u.dropUnit c) := fun F hF c => by
    rw [hunit]; exact State.mapDrop_at F (hF _ _) c
  have hlines := hat Drop.line fun _ _ => rfl
  have hservices := hat Drop.service fun _ _ => rfl
  have hservings : ∀ c, ((u.exchangeOpened b st t).dropUnit c).serving = (u.dropUnit c).serving := fun c => by
    simp only [Drop.serving, hservices]
  refine ⟨hwork, fun hk c hc => ?_, fun hk v f hf => ?_,
    fun hk => (h.hold hk).openExchange hfree rfl rfl rfl (hone hk)⟩
  · obtain ⟨h1, h2, h3, h4, h5⟩ := h.service hk c hc
    simp only [Drop.Served, hlines, hservices, hat Drop.mode fun _ _ => rfl, hat Drop.tx fun _ _ => rfl]
    refine ⟨h1, fun hl => ?_, h3, h4, h5⟩
    rw [hunit]
    by_cases hcd : c = st.drop
    · subst hcd; exact absurd hl (not_or.2 (hline hk))
    · rw [State.dropUnit_mapDrop_ne _ _ hcd]; exact h2 hl
  · have hf' : (u.putExchange t (some (.opened st (seqOf (u.content b)) b))).exchange v = some f := hf
    by_cases hv : v = t
    · subst hv
      rw [State.exchange_putExchange_self] at hf'
      obtain rfl := Option.some.inj hf'
      refine ⟨⟨⟨Nat.le_refl 1, by simp [Exchange.opened], Nat.zero_le _⟩, fun _ => ⟨Nat.zero_le _, Nat.zero_le _⟩, Nat.zero_le _⟩,
        fun _ hs => ?_⟩
      rw [hservings] at hs
      exact absurd hs (hserving _)
    · rw [State.exchange_putExchange_ne _ _ hv] at hf'
      obtain ⟨hall, hon⟩ := h.tally hk v f hf'
      exact ⟨hall, fun hc => (hon hc).congr (hlines _) fun hs => by rwa [hservings] at hs⟩

theorem openExchange (h : Sound k o (b :: x) r u) {st : Station} {t : Tag} (hd : ¬ o st.drop) (hfree : u.exchange t = none)
    (hline : k ≠ .work → (u.dropUnit st.drop).line ≠ .disabled ∧ (u.dropUnit st.drop).line ≠ .fault)
    (hone : k = .hold → u.pool.count b = 1) : Sound k o x r (u.openExchange b st t) := by
  rw [State.openExchange_eq]
  exact (h.exchangeOpened hfree hline hone).chooseWork hd

theorem admitLate (h : Sound k o (b :: x) r u) {st : Station} (hd : ¬ o st.drop)
    (hline : k ≠ .work → (u.dropUnit st.drop).line ≠ .disabled ∧ (u.dropUnit st.drop).line ≠ .fault)
    (hone : k = .hold → u.pool.count b = 1) : Sound k o x r (u.admitLate b st) := by
  unfold State.admitLate
  split
  · exact h.refuse
  · next t ht =>
    split
    · exact h.openExchange hd (State.freeTag_some ht) hline hone
    · exact h.refuse

theorem admitRequest (h : Sound k o (b :: x) r u) {st : Station} (hd : ¬ o st.drop)
    (hone : k = .hold → u.pool.count b = 1) : Sound k o x r (u.admitRequest b st) := by
  unfold State.admitRequest
  simp only
  split
  · exact h.refuse
  · next hready =>
    split
    · exact h.refuse
    · next hmode =>
      split
      · exact h.refuse
      · next hfault =>
        have hline : k ≠ .work → (u.dropUnit st.drop).line ≠ .disabled ∧ (u.dropUnit st.drop).line ≠ .fault :=
          fun hk => ⟨h.enabled_line hd (fun _ => hready) hmode hk, hfault⟩
        split
        · exact h.refuse
        · split
          · exact h.mapStation.admitLate hd hline hone
          · exact h.mapStation.admitLate hd hline hone
          · exact h.mapStation.fastFail

/-! ### Management (R142 to R164) -/

theorem handResult (h : Sound k o x r u) {n : Byte} {c : ResultCode} {op : Byte} {data : List Byte}
    (hb : u.mgmt.slot.buffer = some b) : Sound k o x r (u.handResult n b c op data) :=
  h.ofHeldSame (fun hk => (h.hold hk).handResult hb) (by simp) (by simp) (by simp)

theorem turnOver (h : Sound k o (b :: x) r u) {n : Byte} : Sound k o x r (u.turnOver n b) :=
  h.ofHeldSame (fun hk => (h.hold hk).turnOver) (by simp) (by simp) (by simp)

theorem duplicate (h : Sound k o (b :: x) r u) : Sound k o x r (u.duplicate b) :=
  h.ofHeldSame (fun hk => (h.hold hk).duplicate) (by simp) (by simp) (by simp)

theorem beginStore (h : Sound k o x r u) {n : Byte} (hb : u.mgmt.slot.buffer = some b)
    (hready : u.image.config ≠ .loading) : Sound k o x r (u.beginStore n b) := by
  refine h.ofHeldSame (fun hk => ?_) rfl rfl (fun hl => absurd hl hready)
  exact (h.hold hk).same (hslot := by rw [hb]; rfl)

theorem endStore (h : Sound k o x r u) {ok : Bool} (hstoring : u.image.config ≠ .loading) :
    Sound k o x r (u.endStore ok) := by
  have hended : Sound k o x r { u with
      image := { u.image with config := .ready, store := none }
      mgmt := { u.mgmt with store := if ok then .done else .failed } } :=
    h.same (himage := fun hl => absurd hl hstoring)
  unfold State.endStore
  simp only
  split
  · next n b hs =>
    have hslot : Sound k o x r { u with
        image := { u.image with config := .ready, store := none }
        mgmt := { u.mgmt with store := if ok then .done else .failed, slot := .inFlight n b false } } :=
      hended.same (hslot := by rw [hs]; rfl)
    exact hslot.handResult rfl
  · exact hended
  · exact hended
  · exact hended

theorem writeStation (h : Sound k o x r u) {a : Byte} {f : StationFields} : Sound k o x r (u.writeStation a f).1 :=
  h.same (by simp) (by simp) (by simp) (by simp) (by simp) (by simp) (by simp) (by simp) (by simp)

theorem writeSettings (h : Sound k o x r u) {f : SettingsFields} : Sound k o x r (u.writeSettings f).1 := by
  unfold State.writeSettings
  simp only
  split
  · simp only
    split
    · exact h.same
    · exact h.same
  · exact h

theorem readCounters (h : Sound k o x r u) {clear : Bool} {g : CounterGroup} : Sound k o x r (u.readCounters clear g).1 := by
  unfold State.readCounters
  split <;> simp only <;> split
  · exact h.mapTrunkCounters
  · exact h
  · exact h.mapDropCounters
  · exact h

theorem carryOut (h : Sound k nobody x r u) {z : MgmtRequest} : Sound k nobody x r (u.carryOut z).1 := by
  cases z with
  | writeStation a f => exact h.writeStation
  | removeStation a force => exact h.removeStation
  | cancelExchange a => exact h.cancelExchange
  | setDrop d mode rate => exact h.setDrop id
  | readCounters g clear => exact h.readCounters
  | writeSettings f => exact h.writeSettings
  | readStation a => simp only [State.carryOut]; split <;> exact h
  | _ => exact h

/-- A new request judged, its buffer in the slot (R148). -/
theorem judge (h : Sound k nobody [] 0 u) {n : Byte} {body : List Byte} (hb : u.mgmt.slot.buffer = some b) :
    Sound k nobody [] 0 (u.judge n b body) := by
  have hdone : ∀ z op, Sound k nobody [] 0 ((u.carryOut z).1.handResult n b (u.carryOut z).2.1 op (u.carryOut z).2.2) :=
    fun z op => h.carryOut.handResult (by rw [State.carryOut_slot]; exact hb)
  unfold State.judge
  split
  · exact h.handResult hb
  · split
    · exact h.handResult hb
    · split
      · exact h.handResult hb
      · split
        · split
          · exact h.handResult hb
          · exact hdone _ _
        · exact h.handResult hb
      · next hready =>
        split
        · exact h.handResult hb
        · exact h.beginStore hb (by rw [hready]; decide)
        · exact restart u _ _
        · exact hdone _ _

theorem manage (h : Sound k nobody [b] 0 u) : Sound k nobody [] 0 (u.manage b) := by
  unfold State.manage
  simp only
  split
  · exact h.duplicate
  · exact h.turnOver.judge rfl

end Sound
end Sys2Proof.Machine
end

section
/-! PROOFS. The laws of the work through the receivers and the commands of the line family (R7 to R15, R55). -/

namespace Sys2Proof.Machine

set_option Elab.async false

theorem State.rx_countBroken (s : State) (l m : Line) : (s.countBroken l).rx m = s.rx m := by
  cases l with
  | trunk => cases m <;> rfl
  | drop d => exact State.rx_mapDrop rfl m

namespace Sound

variable {k : Scope} {o : DropId → Prop} {x : List BufId} {r : Nat} {s u : State} {d : DropId} {b : BufId} {l : Line}

/-! ### Classification (R55 to R63) -/

theorem loadingDisposal (h : Sound k o (b :: x) r u) : Sound k o x r (u.loadingDisposal b) := by
  unfold State.loadingDisposal
  split
  · exact h.refuse
  · exact h.release

theorem unknownDestination (h : Sound k o (b :: x) r u) : Sound k o x r (u.unknownDestination b) := by
  unfold State.unknownDestination
  split
  · exact h.refuse
  · exact h.mapTrunkCounters.release

theorem classify (h : Sound k nobody [b] 0 u) (hone : k = .hold → u.pool.count b = 1) :
    Sound k nobody [] 0 (u.classify b) := by
  unfold State.classify
  simp only
  split
  · exact h.mapTrunkCounters.release
  · split
    · split
      · exact h.manage
      · exact h.mapTrunkCounters.release
    · split
      · split
        · exact h.mapTrunkCounters.release
        · exact h.broadcast
      · split
        · exact h.mapTrunkCounters.release
        · split
          · exact h.loadingDisposal
          · next hready =>
            split
            · split
              · exact h.admitRequest id hone
              · exact h.stationNotice id fun _ => hready
            · exact h.unknownDestination

theorem trunkArrival (h : Sound k nobody [b] 0 u) (hone : k = .hold → u.pool.count b = 1) :
    Sound k nobody [] 0 (u.trunkArrival b) :=
  (h.mapTrunkCounters.classify hone).arbitrate

/-! ### Frames begun, abandoned, ended (R8 to R14) -/

theorem heard (h : Sound k o x r u) {n : Nat} (hl : ∀ d, l = .drop d → ¬ o d) : Sound k o x r (u.heard n l) := by
  unfold State.heard
  split
  · exact h
  · next d =>
    have hd := hl d rfl
    by_cases hidle : (u.dropUnit d).line = .idle
    · refine h.setLine (fun _ => .inl) (fun hk => ?_) fun hk t e he hed hs => ?_
      · obtain ⟨h1, -, -, -, h5⟩ := h.service hk d hd
        have hno := h1 (.inr (.inl hidle))
        refine .waiting (.inl ?_) (fun it a hit => ?_) ?_
        · simp [Drop.heard, Drop.atMark, hidle]
        · exact nomatch (hno.symm.trans hit : none = some it)
        · exact (h.service hk d hd).not_sends (by rw [hidle]; decide)
      · have hno := (h.service (by simp [hk]) d hd).1 (.inr (.inl hidle))
        exact absurd hs (by simp [Drop.heard, Drop.atMark, Drop.serving, hno])
    · exact h.mapDrop (hline := by simp [Drop.heard, Drop.atMark, hidle])

theorem frameLost (h : Sound k nobody x r u) : Sound k nobody x r (u.frameLost l) := by
  unfold State.frameLost
  split
  · exact h
  · exact h.afterFrame id

theorem abandon (h : Sound k nobody x r u) {next : RxState} (hnext : next ≠ .assemble := by nofun) :
    Sound k nobody x r (u.abandon l next) := (h.countBroken.dropFrame hnext).frameLost

/-- A SOF taken by a drop (R83). -/
theorem sofTaken (h : Sound k nobody x r u) : Sound k nobody x r (u.mapDrop d Drop.sofTaken) := by
  by_cases hline : (u.dropUnit d).line = .listening
  · have hno : (u.dropUnit d).line ≠ .sending := by rw [hline]; decide
    have htaken : (u.dropUnit d).sofTaken = { u.dropUnit d with line := .receiving } := by simp [Drop.sofTaken, hline]
    refine h.setLine (fun _ => .inl) (fun hk => ?_) (fun _ _ _ _ _ => .listening (.inr (by rw [htaken]))) (by simp) (by simp)
      (by simp)
    rw [htaken]
    exact .waiting (.inr (.inr rfl)) ((h.service hk d id).no_notice hno) ((h.service hk d id).not_sends hno)
  · exact h.mapDrop (by simp [Drop.sofTaken, hline]) (by simp) (by simp) (by simp) (by simp) (by simp)

theorem beginFrame (h : Sound k nobody x 0 u) {p : Pool} (hp : u.pool.take = some (b, p)) (hmay : u.mayTake l = true)
    (hl : (u.rx l).state ≠ .assemble) : Sound k nobody x 0 (State.beginFrame { u with pool := p } l b) := by
  have hfilled : ∀ v : Receiver, v.slot = some b → v.state = .assemble →
      Sound k nobody x 0 (State.setRx { u with pool := p } l v) := fun v hv hst => by
    have hunit : ∀ c, (State.setRx { u with pool := p } l v).dropUnit c = (u.setRx l v).dropUnit c := fun c => by
      cases l <;> rfl
    refine h.ofHeld (fun w => by cases l <;> rfl) (fun c => ?_) (fun c => ?_) (fun c => ?_) (fun c => ?_) (fun c => ?_)
      (by simp) fun hk => (h.hold hk).fillSlot hp hmay hl hv hst
    · rw [hunit]; exact (u.setRx_work l v c).2.2.1
    · rw [hunit]; exact (u.setRx_work l v c).2.2.2.1
    · rw [hunit]; exact (u.setRx_work l v c).2.2.2.2
    · rw [hunit]; exact (u.setRx_work l v c).1
    · rw [hunit]; exact (u.setRx_work l v c).2.1
  unfold State.beginFrame
  simp only
  cases l with
  | trunk => exact hfilled _ rfl rfl
  | drop d =>
    exact (hfilled _ rfl rfl).sofTaken

theorem refuseSof (h : Sound k o x r u) (hl : (u.rx l).state ≠ .assemble) : Sound k o x r (u.refuseSof l) := by
  unfold State.refuseSof
  split
  · exact (h.setRxIdle hl).mapTrunkCounters
  · exact h

theorem acceptSof (h : Sound k nobody x 0 u) (hl : (u.rx l).state ≠ .assemble) : Sound k nobody x 0 (u.acceptSof l) := by
  unfold State.acceptSof
  split
  · next hmay =>
    split
    · next hp => exact h.beginFrame hp hmay hl
    · exact h.refuseSof hl
  · exact h.refuseSof hl

theorem restartFrame (h : Sound k nobody x r u) : Sound k nobody x r (u.restartFrame l) := by
  have hover : ∀ l, Sound k nobody x r (u.startedOver l) := fun l => by
    have hstate := congrArg Receiver.state (u.rx_countBroken l l)
    have hslot := congrArg Receiver.slot (u.rx_countBroken l l)
    unfold State.startedOver
    simp only
    split
    · exact h.countBroken.write.setRx (hstate.symm.trans (by cases l <;> rfl)) (hslot.symm.trans (by cases l <;> rfl))
    · exact h.countBroken.setRx hstate.symm hslot.symm
  cases l with
  | trunk => rw [State.restartFrame_trunk]; exact hover .trunk
  | drop d =>
    rw [State.restartFrame_drop]
    split
    · exact (hover _).afterFrame id
    · exact hover _

theorem storeByte (h : Sound k nobody x r u) {v : Byte} : Sound k nobody x r (u.storeByte l v) := by
  unfold State.storeByte
  simp only
  split
  · exact h
  · split
    · exact h.abandon
    · exact h.write.setRx (by cases l <;> rfl) (by cases l <;> rfl)

/-- A valid frame handed to the owner of its line (R14). -/
theorem handOver (h : Sound k nobody [] 0 u) (hb : (u.rx l).slot = some b) : Sound k nobody [] 0 (u.handOver l b) := by
  have hemptied : Sound k nobody [b] (0 + reservedFor l) (u.setRx l Receiver.idle) :=
    h.ofSetRx fun hk => (h.hold hk).emptySlot hb
  have hfresh : k = .hold → (u.setRx l Receiver.idle).places.count b = 0 ∧ ([] : List BufId).count b = 0 := fun hk =>
    (h.hold hk).emptySlot_fresh hb
  unfold State.handOver
  simp only
  cases l with
  | trunk =>
    refine hemptied.trunkArrival fun hk => ?_
    rw [(hemptied.hold hk).count, (hfresh hk).1, List.count_singleton_self]
  | drop d => exact hemptied.matchFrame id hfresh

theorem endFrame (h : Sound k nobody [] 0 u) : Sound k nobody [] 0 (u.endFrame l) := by
  unfold State.endFrame
  simp only
  split
  · exact h
  · next hb =>
    split
    · exact h.handOver hb
    · exact (h.countBad.dropFrame).frameLost

theorem assembleChar (h : Sound k nobody [] 0 u) {v : Byte} : Sound k nobody [] 0 (u.assembleChar l v) := by
  unfold State.assembleChar
  simp only
  split
  · exact h.restartFrame
  · split
    · exact h.abandon
    · split
      · split
        · exact h.storeByte
        · exact h.abandon
      · split
        · exact h.endFrame
        · split
          · exact h.setRx
          · exact h.storeByte

theorem takeChar (h : Sound k nobody [] 0 u) {v : Byte} : Sound k nobody [] 0 (u.takeChar l v) := by
  have hheard : Sound k nobody [] 0 (u.heard (marksAtEnd v) l) := h.heard fun _ _ => id
  unfold State.takeChar
  simp only
  split
  · exact hheard
  · split
    · next hst =>
      split
      · exact hheard.acceptSof (by rw [hst]; decide)
      · exact hheard
    · next hst =>
      split
      · exact hheard.acceptSof (by rw [hst]; decide)
      · split
        · exact hheard.setRxIdle (by rw [hst]; decide)
        · exact hheard
    · exact hheard.assembleChar

theorem charAt (h : Sound k nobody [] 0 u) {a : LineAt} {v : Byte} : Sound k nobody [] 0 (u.charAt a v) :=
  h.advance.takeChar

theorem framingLost (h : Sound k nobody x r u) : Sound k nobody x r (u.framingLost l) := by
  unfold State.framingLost
  split
  · exact h.abandon
  · exact h

theorem breakFound (h : Sound k o x r u) : Sound k o x r (u.breakFound l) := by
  unfold State.breakFound
  split
  · exact h
  · exact h.mapDrop (by simp) (by simp) (by simp) (by simp) (by simp) (by simp)

theorem breakLost (h : Sound k nobody x r u) : Sound k nobody x r (u.breakLost l) := by
  unfold State.breakLost
  split
  · exact h
  · next hst => exact h.setRxIdle (by rw [hst]; decide)
  · exact h.abandon

theorem gapEnded (h : Sound k nobody x r u) : Sound k nobody x r (u.gapEnded l) := by
  unfold State.gapEnded
  split
  · exact h
  · exact h.advance.abandon

/-! ### The timers (R87, R89, R90, R92, R111) -/

theorem windowEnded (h : Sound k nobody x r u) : Sound k nobody x r (u.windowEnded d) := by
  unfold State.windowEnded
  split
  · exact h
  · split
    · next hline => exact h.advance.takeExpiry id (.inl hline)
    · split
      · exact h.advance.mapDrop
      · exact h

theorem guardEnded (h : Sound k nobody x r u) : Sound k nobody x r (u.guardEnded d) := by
  unfold State.guardEnded
  split
  · next hline => exact (h.advance.endGuard id hline).arbitrate
  · exact h

theorem deadlineEnded (h : Sound k nobody x r u) {t : Tag} : Sound k nobody x r (u.deadlineEnded t) := by
  unfold State.deadlineEnded
  split
  · exact h
  · next e he =>
    split
    · next hst =>
      refine chooseWork (u := u.fetchDueSince t e (e.deadline.getD u.now)) ?_ id
      refine h.advance.changeExchange he (by simp [hst]) (by simp [Exchange.inService, hst]) (fun _ ht => ?_)
        fun _ _ hon hs => ⟨fun hl => ⟨((hon hs).1 hl).1, by simp⟩, (hon hs).2⟩
      obtain ⟨hcounts, hnot, hlimit⟩ := ht
      exact ⟨hcounts, fun _ => hnot (by simp [hst]), hlimit⟩
    · exact h

theorem breakMeasured (h : Sound k nobody x r u) : Sound k nobody x r (u.breakMeasured d) := by
  unfold State.breakMeasured
  split
  · exact h
  · split
    · exact h
    · next hline => exact (h.advance.enterFault id fun hl => hline (.inl hl)).arbitrate

theorem markingMeasured (h : Sound k nobody x r u) : Sound k nobody x r (u.markingMeasured d) := by
  unfold State.markingMeasured
  split
  · next n hline _ =>
    have hno : (u.dropUnit d).line ≠ .sending := by rw [hline]; decide
    have hleft : ∀ m, Sound k (fun c => nobody c ∨ c = d) x r (u.faultLeft d m) := fun m =>
      (h.advance.weaken fun _ => .inl).mapExempt (.inr rfl)
    have hunit : ∀ m, (u.faultLeft d m).dropUnit d = (u.dropUnit d).recovered (u.advance m).now := fun m =>
      State.dropUnit_mapDrop_self ..
    split
    · refine (hleft _).enterIdle (fun _ => id) id (fun hk => ?_) fun hk => ?_
      · rw [hunit]; exact (h.service hk d id).1 (.inr (.inr hline))
      · rw [hunit]; exact (h.service hk d id).not_sends hno
    · next hmode =>
      refine (hleft _).settle d (fun _ => id) (fun hk => ?_) fun hk _ _ _ _ => .unserved ?_
      · rw [hunit]
        refine .cleared ((h.service hk d id).1 (.inr (.inr hline))) ((h.service hk d id).2.1 (.inr hline)) nofun
          (fun _ => .inl ?_) ((h.service hk d id).not_sends hno)
        change (u.dropUnit d).mode = .disabled
        cases hm : (u.dropUnit d).mode
        · rfl
        · exact absurd hm hmode
      · rw [hunit]; exact (h.service (by simp [hk]) d id).1 (.inr (.inr hline))
  · exact h

/-! ### Transmitters (R17, R20, R136) -/

theorem dropEofSent (h : Sound k nobody x r u) (hlimits : k = .tally → RangeLaw u) : Sound k nobody x r (u.dropEofSent d) := by
  unfold State.dropEofSent
  split
  · split
    · next hline => exact (h.advance.dropFrameSent id hline fun hk => hlimits hk).arbitrate
    · exact h
  · exact h
  · exact h

theorem trunkRateDue (h : Sound k o x r u) {n : Rate} : Sound k o x r (u.trunkRateDue n) := by
  unfold State.trunkRateDue
  split
  · exact h
  · have hrx : Sound k o x r (if u.trunk.rx.state = .assemble then (u.countBroken .trunk).dropFrame .trunk .hunt
        else u.setRx .trunk Receiver.idle) := by
      split
      · exact h.countBroken.dropFrame
      · next hst => exact h.setRxIdle hst
    exact hrx.same

theorem settingsDue (h : Sound k o x r u) : Sound k o x r u.settingsDue := by
  have hset : Sound k o x r { u with
      settings := { u.settings with ownAddress := u.mgmt.pendingAddress.getD u.settings.ownAddress }
      mgmt := { u.mgmt with pendingAddress := none, pendingRate := none } } := h.same
  unfold State.settingsDue
  simp only
  split
  · exact hset
  · exact hset.trunkRateDue

theorem resultSent (h : Sound k o x r u) : Sound k o x r (u.resultSent b) := by
  unfold State.resultSent
  split
  · exact h
  · next hs =>
    split
    · refine settingsDue (u := { u with mgmt := _ }) (h.setSlot fun a => ?_)
      rw [hs]; rfl
    · exact h
  · split
    · exact h.settingsDue
    · exact h

theorem trunkIdle (h : Sound k o x r u) {n : Nat} {m : Rate} {began : Nat} (htx : u.trunk.tx = .sending (.pool b) m began) :
    Sound k o (b :: x) r (u.trunkIdleAt n) := h.ofHeldSame fun hk => (h.hold hk).trunkIdle htx

theorem trunkEofSent (h : Sound k o x r u) : Sound k o x r u.trunkEofSent := by
  unfold State.trunkEofSent
  split
  · next src m began htx =>
    refine arbitrate ?_
    cases src with
    | pool b => exact (h.trunkIdle htx).release.resultSent
    | notice => exact h.same (htx := by rw [htx]; rfl)
    | fetch c => exact h.same (htx := by rw [htx]; rfl)
  · exact h
  · exact h

theorem abtSent (h : Sound k nobody x r u) : Sound k nobody x r (u.abtSent l) := by
  unfold State.abtSent
  split
  · next last m began htx =>
    cases l with
    | trunk =>
      have hidle : Sound k nobody x r (u.trunkIdleAt (began + 2 * charTime m)) :=
        h.same (htx := by rw [show u.trunk.tx = _ from htx]; rfl)
      exact hidle.arbitrate
    | drop d =>
      have hunit : ∀ v : State, (v.dropIdleNow d).dropUnit d = { v.dropUnit d with tx := .idle, lastChar := v.now } :=
        fun v => State.dropUnit_mapDrop_self ..
      have hidle : Sound k nobody x r ((u.advance (began + 2 * charTime m)).dropIdleNow d) := by
        have hexempt : Sound k (fun c => nobody c ∨ c = d) x r ((u.advance (began + 2 * charTime m)).dropIdleNow d) :=
          (h.advance.weaken fun _ => .inl).mapExempt (.inr rfl)
        refine hexempt.settle d (fun _ => id) (fun hk => ?_) fun hk t e he hed => ?_
        · rw [hunit]
          obtain ⟨h1, h2, h3, h4, h5⟩ := h.service hk d id
          refine ⟨h1, h2, h3, h4, ⟨fun hl => ?_, fun ⟨_, _, _, hs⟩ => nomatch hs⟩⟩
          obtain ⟨src, n, began', hs⟩ := h5.1 hl
          exact nomatch ((show (u.dropUnit d).tx = _ from htx).symm.trans hs)
        · rw [hunit]
          obtain ⟨-, hon⟩ := h.tally hk t e he
          rw [hed] at hon
          exact hon id
      exact hidle.chooseWork id
  · exact h
  · exact h

end Sound
end Sys2Proof.Machine
end

section
/-! PROOFS. The laws of the work through the load and the store (R171 to R185), and so in every step. -/

namespace Sys2Proof.Machine

set_option Elab.async false

/-! ### What a drop's entry to IDLE leaves of the other drops -/

theorem State.setRx_dropUnit_ne (s : State) {d c : DropId} (v : Receiver) (h : c ≠ d) :
    (s.setRx (.drop d) v).dropUnit c = s.dropUnit c := s.dropUnit_mapDrop_ne _ h

theorem State.holdReceiver_dropUnit_ne (s : State) {d c : DropId} (counted : Bool) (h : c ≠ d) :
    (s.holdReceiver d counted).dropUnit c = s.dropUnit c := by
  have hdrop : ∀ u : State, (u.dropFrame (.drop d) .hunt).dropUnit c = u.dropUnit c := fun u => by
    unfold State.dropFrame
    simp only
    split <;> exact u.setRx_dropUnit_ne _ h
  unfold State.holdReceiver
  split
  · rw [hdrop]
    split
    · exact s.dropUnit_mapDrop_ne _ h
    · rfl
  · exact s.setRx_dropUnit_ne _ h

theorem State.startSending_dropUnit_ne (s : State) {d c : DropId} (src : TxSource) (h : c ≠ d) :
    (s.startSending d src).dropUnit c = s.dropUnit c := by
  unfold State.startSending
  rw [State.dropUnit_mapDrop_ne _ _ h, s.holdReceiver_dropUnit_ne true h]

theorem State.startFetch_dropUnit_ne (s : State) {d c : DropId} (t : Tag) (h : c ≠ d) :
    (s.startFetch d t).dropUnit c = s.dropUnit c := by
  cases he : s.exchange t with
  | none => simp [State.startFetch, he]
  | some e =>
    rw [State.startFetch_eq he, State.startSending_dropUnit_ne _ _ h]
    exact State.dropUnit_mapDrop_ne _ _ h

theorem State.startItem_dropUnit_ne (s : State) {d c : DropId} (it : Item) (rest : List Item) (h : c ≠ d) :
    (s.startItem d it rest).dropUnit c = s.dropUnit c := by
  rw [State.startItem_eq, State.startSending_dropUnit_ne _ _ h, Sound.itemTaken_dropUnit, State.dropUnit_mapDrop_ne _ _ h]

theorem State.chooseWork_dropUnit_ne (s : State) {d c : DropId} (h : c ≠ d) :
    (s.chooseWork d).dropUnit c = s.dropUnit c := by
  unfold State.chooseWork
  split
  · split
    · rfl
    · exact s.startFetch_dropUnit_ne _ h
    · exact s.startItem_dropUnit_ne _ _ h
    · split
      · exact s.startFetch_dropUnit_ne _ h
      · exact s.startItem_dropUnit_ne _ _ h
  · rfl

theorem State.applyRate_dropUnit_ne (s : State) {d c : DropId} (h : c ≠ d) :
    (s.applyRate d).dropUnit c = s.dropUnit c := by
  unfold State.applyRate
  split
  · rfl
  · split
    · exact s.dropUnit_mapDrop_ne _ h
    · rw [State.dropUnit_mapDrop_ne _ _ h, s.holdReceiver_dropUnit_ne true h]

theorem State.enterIdle_dropUnit_ne (s : State) {d c : DropId} (h : c ≠ d) :
    (s.enterIdle d).dropUnit c = s.dropUnit c := by
  unfold State.enterIdle
  rw [State.chooseWork_dropUnit_ne _ h, State.applyRate_dropUnit_ne _ h, State.dropUnit_mapDrop_ne _ _ h]

/-- A drop with nothing to do while the load lasts: what LoadingLaw and ServiceLaw say of it. -/
def Drop.Awaits (x : Drop) : Prop := x.line = .disabled ∧ x.queue = [] ∧ x.service = none ∧ ¬ x.tx.Sends

/-- A load ended with a result, its drops still to be released (R180). -/
def State.loadEnded (s : State) (result : LoadResult) : State :=
  { s with image := { s.image with config := .ready, result := result, load := none } }

theorem State.finishLoad_eq (s : State) (result : LoadResult) :
    s.finishLoad result = (List.finRange 4).foldl State.releaseDrop (s.loadEnded result) := rfl

theorem State.loadReverted_dropUnit (s : State) (d : DropId) :
    s.loadReverted.dropUnit d = { s.dropUnit d with mode := .disabled, pendingRate := none } :=
  State.dropUnit_of_map (f := fun (x : Drop) => { x with mode := .disabled, pendingRate := none }) rfl d

theorem State.releaseDrop_dropUnit_ne (s : State) {d c : DropId} (h : c ≠ d) :
    (s.releaseDrop d).dropUnit c = s.dropUnit c := by
  unfold State.releaseDrop
  simp only
  split
  · rw [State.enterIdle_dropUnit_ne _ h, State.dropUnit_mapDrop_ne _ _ h]
  · exact s.dropUnit_mapDrop_ne _ h

namespace Sound

variable {k : Scope} {o : DropId → Prop} {x : List BufId} {r : Nat} {s u : State} {d : DropId} {b : BufId}

/-! ### The load -/

theorem putLoad (h : Sound k o x r u) {l : Load} : Sound k o x r (u.putLoad l) := h.same

theorem skipRecord (h : Sound k o x r u) : Sound k o x r u.skipRecord := h.same

theorem takeRecord (h : Sound k o x r u) {type : Byte} {fields : List Byte} {act : State → Load → State}
    (hact : ∀ v l, v.image.config = .loading → Sound k o x r v → Sound k o x r (act v l)) :
    Sound k o x r (u.takeRecord type fields act) := by
  unfold State.takeRecord
  split
  · exact h
  · next hl =>
    obtain ⟨hc, -, -⟩ := State.recordLoad_some hl
    simp only
    split
    · exact h
    · split
      · exact h.skipRecord.putLoad
      · exact hact _ _ hc h.putLoad

theorem actSettings (h : Sound k o x r u) {fields : List Byte} {l : Load} :
    Sound k o x r (State.actSettings fields u l) := by
  unfold State.actSettings
  split
  · exact h.skipRecord
  · exact h.putLoad

theorem actDrop (h : Sound k nobody x r u) {fields : List Byte} {l : Load} (hc : u.image.config = .loading) :
    Sound k nobody x r (State.actDrop fields u l) := by
  unfold State.actDrop
  split
  · next drop mode rate =>
    split
    · refine h.setLine (fun _ => .inl) (fun hk => ?_) fun hk t e he hed => ?_
      · obtain ⟨h1, h2, h3, -, h5⟩ := h.service hk (dropOf drop) id
        exact ⟨h1, h2, h3, fun _ => .inr hc, h5⟩
      · obtain ⟨-, hon⟩ := h.tally hk t e he
        rw [hed] at hon
        exact hon id
    · exact h.skipRecord
  · exact h.skipRecord

theorem actStation (h : Sound k o x r u) {fields : List Byte} {l : Load} :
    Sound k o x r (State.actStation fields u l) := by
  unfold State.actStation
  split
  · exact h.skipRecord
  · exact h.same

/-- A drop released at the end of a load (R98, R180). -/
theorem releaseDrop {q : DropId → Prop} (h : Sound k q x r u) (hq : ∀ c, q c → o c ∨ c = d) (hd : ¬ o d)
    (hawaits : k ≠ .work → (u.dropUnit d).Awaits) : Sound k o x r (u.releaseDrop d) := by
  have hmeasured : Sound k (fun c => o c ∨ c = d) x r (u.mapDrop d
      (fun y => { y with breakSince := if y.rxSpace then some u.now else none })) := (h.weaken hq).mapExempt (.inr rfl)
  have hunit := State.dropUnit_mapDrop_self u d (fun y => { y with breakSince := if y.rxSpace then some u.now else none })
  unfold State.releaseDrop
  simp only
  split
  · refine hmeasured.enterIdle (fun _ => id) hd (fun hk => ?_) fun hk => ?_
    · rw [hunit]; exact (hawaits hk).2.2.1
    · rw [hunit]; exact (hawaits hk).2.2.2
  · next hmode =>
    refine hmeasured.settle d (fun _ => id) (fun hk => ?_) fun hk _ _ _ _ => .unserved ?_
    · obtain ⟨hline, hqueue, hservice, htx⟩ := hawaits hk
      rw [hunit] at hmode ⊢
      refine .cleared hservice hqueue (by rw [hline]; decide) (fun _ => .inl ?_) htx
      cases hm : (u.dropUnit d).mode
      · rfl
      · exact absurd hm hmode
    · rw [hunit]; exact (hawaits (by simp [hk])).2.2.1

theorem releaseDrops {l : List DropId} (hl : l.Nodup) {v : State} (hv : Sound k (· ∈ l) x r v)
    (hawaits : k ≠ .work → ∀ d ∈ l, (v.dropUnit d).Awaits) : Sound k nobody x r (l.foldl State.releaseDrop v) := by
  induction l generalizing v with
  | nil => exact hv.weaken fun d hd => by cases hd
  | cons d l ih =>
    obtain ⟨hd, hl⟩ := List.nodup_cons.1 hl
    refine ih hl (hv.releaseDrop (fun c hc => (List.mem_cons.1 hc).symm) hd fun hk => hawaits hk d List.mem_cons_self)
      fun hk c hc => ?_
    rw [State.releaseDrop_dropUnit_ne (d := d) (c := c) v fun hcd => hd (hcd ▸ hc)]
    exact hawaits hk c (List.mem_cons_of_mem d hc)

/-- READY entered from a load (R180). -/
theorem finishLoad (h : Sound k nobody x r u) {result : LoadResult} (hloading : k ≠ .work → LoadingLaw u)
    (hc : u.image.config = .loading) : Sound k nobody x r (u.finishLoad result) := by
  have hawaits : k ≠ .work → ∀ d, (u.dropUnit d).Awaits := fun hk d => by
    obtain ⟨hline, hqueue, -⟩ := (hloading hk hc).2 d
    exact ⟨hline, hqueue, (h.service hk d id).1 (.inl hline), (h.service hk d id).not_sends (by rw [hline]; decide)⟩
  have hready : Sound k (· ∈ List.finRange 4) x r (u.loadEnded result) :=
    ⟨h.work.congr (fun _ => rfl) (fun _ => rfl) fun _ => rfl, fun _ d hd => absurd (List.mem_finRange d) hd,
      fun hk t e he => ⟨(h.tally hk t e he).1, fun hd => absurd (List.mem_finRange _) hd⟩, fun hk => (h.hold hk).same⟩
  rw [State.finishLoad_eq]
  exact releaseDrops (List.nodup_finRange 4) hready fun hk d _ => hawaits hk d

theorem failLoad (h : Sound k nobody x r u) {result : LoadResult} (hloading : k ≠ .work → LoadingLaw u)
    (hc : u.image.config = .loading) : Sound k nobody x r (u.failLoad result) := by
  have hunit := u.loadReverted_dropUnit
  have hreverted : Sound k nobody x r u.loadReverted := by
    refine ⟨h.work.congr (fun _ => rfl) (fun d => by rw [hunit]) fun d => by rw [hunit], fun hk d hd => ?_,
      fun hk t e he => ⟨(h.tally hk t e he).1, fun hd => ?_⟩, fun hk => ?_⟩
    · obtain ⟨h1, h2, h3, -, h5⟩ := h.service hk d hd
      rw [hunit]
      exact ⟨h1, h2, h3, fun _ => .inl rfl, h5⟩
    · rw [hunit]; exact (h.tally hk t e he).2 hd
    · have hplaces : ∀ b, u.loadReverted.places.count b = u.places.count b := fun b =>
        State.places_congr (s := u) (t := u.loadReverted) rfl (fun d b => by rw [hunit]; rfl) rfl rfl rfl rfl rfl b
      have hrx : ∀ l, u.loadReverted.rx l = u.rx l := fun l => by
        cases l with
        | trunk => rfl
        | drop d => change (u.loadReverted.dropUnit d).rx = _; rw [hunit]; rfl
      exact (h.hold hk).moved rfl (fun b => by rw [hplaces])
        (by rw [State.slotsHeld_congr fun d => congrArg Receiver.slot (hrx (.drop d))])
        ((h.hold hk).receiver.congr hrx fun _ _ _ => rfl)
        ((h.hold hk).request.congr (fun _ => rfl) (fun d => by rw [hunit]) (fun d => by rw [hunit]) fun _ _ _ => rfl)
  rw [State.failLoad_eq]
  refine hreverted.finishLoad (fun hk _ => ?_) hc
  obtain ⟨hexch, hdrops⟩ := hloading hk hc
  exact ⟨hexch, fun d => by rw [hunit]; exact hdrops d⟩

theorem succeedLoad (h : Sound k nobody x r u) {g : Staged} (hloading : k ≠ .work → LoadingLaw u)
    (hc : u.image.config = .loading) : Sound k nobody x r (u.succeedLoad g) := by
  have hset : Sound k nobody x r (u.stagedInForce g) := h.same
  rw [State.succeedLoad_eq]
  refine (hset.trunkRateDue (n := g.trunkRate.getD u.trunk.rate)).finishLoad (fun hk _ => ?_)
    (by rw [((u.stagedInForce g).trunkRateDue_keeps _).2.2.2.2.2.2.2.1]; exact hc)
  obtain ⟨hexch, hdrops⟩ := hloading hk hc
  have hsame := (u.stagedInForce g).trunkRateDue_keeps (g.trunkRate.getD u.trunk.rate)
  refine ⟨fun t => ?_, fun d => ?_⟩
  · simp only [State.exchange, hsame]; exact hexch t
  · simp only [State.dropUnit, hsame]; exact hdrops d

theorem judgeHeader (h : Sound k nobody x r u) {l : Load} {bytes : List Byte} (hloading : k ≠ .work → LoadingLaw u)
    (hc : u.image.config = .loading) : Sound k nobody x r (u.judgeHeader l bytes) := by
  unfold State.judgeHeader
  split
  · simp only
    split
    · exact h.putLoad
    · exact h.failLoad hloading hc
  · exact h

theorem headerRead (h : Sound k nobody x r u) {bytes : List Byte} (hloading : k ≠ .work → LoadingLaw u) :
    Sound k nobody x r (u.headerRead bytes) := by
  unfold State.headerRead
  split
  · next hc _ =>
    split
    · exact h.judgeHeader hloading hc
    · exact h
  · exact h

theorem stopRecords (h : Sound k o x r u) {l : Load} {bs : List Byte} : Sound k o x r (u.stopRecords l bs) := h.putLoad

theorem endRecordRead (h : Sound k o x r u) {rest : List Byte} : Sound k o x r (u.endRecordRead rest) := by
  unfold State.endRecordRead
  split
  · exact h
  · refine stopRecords ?_
    split
    · exact h.skipRecord
    · exact h

theorem truncatedRead (h : Sound k o x r u) {bytes : List Byte} : Sound k o x r (u.truncatedRead bytes) := by
  unfold State.truncatedRead
  split
  · exact h
  · split
    · exact h
    · exact h.skipRecord.stopRecords

theorem checkRead (h : Sound k nobody x r u) {high low : Byte} (hloading : k ≠ .work → LoadingLaw u) :
    Sound k nobody x r (u.checkRead high low) := by
  unfold State.checkRead
  split
  · next hc _ =>
    split
    · unfold State.judgeCheck
      split
      · exact h.succeedLoad hloading hc
      · exact h.failLoad hloading hc
    · exact h
  · exact h

/-! ### The store -/

theorem takeWrite (h : Sound k o x r u) {w : Nat × List Byte} : Sound k o x r (u.takeWrite w) := h.same

theorem takePart (h : Sound k o x r u) {f : PortFailure} {w : Nat × List Byte} : Sound k o x r (u.takePart f w) :=
  h.same

theorem portFails (h : Sound k nobody x r u) {f : PortFailure} (hloading : k ≠ .work → LoadingLaw u) :
    Sound k nobody x r (u.portFails f) := by
  unfold State.portFails
  split
  · next hc _ => exact h.failLoad hloading hc
  · next hc _ => exact h.takePart.endStore (by simp [hc])
  · exact h
  · exact h
  · exact h

theorem writeAcknowledged (h : Sound k o x r u) : Sound k o x r u.writeAcknowledged := by
  unfold State.writeAcknowledged
  split
  · next hc _ =>
    split
    · exact h.takeWrite.same
    · exact (h.takeWrite.endStore (by rw [show (u.takeWrite _).image = u.image from rfl, hc]; decide)).arbitrate
  · exact h

/-! ### Every command -/

theorem after (h : Sound k nobody [] 0 s) (hloading : k ≠ .work → LoadingLaw s) (hlimits : k = .tally → RangeLaw s)
    (i : Instr) : Sound k nobody [] 0 (s.after i) := by
  cases i with
  | coldReset straps => exact coldReset s straps
  | sofReceived a => exact h.charAt
  | contentCharacter a v => exact h.charAt
  | eofReceived a => exact h.charAt
  | abtReceived a => exact h.charAt
  | ignoredCharacter a v => exact h.charAt
  | framingError a => exact (h.advance.heard fun _ _ => id).framingLost
  | breakRecognised a => exact h.advance.breakFound.breakLost
  | breakEnd a => exact h.advance.heard fun _ _ => id
  | lineFallsToSpace a => exact h.advance.mapDrop
  | gapExpiry a => exact h.gapEnded
  | dropEofSent d => exact h.dropEofSent hlimits
  | windowExpiry d => exact h.windowEnded
  | guardEnd d => exact h.guardEnded
  | deadlineExpiry t => exact h.deadlineEnded
  | dropFault d => exact h.breakMeasured
  | dropRecovery d => exact h.markingMeasured
  | trunkEofSent => exact h.trunkEofSent
  | memoryPollTimeout => exact (h.portFails hloading).arbitrate
  | memoryByteNotAcknowledged => exact (h.portFails hloading).arbitrate
  | loadHeaderRead m0 m1 version high low => exact h.headerRead hloading
  | settingsRecord fields => exact h.takeRecord fun _ _ _ hv => hv.actSettings
  | dropRecord fields => exact h.takeRecord fun _ _ hc hv => hv.actDrop hc
  | stationRecord fields => exact h.takeRecord fun _ _ _ hv => hv.actStation
  | endRecord rest => exact h.endRecordRead
  | unknownRecord type fields => exact h.takeRecord fun _ _ _ hv => hv.skipRecord
  | truncatedRecord bytes => exact h.truncatedRead
  | loadEnd high low => exact h.checkRead hloading
  | storeWriteAcknowledged => exact h.writeAcknowledged
  | abtSent a => exact h.advance.abtSent

theorem of_step {t : State} (h : Sound k nobody [] 0 s) (hloading : k ≠ .work → LoadingLaw s)
    (hlimits : k = .tally → RangeLaw s) (hstep : step s = .next t) : Sound k nobody [] 0 t := by
  obtain ⟨-, rfl⟩ | ⟨c, rest, -, rfl⟩ := step_next hstep
  · exact h
  · have hpending : Sound k nobody [] 0 { s with pending := rest } := h.same
    exact hpending.after (fun hk => hloading hk) (fun hk => hlimits hk) c

end Sound
end Sys2Proof.Machine
end

section
/-! PROOFS. LoadingLaw in every step: while LOADING nothing opens an exchange, queues an item or leaves DISABLED (R171). -/

namespace Sys2Proof.Machine

set_option Elab.async false

/-- What LoadingLaw says while LOADING. -/
structure State.Quiet (s : State) : Prop where
  exchange : ∀ t, s.exchange t = none
  drop : ∀ d, (s.dropUnit d).line = .disabled ∧ (s.dropUnit d).queue = [] ∧ (s.dropUnit d).rx.state ≠ .assemble

theorem loadingLaw_iff (s : State) : LoadingLaw s ↔ (s.image.config = .loading → s.Quiet) :=
  ⟨fun h hc => ⟨(h hc).1, (h hc).2⟩, fun h hc => ⟨(h hc).exchange, (h hc).drop⟩⟩

namespace State.Quiet

variable {s t : State}

theorem same (h : s.Quiet) (hexch : t.exchanges = s.exchanges) (hdrops : t.drops = s.drops) : t.Quiet :=
  ⟨fun v => by simp only [State.exchange, hexch]; exact h.exchange v,
    fun d => by simp only [State.dropUnit, hdrops]; exact h.drop d⟩

/-- A drop changed outside its work, its receiver not assembling. -/
theorem mapDrop (h : s.Quiet) {d : DropId} {f : Drop → Drop} (hline : (f (s.dropUnit d)).line = (s.dropUnit d).line)
    (hqueue : (f (s.dropUnit d)).queue = (s.dropUnit d).queue)
    (hrx : (f (s.dropUnit d)).rx.state ≠ .assemble) : (s.mapDrop d f).Quiet := by
  refine ⟨h.exchange, fun c => ?_⟩
  obtain ⟨h1, h2, -⟩ := h.drop d
  by_cases hc : c = d
  · subst hc; rw [State.dropUnit_mapDrop_self]; exact ⟨hline.trans h1, hqueue.trans h2, hrx⟩
  · rw [State.dropUnit_mapDrop_ne s f hc]; exact h.drop c

theorem mapCounters (h : s.Quiet) {d : DropId} {f : DropCounters → DropCounters} : (s.mapDropCounters d f).Quiet :=
  h.mapDrop rfl rfl (h.drop d).2.2

theorem heard (h : s.Quiet) {n : Nat} {l : Line} : (s.heard n l).Quiet := by
  unfold State.heard
  split
  · exact h
  · next d => exact h.mapDrop (by simp [Drop.heard, Drop.atMark, (h.drop d).1]) rfl (h.drop d).2.2

theorem breakFound (h : s.Quiet) {l : Line} : (s.breakFound l).Quiet := by
  unfold State.breakFound
  split
  · exact h
  · next d => exact h.mapDrop (by simp) (by simp) (by simpa using (h.drop d).2.2)

theorem setRx (h : s.Quiet) {l : Line} {v : Receiver} (hv : v.state ≠ .assemble := by nofun) : (s.setRx l v).Quiet := by
  cases l with
  | trunk => exact h.same rfl rfl
  | drop d => exact h.mapDrop (f := fun x => { x with rx := v }) rfl rfl hv

theorem dropFrame (h : s.Quiet) {l : Line} {next : RxState} (hnext : next ≠ .assemble) : (s.dropFrame l next).Quiet := by
  unfold State.dropFrame
  simp only
  split
  · exact h.setRx hnext
  · exact (h.setRx (l := l) (v := { Receiver.idle with state := next }) hnext).same rfl rfl

theorem countBroken (h : s.Quiet) {l : Line} : (s.countBroken l).Quiet := by
  unfold State.countBroken
  split
  · exact h.same rfl rfl
  · exact h.mapCounters

/-- No drop is in RECEIVING. -/
theorem frameLost (h : s.Quiet) {l : Line} : (s.frameLost l).Quiet := by
  unfold State.frameLost
  split
  · exact h
  · next d => simpa [State.afterFrame, (h.drop d).1] using h

theorem abandon (h : s.Quiet) {l : Line} {next : RxState} (hnext : next ≠ .assemble) : (s.abandon l next).Quiet :=
  (h.countBroken.dropFrame hnext).frameLost

/-- Nothing is chosen by a DISABLED drop. -/
theorem chooseWork (h : s.Quiet) (d : DropId) : s.chooseWork d = s := by
  simp [State.chooseWork, (h.drop d).1]

theorem offerBroadcast (h : s.Quiet) (b : BufId) (d : DropId) : State.offerBroadcast b s d = s := by
  simp [State.offerBroadcast, Drop.takesBroadcasts, (h.drop d).1]

theorem broadcast (h : s.Quiet) {b : BufId} : (s.broadcast b).Quiet := by
  have hoffered : ∀ l : List DropId, l.foldl (State.offerBroadcast b) s = s := fun l => by
    induction l with
    | nil => rfl
    | cons d l ih => rw [List.foldl_cons, h.offerBroadcast, ih]
  have hreleased : (s.release b).Quiet := h.same rfl rfl
  have hchosen : ∀ l : List DropId, l.foldl State.chooseWork (s.release b) = s.release b := fun l => by
    induction l with
    | nil => rfl
    | cons d l ih => rw [List.foldl_cons, hreleased.chooseWork, ih]
  unfold State.broadcast
  simp only [hoffered, hchosen]
  exact hreleased

theorem arbitrate (h : s.Quiet) : s.arbitrate.Quiet := h.same (by simp) (by simp)

theorem manage (h : s.Quiet) (hc : s.image.config = .loading) {b : BufId} : (s.manage b).Quiet := by
  unfold State.manage
  simp only
  split
  · exact h.same (by simp) (by simp)
  · have hturned : (s.turnOver (seqOf (s.content b)) b).Quiet := h.same (by simp) (by simp)
    have hconfig : (s.turnOver (seqOf (s.content b)) b).image.config = .loading := by simpa using hc
    unfold State.judge
    split
    · exact hturned.same (by simp) (by simp)
    · split
      · exact hturned.same (by simp) (by simp)
      · rw [hconfig]
        exact hturned.same (by simp) (by simp)

theorem classify (h : s.Quiet) (hc : s.image.config = .loading) {b : BufId} : (s.classify b).Quiet := by
  unfold State.classify
  simp only [hc, if_true]
  split
  · exact h.same (by simp) (by simp)
  · split
    · split
      · exact h.manage hc
      · exact h.same (by simp) (by simp)
    · split
      · split
        · exact h.same (by simp) (by simp)
        · exact h.broadcast
      · split
        · exact h.same (by simp) (by simp)
        · exact h.same (by simp) (by simp)

end State.Quiet

theorem State.restartWarm_image (s : State) (q : Byte) : (s.restartWarm q).image = s.image := by
  obtain ⟨stations, mgmt, h⟩ := s.restartWarm_eq q
  have hfold : ∀ v : State, ((List.finRange 4).foldl State.warmDrop v).image = v.image :=
    foldl_keeps State.image State.warmDrop (fun _ _ => by simp) _
  simp [h, hfold]

theorem State.restartReload_exchange (s : State) (q : Byte) (t : Tag) :
    (s.restartReload q).exchange t = s.reloadCore.exchange t := by
  simp [State.restartReload_eq, State.exchange]

namespace LoadingLaw

variable {s t u : State}

/-- An operation that leaves the image unit alone. -/
theorem keep (h : LoadingLaw s) (himage : t.image = s.image) (hquiet : s.image.config = .loading → s.Quiet → t.Quiet) :
    LoadingLaw t := by
  rw [loadingLaw_iff] at h ⊢
  rw [himage]
  exact fun hc => hquiet hc (h hc)

/-- An operation that leads to a state not LOADING. -/
theorem ended (h : t.image.config ≠ .loading) : LoadingLaw t := fun hc => absurd hc h

theorem same (h : LoadingLaw s) (himage : t.image = s.image := by rfl) (hexch : t.exchanges = s.exchanges := by rfl)
    (hdrops : t.drops = s.drops := by rfl) : LoadingLaw t := h.keep himage fun _ hq => hq.same hexch hdrops

theorem advance (h : LoadingLaw u) {n : Nat} : LoadingLaw (u.advance n) := h.same

theorem heard (h : LoadingLaw u) {n : Nat} {l : Line} : LoadingLaw (u.heard n l) := h.keep (by simp) fun _ hq => hq.heard

theorem abandon (h : LoadingLaw u) {l : Line} {next : RxState} (hnext : next ≠ .assemble := by nofun) :
    LoadingLaw (u.abandon l next) := h.keep (by simp) fun _ hq => hq.abandon hnext

/-- A restart leaves every drop DISABLED where it leaves the part LOADING. -/
theorem restart (hc : u.image.config ≠ .loading) {q : Byte} {kind : RestartKind} :
    LoadingLaw (u.restart q kind) := by
  cases kind with
  | warm =>
    rw [State.restart]
    exact ended (by rw [u.restartWarm_image q]; exact hc)
  | reload =>
    rw [State.restart]
    have hdrops : ∀ d, (u.restartReload q).dropUnit d = Drop.reloaded { u.dropUnit d with tx := u.cutOff (u.dropUnit d).tx } :=
      u.restartReload_dropUnit q
    refine fun _ => ⟨fun t => ?_, fun d => ?_⟩
    · rw [u.restartReload_exchange q]; exact u.reloadCore_blank.exchange t
    · rw [hdrops]
      exact ⟨rfl, rfl, nofun⟩

theorem coldReset {straps : Rate} : LoadingLaw (u.coldReset straps) := by
  refine fun _ => ⟨(u.coldReset_blank straps).exchange, fun d => ?_⟩
  rw [u.coldReset_dropUnit]
  exact ⟨rfl, rfl, nofun⟩

theorem judge (hc : u.image.config ≠ .loading) {q : Byte} {b : BufId} {body : List Byte} :
    LoadingLaw (u.judge q b body) := by
  have hhand : ∀ (v : State) c op data, v.image = u.image → LoadingLaw (v.handResult q b c op data) :=
    fun v c op data hv => ended (by simpa [hv] using hc)
  unfold State.judge
  split
  · exact hhand _ _ _ _ rfl
  · split
    · exact hhand _ _ _ _ rfl
    · split
      · exact hhand _ _ _ _ rfl
      · split
        · split
          · exact hhand _ _ _ _ rfl
          · exact hhand _ _ _ _ (by simp)
        · exact hhand _ _ _ _ rfl
      · split
        · exact hhand _ _ _ _ rfl
        · exact ended (by simp [State.beginStore])
        · exact restart hc
        · exact hhand _ _ _ _ (by simp)

theorem classify (h : LoadingLaw u) {b : BufId} : LoadingLaw (u.classify b) := by
  by_cases hc : u.image.config = .loading
  · exact (loadingLaw_iff _).2 fun _ => ((loadingLaw_iff u).1 h hc).classify hc
  · have hkeep : ∀ v : State, v.image = u.image → LoadingLaw v := fun v hv => ended (by rwa [hv])
    unfold State.classify
    simp only [hc, if_false]
    split
    · exact hkeep _ (by simp)
    · split
      · split
        · unfold State.manage
          simp only
          split
          · exact hkeep _ (by simp)
          · exact judge (by simpa using hc)
        · exact hkeep _ (by simp)
      · split
        · split
          · exact hkeep _ (by simp)
          · exact hkeep _ (by simp)
        · split
          · exact hkeep _ (by simp)
          · split
            · split
              · exact hkeep _ (by simp)
              · exact hkeep _ (by simp)
            · exact hkeep _ (by simp)

/-! ### Characters -/

theorem setRx (h : LoadingLaw u) {l : Line} {v : Receiver} (hv : v.state ≠ .assemble := by nofun) :
    LoadingLaw (u.setRx l v) := h.keep (by simp) fun _ hq => hq.setRx hv

theorem arbitrate (h : LoadingLaw u) : LoadingLaw u.arbitrate := h.same (by simp) (by simp) (by simp)

theorem setTrunkRx (h : LoadingLaw u) {v : Receiver} : LoadingLaw (u.setRx .trunk v) := h.same

theorem acceptTrunkSof (h : LoadingLaw u) : LoadingLaw (u.acceptSof .trunk) := by
  refine h.same (by simp) (by simp) ?_
  unfold State.acceptSof
  split
  · split <;> rfl
  · rfl

theorem restartTrunkFrame (h : LoadingLaw u) : LoadingLaw (u.restartFrame .trunk) := by
  refine h.same (by simp) ?_ ?_ <;> rw [State.restartFrame_trunk, State.startedOver] <;> simp only <;> split <;> rfl

theorem storeTrunkByte (h : LoadingLaw u) {v : Byte} : LoadingLaw (u.storeByte .trunk v) := by
  unfold State.storeByte
  simp only
  split
  · exact h
  · split
    · exact h.abandon
    · exact h.same

theorem endTrunkFrame (h : LoadingLaw u) : LoadingLaw (u.endFrame .trunk) := by
  unfold State.endFrame
  simp only
  split
  · exact h
  · split
    · have hcounted : LoadingLaw ((u.setRx .trunk Receiver.idle).mapTrunkCounters
          (fun c => { c with framesTaken := bump c.framesTaken })) := h.same
      exact hcounted.classify.arbitrate
    · refine h.keep (by simp) fun _ hq => ?_
      have hbad : (u.countBad .trunk).Quiet := hq.same rfl rfl
      exact (hbad.dropFrame (by decide)).frameLost

/-- A character on the trunk opens nothing while LOADING: only the frame that it ends reaches beyond the trunk. -/
theorem trunkChar (h : LoadingLaw u) {v : Byte} : LoadingLaw (u.takeChar .trunk v) := by
  change LoadingLaw (match u.trunk.rx.state with
    | .hunt => if v = codeSof then u.acceptSof .trunk else u
    | .discard =>
      if v = codeSof then u.acceptSof .trunk else if v = codeAbt then u.setRx .trunk Receiver.idle else u
    | .assemble => u.assembleChar .trunk v)
  split
  · split
    · exact h.acceptTrunkSof
    · exact h
  · split
    · exact h.acceptTrunkSof
    · split
      · exact h.setTrunkRx
      · exact h
  · unfold State.assembleChar
    simp only
    split
    · exact h.restartTrunkFrame
    · split
      · exact h.abandon
      · split
        · split
          · exact h.storeTrunkByte
          · exact h.abandon
        · split
          · exact h.endTrunkFrame
          · split
            · exact h.setTrunkRx
            · exact h.storeTrunkByte

/-- A character on a drop's line leaves the image unit alone. -/
theorem dropChar_image (s : State) (d : DropId) (v : Byte) : (s.takeChar (.drop d) v).image = s.image := by
  have hend : ∀ u : State, (u.endFrame (.drop d)).image = u.image := fun u => by
    unfold State.endFrame
    simp only
    split
    · rfl
    · split
      · simp [State.handOver]
      · simp
  have hassemble : ∀ u : State, (u.assembleChar (.drop d) v).image = u.image := fun u => by
    unfold State.assembleChar
    simp only
    split
    · simp
    · split
      · simp
      · split
        · split <;> simp
        · split
          · exact hend u
          · split <;> simp
  have hheard : (s.heard (marksAtEnd v) (.drop d)).image = s.image := by simp
  unfold State.takeChar
  simp only
  split
  · exact hheard
  · split
    · split
      · simp
      · exact hheard
    · split
      · simp
      · split
        · simp
        · exact hheard
    · rw [hassemble, hheard]

/-- A drop's receiver is held while LOADING (R15). -/
theorem dropChar (h : LoadingLaw u) {d : DropId} {v : Byte} : LoadingLaw (u.takeChar (.drop d) v) := by
  refine h.keep (dropChar_image u d v) fun _ hq => ?_
  have hheard : (u.heard (marksAtEnd v) (.drop d)).Quiet := hq.heard
  unfold State.takeChar
  simp only
  rw [if_pos]
  · exact hheard
  · simp [State.rxHeld, Drop.holdsReceiver, (hheard.drop d).1]

theorem takeChar (h : LoadingLaw u) {l : Line} {v : Byte} : LoadingLaw (u.takeChar l v) := by
  cases l
  · exact h.trunkChar
  · exact h.dropChar

/-! ### The load -/

theorem putLoad (h : LoadingLaw u) {l : Load} : LoadingLaw (u.putLoad l) := fun hc => h hc

theorem skipRecord (h : LoadingLaw u) : LoadingLaw u.skipRecord := fun hc => h hc

theorem stopRecords (h : LoadingLaw u) {l : Load} {bs : List Byte} : LoadingLaw (u.stopRecords l bs) := h.putLoad

theorem takeRecord (h : LoadingLaw u) {type : Byte} {fields : List Byte} {act : State → Load → State}
    (hact : ∀ v l, LoadingLaw v → LoadingLaw (act v l)) : LoadingLaw (u.takeRecord type fields act) := by
  unfold State.takeRecord
  split
  · exact h
  · simp only
    split
    · exact h
    · split
      · exact h.skipRecord.stopRecords
      · exact hact _ _ h.putLoad

theorem actSettings (h : LoadingLaw u) {fields : List Byte} {l : Load} : LoadingLaw (State.actSettings fields u l) := by
  unfold State.actSettings
  split
  · exact h.skipRecord
  · exact h.putLoad

theorem actStation (h : LoadingLaw u) {fields : List Byte} {l : Load} : LoadingLaw (State.actStation fields u l) := by
  unfold State.actStation
  split
  · exact h.skipRecord
  · exact h.same

theorem actDrop (h : LoadingLaw u) {fields : List Byte} {l : Load} : LoadingLaw (State.actDrop fields u l) := by
  unfold State.actDrop
  split
  · split
    · exact h.keep rfl fun _ hq => hq.mapDrop rfl rfl (hq.drop _).2.2
    · exact h.skipRecord
  · exact h.skipRecord

theorem finishLoad {result : LoadResult} : LoadingLaw (u.finishLoad result) := by
  refine ended ?_
  rw [State.finishLoad_eq, foldl_keeps State.image State.releaseDrop fun _ _ => by simp]
  nofun

theorem failLoad {result : LoadResult} : LoadingLaw (u.failLoad result) := by
  rw [State.failLoad_eq]; exact finishLoad

theorem succeedLoad {g : Staged} : LoadingLaw (u.succeedLoad g) := by
  rw [State.succeedLoad_eq]; exact finishLoad

theorem headerRead (h : LoadingLaw u) {bytes : List Byte} : LoadingLaw (u.headerRead bytes) := by
  unfold State.headerRead
  split
  · split
    · unfold State.judgeHeader
      split
      · simp only
        split
        · exact h.putLoad
        · exact failLoad
      · exact h
    · exact h
  · exact h

theorem checkRead (h : LoadingLaw u) {high low : Byte} : LoadingLaw (u.checkRead high low) := by
  unfold State.checkRead
  split
  · split
    · unfold State.judgeCheck
      split
      · exact succeedLoad
      · exact failLoad
    · exact h
  · exact h

theorem endRecordRead (h : LoadingLaw u) {rest : List Byte} : LoadingLaw (u.endRecordRead rest) := by
  unfold State.endRecordRead
  split
  · exact h
  · refine stopRecords ?_
    split
    · exact h.skipRecord
    · exact h

theorem truncatedRead (h : LoadingLaw u) {bytes : List Byte} : LoadingLaw (u.truncatedRead bytes) := by
  unfold State.truncatedRead
  split
  · exact h
  · split
    · exact h
    · exact h.skipRecord.stopRecords

/-! ### The store -/

theorem endStore {ok : Bool} : LoadingLaw (u.endStore ok) := by
  refine ended ?_
  unfold State.endStore
  simp only
  split <;> simp

theorem portFails (h : LoadingLaw u) {f : PortFailure} : LoadingLaw (u.portFails f) := by
  unfold State.portFails
  split
  · exact failLoad
  · exact endStore
  · exact h
  · exact h
  · exact h

theorem writeAcknowledged (h : LoadingLaw u) : LoadingLaw u.writeAcknowledged := by
  unfold State.writeAcknowledged
  split
  · next hc _ =>
    split
    · exact ended (by rw [State.nextWrite, show (u.takeWrite _).image = u.image from rfl, hc]; decide)
    · exact endStore.arbitrate
  · exact h

/-! ### Timers and transmitters -/

theorem windowEnded (h : LoadingLaw u) {d : DropId} : LoadingLaw (u.windowEnded d) := by
  unfold State.windowEnded
  split
  · exact h
  · split
    · next hline => exact h.keep (by simp) fun _ hq => nomatch (hq.drop d).1.symm.trans hline
    · split
      · next hline => exact h.keep (by simp) fun _ hq => nomatch (hq.drop d).1.symm.trans hline
      · exact h

theorem guardEnded (h : LoadingLaw u) {d : DropId} : LoadingLaw (u.guardEnded d) := by
  unfold State.guardEnded
  split
  · next hline => exact h.keep (by simp) fun _ hq => nomatch (hq.drop d).1.symm.trans hline
  · exact h

theorem deadlineEnded (h : LoadingLaw u) {t : Tag} : LoadingLaw (u.deadlineEnded t) := by
  unfold State.deadlineEnded
  split
  · exact h
  · next he =>
    split
    · exact h.keep (by simp [State.fetchDueSince]) fun _ hq => nomatch (hq.exchange t).symm.trans he
    · exact h

theorem breakMeasured (h : LoadingLaw u) {d : DropId} : LoadingLaw (u.breakMeasured d) := by
  unfold State.breakMeasured
  split
  · exact h
  · split
    · exact h
    · next hc => exact ended (by simpa using fun hl => hc (.inr (.inr hl)))

theorem markingMeasured (h : LoadingLaw u) {d : DropId} : LoadingLaw (u.markingMeasured d) := by
  unfold State.markingMeasured
  split
  · next hline _ =>
    split
    · exact h.keep (by simp [State.faultLeft]) fun _ hq => nomatch (hq.drop d).1.symm.trans hline
    · exact h.keep (by simp [State.faultLeft]) fun _ hq => nomatch (hq.drop d).1.symm.trans hline
  · exact h

theorem dropEofSent (h : LoadingLaw u) {d : DropId} : LoadingLaw (u.dropEofSent d) := by
  unfold State.dropEofSent
  split
  · split
    · next hline => exact h.keep (by simp) fun _ hq => nomatch (hq.drop d).1.symm.trans hline
    · exact h
  · exact h
  · exact h

theorem trunkEofSent (h : LoadingLaw u) : LoadingLaw u.trunkEofSent := by
  unfold State.trunkEofSent
  split
  · exact h.same (by simp [State.trunkIdleAt]) (by simp [State.trunkIdleAt]) (by simp [State.trunkIdleAt])
  · exact h
  · exact h

theorem abtSent (h : LoadingLaw u) {l : Line} : LoadingLaw (u.abtSent l) := by
  unfold State.abtSent
  split
  · split
    · exact h.same (by simp [State.trunkIdleAt]) (by simp [State.trunkIdleAt]) (by simp [State.trunkIdleAt])
    · next d _ =>
      refine h.keep (by simp [State.dropIdleNow]) fun _ hq => ?_
      have hadvanced : ∀ n, (u.advance n).Quiet := fun _ => hq.same rfl rfl
      have hidle : ∀ n, ((u.advance n).dropIdleNow d).Quiet := fun n => (hadvanced n).mapDrop rfl rfl (hq.drop d).2.2
      rw [(hidle _).chooseWork]
      exact hidle _
  · exact h
  · exact h

theorem framingLost (h : LoadingLaw u) {l : Line} : LoadingLaw (u.framingLost l) := by
  unfold State.framingLost
  split
  · exact h.abandon
  · exact h

theorem breakFound (h : LoadingLaw u) {l : Line} : LoadingLaw (u.breakFound l) :=
  h.keep (by simp) fun _ hq => hq.breakFound

theorem breakLost (h : LoadingLaw u) {l : Line} : LoadingLaw (u.breakLost l) := by
  unfold State.breakLost
  split
  · exact h
  · exact h.keep (by simp) fun _ hq => hq.setRx
  · exact h.abandon

theorem gapEnded (h : LoadingLaw u) {l : Line} : LoadingLaw (u.gapEnded l) := by
  unfold State.gapEnded
  split
  · exact h
  · exact h.advance.abandon

theorem lineFallen (h : LoadingLaw u) {d : DropId} {m : Bool} {n : Nat} : LoadingLaw (u.mapDrop d (Drop.fallen m n)) :=
  h.keep rfl fun _ hq => hq.mapDrop rfl rfl (hq.drop d).2.2

/-! ### Every command -/

theorem after (h : LoadingLaw s) (i : Instr) : LoadingLaw (s.after i) := by
  cases i with
  | coldReset straps => exact coldReset
  | sofReceived a => exact h.advance.takeChar
  | contentCharacter a v => exact h.advance.takeChar
  | eofReceived a => exact h.advance.takeChar
  | abtReceived a => exact h.advance.takeChar
  | ignoredCharacter a v => exact h.advance.takeChar
  | framingError a => exact h.advance.heard.framingLost
  | breakRecognised a => exact h.advance.breakFound.breakLost
  | breakEnd a => exact h.advance.heard
  | lineFallsToSpace a => exact h.advance.lineFallen
  | gapExpiry a => exact h.gapEnded
  | dropEofSent d => exact h.dropEofSent
  | windowExpiry d => exact h.windowEnded
  | guardEnd d => exact h.guardEnded
  | deadlineExpiry t => exact h.deadlineEnded
  | dropFault d => exact h.breakMeasured
  | dropRecovery d => exact h.markingMeasured
  | trunkEofSent => exact h.trunkEofSent
  | memoryPollTimeout => exact h.portFails.arbitrate
  | memoryByteNotAcknowledged => exact h.portFails.arbitrate
  | loadHeaderRead m0 m1 version high low => exact h.headerRead
  | settingsRecord fields => exact h.takeRecord fun _ _ hv => hv.actSettings
  | dropRecord fields => exact h.takeRecord fun _ _ hv => hv.actDrop
  | stationRecord fields => exact h.takeRecord fun _ _ hv => hv.actStation
  | endRecord rest => exact h.endRecordRead
  | unknownRecord type fields => exact h.takeRecord fun _ _ hv => hv.skipRecord
  | truncatedRecord bytes => exact h.truncatedRead
  | loadEnd high low => exact h.checkRead
  | storeWriteAcknowledged => exact h.writeAcknowledged
  | abtSent a => exact h.advance.abtSent

theorem of_step {t : State} (h : LoadingLaw s) (hstep : step s = .next t) : LoadingLaw t := by
  obtain ⟨-, rfl⟩ | ⟨c, rest, -, rfl⟩ := step_next hstep
  · exact h
  · exact LoadingLaw.after (s := { s with pending := rest }) h c

end LoadingLaw
end Sys2Proof.Machine
end

section
/-! PROOFS. The laws of the work, the counts and the holds, in every step: each law from the chain that carries it. -/

namespace Sys2Proof.Machine

set_option Elab.async false

namespace Sound

variable {s t : State}

/-- What ServiceLaw rests on. -/
theorem ofService (hw : WorkLaw s) (hs : ServiceLaw s) : Sound .service nobody [] 0 s :=
  ⟨hw, fun _ d _ => hs d, nofun, nofun⟩

theorem ofTally (hw : WorkLaw s) (hs : ServiceLaw s) (ht : TallyLaw s) : Sound .tally nobody [] 0 s :=
  ⟨hw, fun _ d _ => hs d, fun _ v e he => ⟨(((tallyLaw_iff s).1 ht).2 v e he).1, fun _ => (((tallyLaw_iff s).1 ht).2 v e he).2⟩,
    nofun⟩

theorem ofHold (hw : WorkLaw s) (hs : ServiceLaw s) (hh : Held [] 0 s) : Sound .hold nobody [] 0 s :=
  ⟨hw, fun _ d _ => hs d, nofun, fun _ => hh⟩

theorem serviceLaw {k : Scope} (h : Sound k nobody [] 0 s) (hk : k ≠ .work) : ServiceLaw s := fun d => h.service hk d id

end Sound

/-- Settles O59: the queues and the records by themselves, WorkLaw with nothing else, ServiceLaw on top of it and of
LoadingLaw. -/
theorem workKept : Obligations.WorkKept := by
  intro s t hstep
  have hupholds := Upholds.of_step hstep
  refine ⟨fun h => h.of_step hstep, hupholds.queue, fun hw => ?_, hupholds.exchange, fun hl hw hs => ?_⟩
  · have hsound : Sound .work nobody [] 0 s := ⟨hw, fun hk => absurd rfl hk, nofun, nofun⟩
    exact (hsound.of_step (fun hk => absurd rfl hk) nofun hstep).work
  · exact ((Sound.ofService hw hs).of_step (fun _ => hl) nofun hstep).serviceLaw (by decide)

/-- Settles O60: the ranges by themselves; the counts that do not saturate with the laws of the work, by which a retry
is pending only where an attempt is left, and a FETCH only where a fetch is. -/
theorem countsKept : Obligations.CountsKept := by
  intro s t hstep
  have hupholds := Upholds.of_step hstep
  refine ⟨hupholds.count, hupholds.range, hupholds.liveness, fun hl hw hs hr ht => ?_⟩
  have hsound := (Sound.ofTally hw hs ht).of_step (fun _ => hl) (fun _ => hr) hstep
  refine (tallyLaw_iff t).2 ⟨hupholds.probe hr ((tallyLaw_iff s).1 ht).1, fun v e he => ?_⟩
  exact ⟨(hsound.tally rfl v e he).1, (hsound.tally rfl v e he).2 id⟩

/-- Settles O17: the free list by itself; the counts of holds, the reserve and what they rest on carried together. -/
theorem holdsKept : Obligations.HoldsKept := by
  intro s t hstep
  refine ⟨(Upholds.of_step hstep).pool, fun ⟨hl, hp, hh, hres, hrec, hw, hreq, hs⟩ => ?_⟩
  have hsound := (Sound.ofHold hw hs (.of_laws hp hh hres hrec hreq)).of_step (fun _ => hl) nofun hstep
  have hheld := hsound.hold rfl
  exact ⟨hl.of_step hstep, hheld.pool, hheld.holdLaw, hheld.reserveLaw, hheld.receiver, hsound.work, hheld.request,
    hsound.serviceLaw (by decide)⟩

end Sys2Proof.Machine
end

section
/-! PROOFS. What a receiver does, on the trunk and on a drop: the state with one line's unit put anew, and a rule for each
operation on it. -/

namespace Sys2Proof.Machine

set_option Elab.async false

/-! ### The state with one line's unit, the pool and the time put anew -/

/-- The trunk, the pool and the time put. -/
def State.withTrunk (s : State) (n : Nat) (p : Pool) (y : Trunk) : State := { s with now := n, pool := p, trunk := y }

/-- One drop unit, the pool and the time put. -/
def State.withDrop (s : State) (n : Nat) (p : Pool) (d : DropId) (y : Drop) : State :=
  { s with now := n, pool := p, drops := s.drops.set d y }

/-- A frame counted broken on the trunk. -/
def Trunk.broke (y : Trunk) : Trunk := { y with counters := { y.counters with broken := bump y.counters.broken } }

/-- A frame counted bad on a drop. -/
def Drop.spoilt (y : Drop) : Drop := { y with counters := { y.counters with badFrames := bump y.counters.badFrames } }

/-- A drop with no frame in RECEIVING: LISTENING again (R83). -/
def Drop.listens (y : Drop) : Drop := { y with line := if y.line = .receiving then .listening else y.line }

section
variable (s : State) (n : Nat) (p : Pool) (d : DropId) (x y : Drop) (z : Trunk)

@[simp] theorem State.withDrop_dropUnit : (s.withDrop n p d y).dropUnit d = y := by
  simp [State.withDrop, State.dropUnit]

@[simp] theorem State.withDrop_now : (s.withDrop n p d y).now = n := rfl

@[simp] theorem State.withDrop_pool : (s.withDrop n p d y).pool = p := rfl

@[simp] theorem State.withDrop_image : (s.withDrop n p d y).image = s.image := rfl

@[simp] theorem State.withDrop_mapDrop (f : Drop → Drop) :
    (s.withDrop n p d y).mapDrop d f = s.withDrop n p d (f y) := by
  simp [State.withDrop, State.mapDrop]

@[simp] theorem State.withDrop_rx : (s.withDrop n p d y).rx (.drop d) = y.rx := by simp [State.rx]

@[simp] theorem State.withDrop_rate : (s.withDrop n p d y).rate (.drop d) = y.rate := by simp [State.rate]

@[simp] theorem State.withDrop_setRx (r : Receiver) :
    (s.withDrop n p d y).setRx (.drop d) r = s.withDrop n p d { y with rx := r } := by simp [State.setRx]

@[simp] theorem State.withDrop_countBroken :
    (s.withDrop n p d y).countBroken (.drop d) = s.withDrop n p d y.spoilt := by
  simp [State.countBroken, State.mapDropCounters, Drop.spoilt]

@[simp] theorem State.withDrop_countBad :
    (s.withDrop n p d y).countBad (.drop d) = s.withDrop n p d y.spoilt := by
  simp [State.countBad, State.mapDropCounters, Drop.spoilt]

@[simp] theorem State.withDrop_release (b : BufId) :
    (s.withDrop n p d y).release b = s.withDrop n (p.release b) d y := rfl

@[simp] theorem State.withDrop_write (b : BufId) (c : List Byte) :
    (s.withDrop n p d y).write b c = s.withDrop n (p.write b c) d y := rfl

theorem State.withDrop_content (b : BufId) : (s.withDrop n s.pool d y).content b = s.content b := rfl

@[simp] theorem State.withTrunk_rx : (s.withTrunk n p z).rx .trunk = z.rx := rfl

@[simp] theorem State.withTrunk_setRx (r : Receiver) :
    (s.withTrunk n p z).setRx .trunk r = s.withTrunk n p { z with rx := r } := rfl

@[simp] theorem State.withTrunk_countBroken : (s.withTrunk n p z).countBroken .trunk = s.withTrunk n p z.broke := rfl

@[simp] theorem State.withTrunk_release (b : BufId) : (s.withTrunk n p z).release b = s.withTrunk n (p.release b) z := rfl

@[simp] theorem State.withTrunk_write (b : BufId) (c : List Byte) :
    (s.withTrunk n p z).write b c = s.withTrunk n (p.write b c) z := rfl

/-! ### A frame lost -/

@[simp] theorem Drop.spoilt_rx : y.spoilt.rx = y.rx := rfl

theorem State.dropFrame_slot {s : State} {l : Line} {b : BufId} (hb : (s.rx l).slot = some b) (next : RxState) :
    s.dropFrame l next = (s.setRx l (Receiver.emptied next)).release b := by
  unfold State.dropFrame; rw [hb]; rfl

theorem State.afterFrame_lost {u : State} {d : DropId} (h : ¬ ExpiryWaits u d) : u.afterFrame d = u.mapDrop d Drop.listens := by
  have hself : (u.dropUnit d).line ≠ .receiving → u.mapDrop d Drop.listens = u := fun hl => by
    have : Drop.listens (u.dropUnit d) = u.dropUnit d := by simp [Drop.listens, hl]
    calc u.mapDrop d Drop.listens = { u with drops := u.drops.set d (Drop.listens (u.dropUnit d)) } := rfl
      _ = u.mapDrop d (fun y => y) := by rw [this]; rfl
      _ = u := State.mapDrop_id u d
  unfold State.afterFrame
  by_cases hl : (u.dropUnit d).line = .receiving
  · have he : (u.dropUnit d).expiryHeld = false := by simpa [ExpiryWaits, hl] using h
    have hline : Drop.listens (u.dropUnit d) = { u.dropUnit d with line := .listening } := by simp [Drop.listens, hl]
    rw [if_pos hl, he, if_neg (by decide)]
    exact congrArg (fun y => { u with drops := u.drops.set d y }) hline.symm
  · rw [if_neg hl, hself hl]

theorem State.afterFrame_expires {u : State} {d : DropId} (h : ExpiryWaits u d) : u.afterFrame d = u.takeExpiry d := by
  unfold State.afterFrame; rw [if_pos h.1, h.2]; rfl

/-- A frame lost on a drop that has changed from `x` to `y` in this step: LISTENING again, or the held expiry taken. -/
theorem State.withDrop_afterFrame {s : State} {x y : Drop} (hx : s.dropUnit d = x)
    (hline : y.line = .receiving ↔ x.line = .receiving) (hheld : y.expiryHeld = x.expiryHeld) :
    (¬ ExpiryWaits s d → (s.withDrop n p d y).afterFrame d
      = s.withDrop n p d { y with line := if x.line = .receiving then .listening else y.line })
    ∧ (ExpiryWaits s d → (s.withDrop n p d y).afterFrame d = (s.withDrop n p d y).takeExpiry d) := by
  have hwaits : ExpiryWaits (s.withDrop n p d y) d ↔ ExpiryWaits s d := by
    simp only [ExpiryWaits, State.withDrop_dropUnit, hx, hline, hheld]
  refine ⟨fun h => ?_, fun h => State.afterFrame_expires (hwaits.2 h)⟩
  rw [State.afterFrame_lost (fun k => h (hwaits.1 k))]
  simp only [State.withDrop_mapDrop, Drop.listens, hline]

theorem State.withTrunk_abandon {s : State} {n : Nat} {p : Pool} {z : Trunk} {b : BufId} (hb : z.rx.slot = some b)
    (next : RxState) :
    (s.withTrunk n p z).abandon .trunk next = s.withTrunk n (p.release b) { z.broke with rx := Receiver.emptied next } := by
  have hslot : (((s.withTrunk n p z).countBroken .trunk).rx .trunk).slot = some b := hb
  unfold State.abandon
  rw [State.dropFrame_slot hslot]
  rfl

theorem State.withDrop_abandon {s : State} {n : Nat} {p : Pool} {d : DropId} {y : Drop} {b : BufId}
    (hb : y.rx.slot = some b) (next : RxState) :
    (s.withDrop n p d y).abandon (.drop d) next
      = (s.withDrop n (p.release b) d { y.spoilt with rx := Receiver.emptied next }).afterFrame d := by
  have hslot : (((s.withDrop n p d y).countBroken (.drop d)).rx (.drop d)).slot = some b := by simpa using hb
  unfold State.abandon
  rw [State.dropFrame_slot hslot]
  simp [State.frameLost]

end

/-! ### A character met at a time -/

theorem exec_character {i : Instr} {l : LineAt} {v : Byte} (h : characterOf i = some (l, v)) (s : State) :
    exec i s = .next (s.charAt l v) := by
  cases i <;> simp only [characterOf, Option.some.injEq, Prod.mk.injEq, reduceCtorEq] at h <;>
    (obtain ⟨rfl, rfl⟩ := h; rfl)

/-- The line state releases the receiver (R15). -/
def Drop.Open (x : Drop) : Prop := x.line ≠ .sending ∧ x.line ≠ .disabled ∧ x.line ≠ .fault

theorem Drop.holdsReceiver_iff (x : Drop) : x.holdsReceiver = true ↔ ¬ x.Open := by
  simp [Drop.holdsReceiver, Drop.Open]; tauto

theorem DropAssembles.open {s : State} {d : DropId} {b : BufId} (h : DropAssembles s d b) : (s.dropUnit d).Open := h.2.2

@[simp] theorem Drop.heard_keeps (n : Nat) (x : Drop) :
    (Drop.heard n x).rx = x.rx ∧ (Drop.heard n x).rate = x.rate ∧ (Drop.heard n x).expiryHeld = x.expiryHeld
      ∧ (Drop.heard n x).counters = x.counters := ⟨rfl, rfl, rfl, rfl⟩

theorem Drop.heard_receiving (n : Nat) (x : Drop) : (Drop.heard n x).line = .receiving ↔ x.line = .receiving := by
  unfold Drop.heard; split <;> simp_all

theorem Drop.heard_listening (n : Nat) (x : Drop) : (Drop.heard n x).line = .listening ↔ x.line = .listening := by
  unfold Drop.heard; split <;> simp_all

/-- A drop unit that hears a character, its line at mark since a time (R89, R92). -/
def Drop.heardSince (n since : Nat) (x : Drop) : Drop :=
  { Drop.heard n x with marking := if x.line = .fault then .since since else x.marking }

theorem Drop.heardSince_open {x : Drop} (n since : Nat) (h : x.Open) : Drop.heardSince n since x = Drop.heard n x := by
  simp [Drop.heardSince, h.2.2, Drop.heard]

theorem State.advance_heard (s : State) (time marks : Nat) (d : DropId) :
    (s.advance time).heard marks (.drop d) = s.withDrop (max s.now time) s.pool d
      (Drop.heardSince (max s.now time) (max s.now time - marks * bitTime (s.dropUnit d).rate) (s.dropUnit d)) := rfl

theorem Drop.heardSince_holds (n since : Nat) (x : Drop) : (Drop.heardSince n since x).holdsReceiver = x.holdsReceiver := by
  simp only [Drop.heardSince, Drop.heard, Drop.holdsReceiver]; split <;> simp_all

section
variable {s : State} {d : DropId} {time : Nat} {v : Byte} {b : BufId}

theorem State.advance_rxHeld (s : State) (time marks : Nat) (d : DropId) :
    ((s.advance time).heard marks (.drop d)).rxHeld (.drop d) = (s.dropUnit d).holdsReceiver := by
  rw [State.advance_heard, State.rxHeld, State.withDrop_dropUnit, Drop.heardSince_holds]

/-- Outside a frame, a character that neither begins a frame nor ends one. -/
theorem State.charAt_drop_ignored (h : ¬ (s.dropUnit d).Open ∨ (v ≠ codeSof
      ∧ ((s.dropUnit d).rx.state = .hunt ∨ ((s.dropUnit d).rx.state = .discard ∧ v ≠ codeAbt)))) :
    s.charAt ⟨.drop d, time⟩ v = (s.advance time).heard (marksAtEnd v) (.drop d) := by
  have hrx : (((s.advance time).heard (marksAtEnd v) (.drop d)).rx (.drop d)) = (s.dropUnit d).rx := by
    rw [State.advance_heard, State.withDrop_rx]; rfl
  simp only [State.charAt, State.takeChar, State.advance_rxHeld, hrx]
  obtain h | ⟨hv, h | ⟨h, ha⟩⟩ := h
  · rw [if_pos ((Drop.holdsReceiver_iff _).2 h)]
  · simp [h, hv]
  · simp [h, hv, ha]

/-- A drop unit that has heard a character at a time, out of FAULT. -/
def State.heardAt (s : State) (time : Nat) (d : DropId) : State :=
  s.withDrop (max s.now time) s.pool d (Drop.heard (max s.now time) (s.dropUnit d))

theorem State.heard_open (h : (s.dropUnit d).Open) (marks : Nat) :
    (s.advance time).heard marks (.drop d) = s.heardAt time d := by
  rw [State.advance_heard, Drop.heardSince_open _ _ h]; rfl

theorem State.heardAt_rx : (s.heardAt time d).rx (.drop d) = (s.dropUnit d).rx := State.withDrop_rx _ _ _ _ _

theorem State.heardAt_rxHeld (h : (s.dropUnit d).Open) : (s.heardAt time d).rxHeld (.drop d) = false := by
  rw [← State.heard_open h 0, State.advance_rxHeld, Bool.eq_false_iff]
  exact fun k => (Drop.holdsReceiver_iff _).1 k h

/-- Inside a frame. -/
theorem State.charAt_drop_inside (h : DropAssembles s d b) :
    s.charAt ⟨.drop d, time⟩ v = (s.heardAt time d).assembleChar (.drop d) v := by
  simp [State.charAt, State.takeChar, State.heard_open h.open, State.heardAt_rx, State.heardAt_rxHeld h.open, h.1]

theorem State.charAt_drop_sof (h : (s.dropUnit d).Open) (hrx : (s.dropUnit d).rx.state ≠ .assemble) :
    s.charAt ⟨.drop d, time⟩ codeSof = (s.heardAt time d).acceptSof (.drop d) := by
  simp only [State.charAt, State.takeChar, State.heard_open h, State.heardAt_rx, State.heardAt_rxHeld h]
  cases hs : (s.dropUnit d).rx.state <;> simp_all

theorem State.charAt_drop_abt (h : (s.dropUnit d).Open) (hrx : (s.dropUnit d).rx.state = .discard) :
    s.charAt ⟨.drop d, time⟩ codeAbt = (s.heardAt time d).setRx (.drop d) Receiver.idle := by
  have : codeAbt ≠ codeSof := by decide
  simp [State.charAt, State.takeChar, State.heard_open h, State.heardAt_rx, State.heardAt_rxHeld h, hrx, this]

theorem State.advance_eq_withTrunk (s : State) (time : Nat) :
    s.advance time = s.withTrunk (max s.now time) s.pool s.trunk := rfl

theorem State.charAt_trunk_inside (h : TrunkAssembles s b) :
    s.charAt ⟨.trunk, time⟩ v = (s.advance time).assembleChar .trunk v := by
  have hrx : ((s.advance time).rx .trunk).state = .assemble := h.1
  simp only [State.charAt, State.takeChar, State.heard_trunk, State.rxHeld, hrx, Bool.false_eq_true, if_false]

theorem State.charAt_trunk_ignored (hv : v ≠ codeSof)
    (h : s.trunk.rx.state = .hunt ∨ (s.trunk.rx.state = .discard ∧ v ≠ codeAbt)) :
    s.charAt ⟨.trunk, time⟩ v = s.advance time := by
  simp only [State.charAt, State.takeChar, State.heard_trunk, State.rxHeld, Bool.false_eq_true, if_false, State.rx,
    State.advance_trunk]
  obtain h | ⟨h, ha⟩ := h
  · simp [h, hv]
  · simp [h, hv, ha]

theorem State.charAt_trunk_sof (h : s.trunk.rx.state ≠ .assemble) :
    s.charAt ⟨.trunk, time⟩ codeSof = (s.advance time).acceptSof .trunk := by
  simp only [State.charAt, State.takeChar, State.heard_trunk, State.rxHeld, Bool.false_eq_true, if_false, State.rx,
    State.advance_trunk]
  cases hs : s.trunk.rx.state <;> simp_all

end

/-! ### A character inside a frame -/

section
variable {u : State} {l : Line} {v c : Byte}

theorem StandsFor.not_sof {r : Receiver} (h : StandsFor r v c) : v ≠ codeSof ∧ v ≠ codeAbt := by
  rcases h with ⟨_, h, _⟩ | ⟨_, h, rfl⟩
  · simp only [isCode, Bool.or_eq_false_iff, decide_eq_false_iff_not] at h
    exact ⟨h.1.1.1, h.2⟩
  · simp only [isCode, Bool.or_eq_true, decide_eq_true_eq] at h
    rcases h with ((rfl | rfl) | rfl) | rfl <;> decide

theorem State.assembleChar_sof : u.assembleChar l codeSof = u.restartFrame l := by
  simp [State.assembleChar]

theorem State.assembleChar_abt : u.assembleChar l codeAbt = u.abandon l .hunt := by
  have : codeAbt ≠ codeSof := by decide
  simp [State.assembleChar, this]

theorem State.assembleChar_stands (h : StandsFor (u.rx l) v c) : u.assembleChar l v = u.storeByte l c := by
  obtain ⟨hsof, habt⟩ := h.not_sof
  unfold State.assembleChar
  rw [if_neg hsof, if_neg habt]
  rcases h with ⟨he, hcode, rfl⟩ | ⟨he, hcode, rfl⟩
  · simp only [isCode, Bool.or_eq_false_iff, decide_eq_false_iff_not] at hcode
    obtain ⟨⟨⟨_, heof⟩, hesc⟩, _⟩ := hcode
    simp [he, heof, hesc]
  · have hback : c ^^^ 0x20#8 ^^^ 0x20#8 = c := by rw [BitVec.xor_assoc, BitVec.xor_self, BitVec.xor_zero]
    simp [he, unescape, hback, hcode]

theorem State.assembleChar_malformed (he : (u.rx l).escape = true) (hsof : v ≠ codeSof) (habt : v ≠ codeAbt)
    (hcode : isCode (v ^^^ 0x20#8) = false) : u.assembleChar l v = u.abandon l .discard := by
  simp [State.assembleChar, hsof, habt, he, unescape, hcode]

theorem State.assembleChar_esc (he : (u.rx l).escape = false) :
    u.assembleChar l codeEsc = u.setRx l { u.rx l with escape := true, gap := u.gapFrom l } := by
  have : codeEsc ≠ codeSof ∧ codeEsc ≠ codeAbt ∧ codeEsc ≠ codeEof := by decide
  simp [State.assembleChar, this, he]

theorem State.assembleChar_eof (he : (u.rx l).escape = false) : u.assembleChar l codeEof = u.endFrame l := by
  have : codeEof ≠ codeSof ∧ codeEof ≠ codeAbt := by decide
  simp [State.assembleChar, this, he]

theorem State.storeByte_room {b : BufId} (hb : (u.rx l).slot = some b) (hroom : (u.rx l).count < 247) :
    u.storeByte l v = (u.write b ((u.content b).take (u.rx l).count ++ [v])).setRx l
      { u.rx l with count := (u.rx l).count + 1, escape := false, gap := u.gapFrom l } := by
  simp only [State.storeByte, hb]
  rw [if_neg (by simpa [Config.maxContent] using hroom)]

theorem State.storeByte_over {b : BufId} (hb : (u.rx l).slot = some b) (hroom : 247 ≤ (u.rx l).count) :
    u.storeByte l v = u.abandon l .discard := by
  simp only [State.storeByte, hb]
  rw [if_pos (by simpa [Config.maxContent] using hroom)]

theorem State.endFrame_bad {b : BufId} (hb : (u.rx l).slot = some b)
    (hbad : validFrame ((u.content b).take (u.rx l).count) = false) :
    u.endFrame l = ((u.countBad l).dropFrame l .hunt).frameLost l := by
  simp only [State.endFrame, hb, hbad, Bool.false_eq_true, if_false]

end

end Sys2Proof.Machine
end

section
/-! PROOFS. The receivers' statements: characters outside and inside a frame, frames begun, filled, spoiled, abandoned
and bad. -/

namespace Sys2Proof.Machine

set_option Elab.async false

/-! ### Frames inside a drop -/

section
variable {s : State} {d : DropId} {x : Drop} {b : BufId} {time n : Nat}

theorem State.heardAt_slot (h : DropAssembles s d b) : ((s.heardAt time d).rx (.drop d)).slot = some b := by
  rw [State.heardAt_rx]; exact h.2.1

theorem State.heardAt_eq (hx : s.dropUnit d = x) (hn : n = max s.now time) :
    s.heardAt time d = s.withDrop n s.pool d (Drop.heard n x) := by rw [State.heardAt, hx, hn]

theorem State.heardAt_gapFrom (hx : s.dropUnit d = x) (hn : n = max s.now time) :
    (s.heardAt time d).gapFrom (.drop d) = some (n + 20 * charTime x.rate) := by
  rw [State.heardAt_eq hx hn, State.gapFrom, State.withDrop_rate]; rfl

/-- A frame abandoned on a drop whose unit has become `y` in this step. -/
theorem State.abandon_drop {p : Pool} {y : Drop} (hx : s.dropUnit d = x) (hslot : y.rx.slot = some b)
    (hline : y.line = .receiving ↔ x.line = .receiving) (hheld : y.expiryHeld = x.expiryHeld) (next : RxState) :
    (¬ ExpiryWaits s d → (s.withDrop n p d y).abandon (.drop d) next = s.withDrop n (p.release b) d { y with
        rx := Receiver.emptied next
        counters := { y.counters with badFrames := bump y.counters.badFrames }
        line := if x.line = .receiving then .listening else y.line })
    ∧ (ExpiryWaits s d → (s.withDrop n p d y).abandon (.drop d) next = (s.withDrop n (p.release b) d { y with
        rx := Receiver.emptied next
        counters := { y.counters with badFrames := bump y.counters.badFrames } }).takeExpiry d) := by
  rw [State.withDrop_abandon hslot]
  exact State.withDrop_afterFrame n (p.release b) d (y := { y.spoilt with rx := Receiver.emptied next }) hx hline hheld

/-- The causes of a spoiled frame, in a receiver that assembles (R12). -/
theorem State.spoils_character {u : State} {l : Line} {v : Byte} (hslot : (u.rx l).slot = some b)
    (h : ((u.rx l).escape = true ∧ v ≠ codeSof ∧ v ≠ codeAbt ∧ isCode (v ^^^ 0x20#8) = false)
      ∨ (247 ≤ (u.rx l).count ∧ ∃ c, StandsFor (u.rx l) v c)) : u.assembleChar l v = u.abandon l .discard := by
  obtain ⟨he, hsof, habt, hcode⟩ | ⟨hfull, c, hc⟩ := h
  · exact State.assembleChar_malformed he hsof habt hcode
  · rw [State.assembleChar_stands hc, State.storeByte_over hslot hfull]

theorem exec_spoils_trunk {i : Instr} (h : SpoilsFrame i ⟨.trunk, time⟩ s.trunk.rx) (ha : TrunkAssembles s b) :
    exec i s = .next ((s.advance time).abandon .trunk .discard) := by
  obtain rfl | ⟨v, hi, hv⟩ := h
  · have hrx : ((s.advance time).rx .trunk).state = .assemble := ha.1
    simp [exec, execFramingError, hrx, State.rxHeld]
  · rw [exec_character hi, State.charAt_trunk_inside ha]
    exact congrArg _ (State.spoils_character (b := b) ha.2 hv)

theorem exec_spoils_drop {i : Instr} (h : SpoilsFrame i ⟨.drop d, time⟩ (s.dropUnit d).rx) (ha : DropAssembles s d b) :
    exec i s = .next ((s.heardAt time d).abandon (.drop d) .discard) := by
  obtain rfl | ⟨v, hi, hv⟩ := h
  · simp [exec, execFramingError, State.heard_open ha.open, State.heardAt_rx, ha.1, State.heardAt_rxHeld ha.open]
  · rw [exec_character hi, State.charAt_drop_inside ha]
    rw [← State.heardAt_rx (time := time)] at hv
    exact congrArg _ (State.spoils_character (State.heardAt_slot ha) hv)

end

/-- Settles O13. -/
theorem frameSpoiled : Obligations.FrameSpoiled := by
  intro s i b time n hn
  refine ⟨fun hi ha => ?_, fun d x u hx hi ha hu => ?_⟩
  · rw [exec_spoils_trunk hi ha, State.advance_eq_withTrunk, State.withTrunk_abandon ha.2, hn]
    rfl
  · subst hx
    have h := State.abandon_drop (n := n) (p := s.pool) (y := Drop.heard n (s.dropUnit d)) rfl ha.2.1
      (Drop.heard_receiving n _) rfl .discard
    rw [exec_spoils_drop hi ha, State.heardAt_eq rfl hn, hu]
    exact ⟨fun hw => congrArg _ (h.1 hw), fun hw => congrArg _ (h.2 hw)⟩

/-- Settles O12. -/
theorem frameFilled : Obligations.FrameFilled := by
  refine ⟨fun s i v u b time n hn => ⟨fun hi ha hroom hv => ?_, fun d x hx hi ha hroom hv => ?_⟩,
    fun s i b time n hn => ⟨fun hi ha he => ?_, fun d x hx hi ha he => ?_⟩⟩
  · rw [exec_character hi, State.charAt_trunk_inside ha, State.assembleChar_stands (u := s.advance time) (l := .trunk) hv,
      State.storeByte_room (u := s.advance time) (l := .trunk) ha.2 hroom, hn]
    rfl
  · subst hx
    have hrx : (s.heardAt time d).rx (.drop d) = (s.dropUnit d).rx := State.heardAt_rx
    rw [exec_character hi, State.charAt_drop_inside ha, State.assembleChar_stands (hrx ▸ hv),
      State.storeByte_room (State.heardAt_slot ha) (hrx ▸ hroom), State.heardAt_gapFrom rfl hn, hrx,
      State.heardAt_eq rfl hn, State.withDrop_content, State.withDrop_write, State.withDrop_setRx]
    rfl
  · rw [exec_character hi, State.charAt_trunk_inside ha, State.assembleChar_esc (u := s.advance time) (l := .trunk) he, hn]
    rfl
  · subst hx
    have hrx : (s.heardAt time d).rx (.drop d) = (s.dropUnit d).rx := State.heardAt_rx
    rw [exec_character hi, State.charAt_drop_inside ha, State.assembleChar_esc (hrx ▸ he), State.heardAt_gapFrom rfl hn, hrx,
      State.heardAt_eq rfl hn, State.withDrop_setRx]
    rfl

/-- Settles O15. -/
theorem badFrameDropped : Obligations.BadFrameDropped := by
  intro s b time n hn
  refine ⟨fun ha he hbad => ?_, fun d x v hx ha he hbad hv => ?_⟩
  · have hslot : (((s.advance time).countBad .trunk).rx .trunk).slot = some b := ha.2
    rw [exec_character rfl, State.charAt_trunk_inside ha, State.assembleChar_eof (u := s.advance time) (l := .trunk) he, State.endFrame_bad (u := s.advance time) (l := .trunk) ha.2 hbad,
      State.dropFrame_slot hslot, hn]
    rfl
  · subst hx
    have hrx : (s.heardAt time d).rx (.drop d) = (s.dropUnit d).rx := State.heardAt_rx
    have hslot : (((s.withDrop n s.pool d (Drop.heard n (s.dropUnit d)).spoilt)).rx (.drop d)).slot = some b := by
      rw [State.withDrop_rx]; exact ha.2.1
    have h := State.withDrop_afterFrame n (s.pool.release b) d (s := s) (y := v) rfl
      (by rw [hv]; exact Drop.heard_receiving n _) (by rw [hv]; rfl)
    have hend : (s.heardAt time d).assembleChar (.drop d) codeEof
        = (s.withDrop n (s.pool.release b) d v).afterFrame d := by
      rw [State.assembleChar_eof (hrx ▸ he), State.endFrame_bad (State.heardAt_slot ha) (hrx ▸ hbad),
        State.heardAt_eq rfl hn, State.withDrop_countBad, State.dropFrame_slot hslot, State.withDrop_setRx,
        State.withDrop_release, hv]
      rfl
    rw [exec_character rfl, State.charAt_drop_inside ha, hend]
    exact ⟨fun hw => congrArg _ (h.1 hw), fun hw => congrArg _ (h.2 hw)⟩

/-! ### Frames abandoned -/

theorem exec_break_trunk (s : State) (time : Nat) :
    exec (.breakRecognised ⟨.trunk, time⟩) s = .next (match s.trunk.rx.state with
      | .hunt => s.advance time
      | .discard => (s.advance time).setRx .trunk Receiver.idle
      | .assemble => (s.advance time).abandon .trunk .hunt) := rfl

theorem State.breakFound_drop (s : State) (time : Nat) (d : DropId) :
    (s.advance time).breakFound (.drop d) = s.withDrop (max s.now time) s.pool d
      (Drop.breakFound (decide (s.image.config ≠ .loading)) (max s.now time - charTime (s.dropUnit d).rate)
        (s.dropUnit d)) := rfl

/-- Settles O14. -/
theorem frameAbandoned : Obligations.FrameAbandoned := by
  refine ⟨fun s b time n hn => ⟨fun ha i hi => ?_, fun hrx i hi => ?_⟩, fun s d x w v b i time n hx ha hn hi hv => ?_,
    fun s d x time n hx hrx h1 h2 h3 hn => ?_⟩
  · have h : exec i s = .next ((s.advance time).abandon .trunk .hunt) := by
      obtain rfl | rfl | ⟨rfl, hgap⟩ := hi
      · rw [exec_character rfl, State.charAt_trunk_inside ha, State.assembleChar_abt]
      · rw [exec_break_trunk, ha.1]
      · have : (s.rx .trunk).gap = some time := hgap
        simp [exec, execGapExpiry, this]
    rw [h, State.advance_eq_withTrunk, State.withTrunk_abandon ha.2, hn]
    rfl
  · have habt : codeAbt ≠ codeSof := by decide
    obtain rfl | rfl := hi
    · rw [exec_character rfl, hn]
      simp only [State.charAt, State.takeChar, State.heard_trunk, State.rxHeld, Bool.false_eq_true, if_false, State.rx,
        State.advance_trunk, hrx, habt, if_true]
      rfl
    · rw [exec_break_trunk, hrx, hn]; rfl
  · subst hx
    have hw : w.rx = (s.dropUnit d).rx ∧ (w.line = .receiving ↔ (s.dropUnit d).line = .receiving)
        ∧ w.expiryHeld = (s.dropUnit d).expiryHeld ∧ w.counters = (s.dropUnit d).counters := by
      obtain ⟨_, rfl⟩ | ⟨_, rfl⟩ | ⟨_, _, rfl⟩ := hi
      · exact ⟨rfl, Drop.heard_receiving n _, rfl, rfl⟩
      · simp
      · exact ⟨rfl, Iff.rfl, rfl, rfl⟩
    obtain ⟨hwrx, hwline, hwheld, hwcount⟩ := hw
    have hexec : exec i s = .next ((s.withDrop n s.pool d w).abandon (.drop d) .hunt) := by
      obtain ⟨rfl, rfl⟩ | ⟨rfl, rfl⟩ | ⟨rfl, hgap, rfl⟩ := hi
      · rw [exec_character rfl, State.charAt_drop_inside ha, State.assembleChar_abt, State.heardAt_eq rfl hn]
      · simp only [exec, execBreakRecognised, State.breakFound_drop, State.withDrop_rx, ← hn, hwrx, ha.1]
      · have hgap' : (s.rx (.drop d)).gap = some time := hgap
        have hself : s.advance time = s.withDrop n s.pool d (s.dropUnit d) := by
          rw [hn]; exact (State.mapDrop_id (s.advance time) d).symm
        simp only [exec, execGapExpiry, hgap', hself]
    have h := State.abandon_drop (n := n) (p := s.pool) (y := w) rfl (hwrx ▸ ha.2.1) hwline hwheld .hunt
    rw [hwcount] at h
    rw [hexec, hv]
    exact ⟨fun hk => congrArg _ (h.1 hk), fun hk => congrArg _ (h.2 hk)⟩
  · subst hx
    rw [exec_character rfl, State.charAt_drop_abt ⟨h1, h2, h3⟩ hrx, State.heardAt_eq rfl hn, State.withDrop_setRx]
    rfl

/-! ### Frames begun -/

section
variable {s : State} {d : DropId} {b : BufId} {rest : List BufId} {time n : Nat}

theorem Pool.take_of_free {p : Pool} (h : p.free = b :: rest) : p.take = some (b, p.taken b rest) := by
  unfold Pool.take; rw [h]; rfl

theorem State.startedOver_drop (ha : DropAssembles s d b) (hn : n = max s.now time) :
    (s.heardAt time d).startedOver (.drop d) = s.withDrop n (s.pool.write b []) d { Drop.heard n (s.dropUnit d) with
      rx := { (s.dropUnit d).rx with
        count := 0, escape := false, gap := some (n + 20 * charTime (s.dropUnit d).rate) }
      counters := { (s.dropUnit d).counters with badFrames := bump (s.dropUnit d).counters.badFrames } } := by
  unfold State.startedOver
  rw [State.heardAt_slot ha, State.heardAt_rx, State.heardAt_eq rfl hn]
  simp only [State.withDrop_countBroken, State.withDrop_write, State.withDrop_setRx, State.gapFrom, State.withDrop_rate,
    State.withDrop_now]
  rfl

end

/-- Settles O11. -/
theorem sofReceived : Obligations.SofReceived := by
  refine ⟨fun s time n hrx hn => ⟨fun b rest hfree hroom => ?_, fun hfew => ?_⟩,
    fun s d x b rest time n hx hrx h1 h2 h3 hfree hn => ?_, fun s b time n hn => ⟨fun ha => ?_, fun d x u hx ha hu => ?_⟩⟩
  · have hmay : (s.advance time).mayTake .trunk = true := decide_eq_true hroom
    have htake : (s.advance time).pool.take = some (b, s.pool.taken b rest) := Pool.take_of_free hfree
    rw [exec_character rfl, State.charAt_trunk_sof hrx, State.acceptSof, if_pos hmay, htake, hn]
    rfl
  · have hmay : ¬ (s.advance time).mayTake .trunk = true := fun k => Nat.not_lt.2 hfew (of_decide_eq_true k)
    rw [exec_character rfl, State.charAt_trunk_sof hrx, State.acceptSof, if_neg hmay, hn]
    rfl
  · subst hx
    have htake : (s.heardAt time d).pool.take = some (b, s.pool.taken b rest) := Pool.take_of_free hfree
    have hmay : (s.heardAt time d).mayTake (.drop d) = true := rfl
    have hbegin : State.beginFrame (s.withDrop n (s.pool.taken b rest) d (Drop.heard n (s.dropUnit d))) (.drop d) b
        = s.withDrop n (s.pool.taken b rest) d { Drop.heard n (s.dropUnit d) with
          rx := { state := .assemble, slot := some b, count := 0, escape := false,
                  gap := some (n + 20 * charTime (s.dropUnit d).rate) }
          line := if (s.dropUnit d).line = .listening then .receiving else (Drop.heard n (s.dropUnit d)).line } := by
      simp only [State.beginFrame, State.withDrop_setRx, State.withDrop_mapDrop, Drop.sofTaken, Drop.heard_listening,
        State.gapFrom, State.withDrop_rate, State.withDrop_now]
      split <;> rfl
    rw [exec_character rfl, State.charAt_drop_sof ⟨h1, h2, h3⟩ hrx, State.acceptSof, if_pos hmay, htake]
    rw [State.heardAt_eq rfl hn]
    exact congrArg _ hbegin
  · rw [exec_character rfl, State.charAt_trunk_inside ha, State.assembleChar_sof, State.restartFrame_trunk]
    have hslot : ((s.advance time).rx .trunk).slot = some b := ha.2
    unfold State.startedOver
    rw [hslot, hn]
    rfl
  · subst hx
    have hstart := State.startedOver_drop ha hn
    have hu' : u = s.withDrop n (s.pool.write b []) d { Drop.heard n (s.dropUnit d) with
        rx := { (s.dropUnit d).rx with
          count := 0, escape := false, gap := some (n + 20 * charTime (s.dropUnit d).rate) }
        counters := { (s.dropUnit d).counters with badFrames := bump (s.dropUnit d).counters.badFrames } } := hu
    rw [exec_character rfl, State.charAt_drop_inside ha, State.assembleChar_sof, State.restartFrame_drop, hstart, ← hu']
    have hheld : (u.dropUnit d).expiryHeld = (s.dropUnit d).expiryHeld := by rw [hu', State.withDrop_dropUnit]; rfl
    have hline : (u.dropUnit d).line = .receiving ↔ (s.dropUnit d).line = .receiving := by
      rw [hu', State.withDrop_dropUnit]; exact Drop.heard_receiving n _
    refine ⟨fun hw => congrArg _ ?_, fun hw => congrArg _ ?_⟩
    · split
      · next he =>
        have hne : ¬ (u.dropUnit d).line = .receiving := fun k => hw ⟨hline.1 k, hheld.symm.trans he⟩
        rw [State.afterFrame, if_neg hne]
      · rfl
    · rw [if_pos (hheld.trans hw.2)]
      exact State.afterFrame_expires ⟨hline.2 hw.1, hheld.trans hw.2⟩

/-! ### Characters outside a frame -/

/-- The run at the head of a list that meets a test, and the first element past it. -/
theorem takeWhile_length_iff {α : Type} {p : α → Bool} (l : List α) (h : ∃ a ∈ l, p a = false) (k : Nat) :
    (l.takeWhile p).length = k ↔ (∃ a, l[k]? = some a ∧ p a = false) ∧ ∀ i, i < k → ∃ a, l[i]? = some a ∧ p a = true := by
  induction l generalizing k with
  | nil => simp at h
  | cons a l ih =>
    cases ha : p a with
    | false =>
      rw [List.takeWhile_cons_of_neg (by simp [ha])]
      cases k with
      | zero => simp [ha]
      | succ k =>
        refine ⟨nofun, fun ⟨_, hall⟩ => ?_⟩
        obtain ⟨b, hb, hp⟩ := hall 0 (by omega)
        simp only [List.getElem?_cons_zero, Option.some.injEq] at hb
        subst hb; simp [ha] at hp
    | true =>
      have hl : ∃ b ∈ l, p b = false := by
        obtain ⟨b, hb, hp⟩ := h
        obtain rfl | hb := List.mem_cons.1 hb
        · simp [ha] at hp
        · exact ⟨b, hb, hp⟩
      rw [List.takeWhile_cons_of_pos ha]
      cases k with
      | zero => simp [ha]
      | succ k =>
        rw [List.length_cons, Nat.add_right_cancel_iff, ih hl k]
        refine and_congr (by simp) ⟨fun hall i hi => ?_, fun hall i hi => by simpa using hall (i + 1) (by omega)⟩
        cases i with
        | zero => exact ⟨a, rfl, ha⟩
        | succ i => simpa using hall i (by omega)

/-- The stop bit and the data bits at mark that no space follows (R1). -/
theorem marksAtEnd_iff (v : Byte) (k : Nat) : marksAtEnd v = k ↔ k ≤ 9 ∧ (characterLevels v)[9 - k]? = some .space
    ∧ ∀ i, i < k → (characterLevels v)[9 - i]? = some .mark := by
  have hstart : ∃ a ∈ (characterLevels v).reverse, decide (a = Level.mark) = false :=
    ⟨.space, by simp [characterLevels], rfl⟩
  have hrev : ∀ i, i ≤ 9 → (characterLevels v).reverse[i]? = (characterLevels v)[9 - i]? := fun i hi => by
    rw [List.getElem?_reverse (by simp; omega), characterLevels_length]
  have hspace : ∀ a : Level, decide (a = Level.mark) = false ↔ a = .space := by intro a; cases a <;> decide
  rw [marksAtEnd, takeWhile_length_iff _ hstart]
  simp only [hspace, decide_eq_true_eq, exists_eq_right]
  constructor
  · rintro ⟨hend, hall⟩
    have hk : k ≤ 9 := by
      by_contra hk
      rw [List.getElem?_eq_none (by simp; omega)] at hend
      exact nomatch hend
    exact ⟨hk, hrev k hk ▸ hend, fun i hi => hrev i (by omega) ▸ hall i hi⟩
  · rintro ⟨hk, hend, hall⟩
    exact ⟨(hrev k hk).trans hend, fun i hi => (hrev i (by omega)).trans (hall i hi)⟩

/-- A framing error or the end of a break is heard with the line at mark from now. -/
theorem State.heard_now (s : State) (time : Nat) (d : DropId) :
    (s.advance time).heard 0 (.drop d) = s.withDrop (max s.now time) s.pool d
      (Drop.heardSince (max s.now time) (max s.now time) (s.dropUnit d)) := by
  rw [State.advance_heard, Nat.zero_mul, Nat.sub_zero]

/-- Settles O9. -/
theorem charactersIgnored : Obligations.CharactersIgnored := by
  refine ⟨⟨fun now x => rfl, marksAtEnd_iff⟩, fun s u time hu => ⟨fun i v hi hv hrx => ?_, fun hrx => ?_, fun hrx => ?_, ?_⟩,
    fun s d x u time n hx hn hu => ⟨fun i v hi hrx => ?_, fun hrx => ?_, ?_⟩⟩
  · rw [exec_character hi, State.charAt_trunk_ignored hv hrx, hu]; rfl
  · have hne : ¬ (((s.advance time).rx .trunk).state = .assemble ∧ (s.advance time).rxHeld .trunk = false) :=
      fun k => hrx k.1
    rw [hu]
    exact congrArg _ (if_neg hne)
  · rw [exec_break_trunk, hrx, hu]; rfl
  · rw [hu]; rfl
  · subst hx hn hu
    have hignored : ¬ (s.dropUnit d).Open ∨ (v ≠ codeSof
        ∧ ((s.dropUnit d).rx.state = .hunt ∨ ((s.dropUnit d).rx.state = .discard ∧ v ≠ codeAbt))) := by
      simp only [Drop.Open]; tauto
    rw [exec_character hi, State.charAt_drop_ignored hignored]
    rfl
  · subst hx hn hu
    have hne : ¬ ((((s.advance time).heard 0 (.drop d)).rx (.drop d)).state = .assemble
        ∧ ((s.advance time).heard 0 (.drop d)).rxHeld (.drop d) = false) := by
      rw [State.advance_rxHeld, State.heard_now, State.withDrop_rx, Bool.eq_false_iff, ne_eq, Drop.holdsReceiver_iff]
      simp only [Drop.heardSince, Drop.heard, Drop.Open]
      tauto
    exact congrArg _ ((if_neg hne).trans (State.heard_now s time d))
  · subst hx hn hu
    exact congrArg _ (State.heard_now s time d)

/-- Settles O10. -/
theorem dropLineLevel : Obligations.DropLineLevel := by
  refine ⟨fun s d x time n hx hn => ?_, fun measured fall x => ⟨fun h => ?_, fun h => ?_⟩, fun s d x y time n hx hn hy =>
    ⟨fun hrx => ?_, fun hrx => ?_⟩⟩
  · subst hx hn
    have h : Drop.fallen (decide (s.image.config ≠ .loading)) (max s.now time) (s.dropUnit d) = { s.dropUnit d with
        rxSpace := true
        breakSince := if s.image.config ≠ .loading ∧ (s.dropUnit d).line ≠ .sending ∧ (s.dropUnit d).line ≠ .fault
          then some (max s.now time) else none
        marking := if (s.dropUnit d).line = .fault then .atSpace else (s.dropUnit d).marking } := by
      simp only [Drop.fallen, Bool.and_eq_true, decide_eq_true_eq, and_assoc]
    exact congrArg (fun y => Host.Outcome.next (s.withDrop (max s.now time) s.pool d y)) h
  · simp [Drop.breakFound, h]
  · simp only [Drop.breakFound, h, Bool.false_eq_true, if_false, Bool.and_eq_true, decide_eq_true_eq, and_assoc]
  all_goals
    subst hx
    have hyrx : y.rx = (s.dropUnit d).rx := by simp [hy]
    simp only [exec, execBreakRecognised, State.breakFound_drop, State.withDrop_rx, ← hn, ← hy, hyrx, hrx,
      State.withDrop_setRx]
    rfl

end Sys2Proof.Machine
end

section
/-! PROOFS. The queue of commands, the pool's operations, the cold reset and the laws right after it. -/

namespace Sys2Proof.Machine

set_option Elab.async false

/-! ### The queue of commands -/

/-- Settles O1. -/
theorem stepRunsFront : Obligations.StepRunsFront := by
  intro c rest s h
  unfold step
  rw [h]

/-- The queue left alone, and the time never back. -/
def Goes (s t : State) : Prop := t.pending = s.pending ∧ s.now ≤ t.now

theorem Goes.of_keeps {s t : State} (hpending : t.pending = s.pending) (hnow : t.now = s.now) : Goes s t :=
  ⟨hpending, hnow.ge⟩

theorem Goes.of_advance {s t : State} {n : Nat} (hpending : t.pending = s.pending) (hnow : t.now = max s.now n) : Goes s t :=
  ⟨hpending, hnow ▸ Nat.le_max_left _ _⟩

theorem Goes.refl (s : State) : Goes s s := ⟨rfl, Nat.le_refl _⟩

section
variable (s : State)

theorem State.framingLost_keeps (l : Line) : (s.framingLost l).pending = s.pending ∧ (s.framingLost l).now = s.now := by
  unfold State.framingLost; split <;> simp

theorem State.breakLost_keeps (l : Line) : (s.breakLost l).pending = s.pending ∧ (s.breakLost l).now = s.now := by
  unfold State.breakLost; split <;> simp

theorem State.gapEnded_goes (l : Line) : Goes s (s.gapEnded l) := by
  unfold State.gapEnded; split
  · exact .refl s
  · next t _ => exact .of_advance (n := t) (by simp) (by simp)

theorem State.windowEnded_goes (d : DropId) : Goes s (s.windowEnded d) := by
  unfold State.windowEnded; split
  · exact .refl s
  · next t _ =>
    split
    · exact .of_advance (n := t) (by simp) (by simp)
    · split
      · exact .of_advance (n := t) rfl rfl
      · exact .refl s

theorem State.guardEnded_goes (d : DropId) : Goes s (s.guardEnded d) := by
  unfold State.guardEnded; split
  · exact .of_advance (n := (s.dropUnit d).lastChar + guardTime (s.dropUnit d).rate) (by simp) (by simp)
  · exact .refl s

theorem State.deadlineEnded_goes (t : Tag) : Goes s (s.deadlineEnded t) := by
  unfold State.deadlineEnded; split
  · exact .refl s
  · next e _ =>
    split
    · exact .of_advance (n := e.deadline.getD s.now) (by simp [State.fetchDueSince]) (by simp [State.fetchDueSince])
    · exact .refl s

theorem State.breakMeasured_goes (d : DropId) : Goes s (s.breakMeasured d) := by
  unfold State.breakMeasured; split
  · exact .refl s
  · next t _ =>
    split
    · exact .refl s
    · exact .of_advance (n := t + faultLimit (s.dropUnit d).rate) (by simp) (by simp)

theorem State.markingMeasured_goes (d : DropId) : Goes s (s.markingMeasured d) := by
  unfold State.markingMeasured; split
  · next t _ _ =>
    split
    · exact .of_advance (n := t + recoveryLimit (s.dropUnit d).rate) (by simp [State.faultLeft]) (by simp [State.faultLeft])
    · exact .of_advance (n := t + recoveryLimit (s.dropUnit d).rate) rfl rfl
  · exact .refl s

theorem State.dropEofSent_goes (d : DropId) : Goes s (s.dropEofSent d) := by
  unfold State.dropEofSent; split
  · next src r began _ =>
    split
    · exact .of_advance (n := began + s.sendingTime src r) (by simp) (by simp)
    · exact .refl s
  all_goals exact .refl s

theorem State.trunkEofSent_goes : Goes s s.trunkEofSent := by
  unfold State.trunkEofSent; split
  · next src r began _ =>
    exact .of_advance (n := began + s.sendingTime src r) (by simp [State.trunkIdleAt]) (by simp [State.trunkIdleAt])
  all_goals exact .refl s

theorem State.abtSent_goes (l : Line) : Goes s (s.abtSent l) := by
  unfold State.abtSent; split
  · next r began _ =>
    split
    · exact .of_advance (n := began + 2 * charTime r) (by simp [State.trunkIdleAt]) (by simp [State.trunkIdleAt])
    · exact .of_advance (n := began + 2 * charTime r) (by simp [State.dropIdleNow]) (by simp [State.dropIdleNow])
  all_goals exact .refl s

theorem State.headerRead_keeps (bytes : List Byte) :
    (s.headerRead bytes).pending = s.pending ∧ (s.headerRead bytes).now = s.now := by
  unfold State.headerRead; (repeat' split) <;> simp

theorem State.endRecordRead_keeps (rest : List Byte) :
    (s.endRecordRead rest).pending = s.pending ∧ (s.endRecordRead rest).now = s.now := by
  unfold State.endRecordRead; (repeat' split) <;> simp

theorem State.truncatedRead_keeps (bytes : List Byte) :
    (s.truncatedRead bytes).pending = s.pending ∧ (s.truncatedRead bytes).now = s.now := by
  unfold State.truncatedRead; (repeat' split) <;> simp

theorem State.checkRead_keeps (high low : Byte) :
    (s.checkRead high low).pending = s.pending ∧ (s.checkRead high low).now = s.now := by
  unfold State.checkRead; (repeat' split) <;> simp

theorem State.writeAcknowledged_keeps : s.writeAcknowledged.pending = s.pending ∧ s.writeAcknowledged.now = s.now := by
  unfold State.writeAcknowledged State.nextWrite
  (repeat' split) <;> simp [State.takeWrite]

theorem State.record_keeps (type : Byte) (fields : List Byte) (act : State → Load → State)
    (ha : ∀ (u : State) (l : Load), (act u l).pending = u.pending ∧ (act u l).now = u.now) :
    Goes s (s.takeRecord type fields act) :=
  .of_keeps (State.takeRecord_keeps State.pending s type fields act (fun _ _ => rfl) (fun _ => rfl) fun u l => (ha u l).1)
    (State.takeRecord_keeps State.now s type fields act (fun _ _ => rfl) (fun _ => rfl) fun u l => (ha u l).2)

theorem Goes.trans {s t u : State} (h : Goes s t) (k : Goes t u) : Goes s u := ⟨k.1.trans h.1, Nat.le_trans h.2 k.2⟩

theorem Goes.advance (s : State) (n : Nat) : Goes s (s.advance n) := ⟨rfl, Nat.le_max_left _ _⟩

theorem State.charAt_goes (l : LineAt) (v : Byte) : Goes s (s.charAt l v) :=
  .of_advance (State.charAt_keeps s l v).2.2.2 (State.charAt_keeps s l v).1

/-- Every command leaves the queue alone and never takes the time back. -/
theorem State.after_goes (i : Instr) : Goes s (s.after i) := by
  cases i with
  | coldReset straps => exact .of_keeps (by simp [State.after]) (by simp [State.after])
  | sofReceived l => exact s.charAt_goes l codeSof
  | contentCharacter l v => exact s.charAt_goes l v
  | eofReceived l => exact s.charAt_goes l codeEof
  | abtReceived l => exact s.charAt_goes l codeAbt
  | ignoredCharacter l v => exact s.charAt_goes l v
  | framingError l =>
    have h := State.framingLost_keeps ((s.advance l.time).heard 0 l.line) l.line
    exact .of_advance (n := l.time) (h.1.trans (by simp)) (h.2.trans (by simp))
  | breakRecognised l =>
    have h := State.breakLost_keeps ((s.advance l.time).breakFound l.line) l.line
    exact .of_advance (n := l.time) (h.1.trans (by simp)) (h.2.trans (by simp))
  | breakEnd l => exact .of_advance (n := l.time) (by simp [State.after]) (by simp [State.after])
  | lineFallsToSpace d => exact Goes.advance s d.time
  | gapExpiry l => exact s.gapEnded_goes l
  | dropEofSent d => exact s.dropEofSent_goes d
  | windowExpiry d => exact s.windowEnded_goes d
  | guardEnd d => exact s.guardEnded_goes d
  | deadlineExpiry t => exact s.deadlineEnded_goes t
  | dropFault d => exact s.breakMeasured_goes d
  | dropRecovery d => exact s.markingMeasured_goes d
  | trunkEofSent => exact s.trunkEofSent_goes
  | memoryPollTimeout => exact .of_keeps (by simp [State.after]) (by simp [State.after])
  | memoryByteNotAcknowledged => exact .of_keeps (by simp [State.after]) (by simp [State.after])
  | loadHeaderRead m0 m1 version high low =>
    exact .of_keeps (s.headerRead_keeps _).1 (s.headerRead_keeps _).2
  | settingsRecord fields => exact s.record_keeps _ _ _ fun u l => by simp
  | dropRecord fields => exact s.record_keeps _ _ _ fun u l => by simp
  | stationRecord fields => exact s.record_keeps _ _ _ fun u l => by simp
  | unknownRecord type fields => exact s.record_keeps _ _ _ fun u l => ⟨rfl, rfl⟩
  | endRecord rest => exact .of_keeps (s.endRecordRead_keeps _).1 (s.endRecordRead_keeps _).2
  | truncatedRecord bytes => exact .of_keeps (s.truncatedRead_keeps _).1 (s.truncatedRead_keeps _).2
  | loadEnd high low => exact .of_keeps (s.checkRead_keeps _ _).1 (s.checkRead_keeps _ _).2
  | storeWriteAcknowledged => exact .of_keeps s.writeAcknowledged_keeps.1 s.writeAcknowledged_keeps.2
  | abtSent l => exact (Goes.advance s l.time).trans (State.abtSent_goes _ _)

end

/-- Settles O2. -/
theorem everyCommandCompletes : Obligations.EveryCommandCompletes :=
  ⟨fun c s => ⟨s.after c, exec_eq c s, s.after_goes c⟩, fun s h => by unfold step; rw [h]⟩

/-! ### The pool -/

/-- Settles O16. -/
theorem poolOperations : Obligations.PoolOperations := by
  intro p
  refine ⟨fun h => by unfold Pool.take; rw [h], fun b rest h => Pool.take_of_free h, fun b c n hb => ⟨?_, fun hn => ?_,
    fun hn => ?_, fun c' => ?_⟩⟩
  · unfold Pool.hold; rw [hb]; rfl
  · unfold Pool.release; rw [hb]; exact if_neg (Nat.not_le.2 hn)
  · unfold Pool.release; rw [hb]; exact if_pos hn
  · unfold Pool.write; rw [hb]; rfl

/-! ### The cold reset -/

@[simp] theorem State.reset_dropUnit (d : DropId) : State.reset.dropUnit d = Drop.cold := by
  simp [State.reset, State.dropUnit]

@[simp] theorem State.reset_exchange (t : Tag) : State.reset.exchange t = none := by
  simp [State.reset, State.exchange]

/-- Settles O7. -/
theorem resetValues : Obligations.ResetValues := by
  refine ⟨rfl, rfl, rfl, State.reset_exchange, rfl, fun b => by simp [State.reset, Pool.cold], rfl, rfl, rfl, rfl, rfl,
    by decide, fun d => ?_, rfl, by simp [State.flt, State.reset, Drop.cold]⟩
  rw [State.reset_dropUnit]
  exact ⟨rfl, rfl, rfl, rfl, rfl, rfl, rfl, rfl, rfl, rfl, rfl, by decide⟩

/-- Settles O8. -/
theorem coldResetState : Obligations.ColdResetState := by
  intro straps s
  refine ⟨s.coldReset straps, rfl, ?_, fun h => ?_, fun x h => ?_⟩
  · have hnow : s.cutOffWrite.now = s.now := by simp
    have hdrops : s.cutOffWrite.drops = s.drops := by simp
    have hpending : s.cutOffWrite.pending = s.pending := by simp
    simp only [State.coldReset, hnow, hdrops, hpending]
    rfl
  · have hcut : s.cutOffWrite = s := by unfold State.cutOffWrite; rw [h]
    exact (congrArg State.memory hcut : s.cutOffWrite.memory = s.memory)
  · have hmem : (s.coldReset straps).memory
        = (if Config.writeReachedStop s.chance then s.takeWrite x.current else s).memory := by
      simp only [State.coldReset, State.cutOffWrite, h]
    rw [hmem]
    split
    · exact .inr rfl
    · exact .inl rfl

/-! ### The laws right after it -/

theorem State.reset_eq_coldReset : State.reset = State.reset.coldReset 0 := by
  have hdrops : (Vector.replicate 4 Drop.cold).map Drop.coldReset = Vector.replicate 4 Drop.cold := by
    rw [Vector.map_replicate]; rfl
  exact congrArg (fun x => { State.reset with drops := x }) hdrops.symm

/-- Settles O57: what concerns the table is empty, and the laws of the work and the holds are a cold reset's. -/
theorem resetLaws : Obligations.ResetLaws := by
  have hsound : Sound .hold nobody [] 0 State.reset := State.reset_eq_coldReset ▸ Sound.coldReset _ 0
  have hheld := hsound.hold rfl
  have hloading : LoadingLaw State.reset := State.reset_eq_coldReset ▸ LoadingLaw.coldReset
  have hrange : RangeLaw State.reset := by
    refine ⟨by decide, nofun, fun l hl => ?_, nofun⟩
    cases hl
    exact ⟨nofun, nofun, nofun, nofun⟩
  have hcount : CountLaw State.reset := by
    refine ⟨by unfold TrunkCounters.bounded; decide, fun d => ?_, nofun, by decide, by decide⟩
    rw [State.reset_dropUnit]; unfold DropCounters.bounded; decide
  have htable : TableLaw State.reset :=
    ⟨⟨by decide, List.Pairwise.nil, nofun, List.Pairwise.nil⟩, fun _ => rfl, nofun⟩
  have hqueue : QueueLaw State.reset := fun d => by
    rw [State.reset_dropUnit]; exact ⟨by decide, List.Pairwise.nil⟩
  refine ⟨hloading, nofun, hheld.pool, htable, hqueue, hsound.work, fun t u e f he => ?_, hcount, hrange, rfl,
    ⟨hloading, hheld.pool, hheld.holdLaw, hheld.reserveLaw, hheld.receiver, hsound.work, hheld.request,
      hsound.serviceLaw (by decide)⟩, nofun, fun t e he => ?_⟩
  all_goals rw [State.reset_exchange] at he; cases he

end Sys2Proof.Machine
end

section
/-! PROOFS. Frame content: its check, its characters, its fields; and content sent on the trunk, received. -/

namespace Sys2Proof.Machine

set_option Elab.async false

/-! ### The check (R5) -/

theorem append_bit (a b : Byte) (i : Nat) :
    BitVec.getLsbD (w := 16) (a ++ b) i = if i < 8 then b.getLsbD i else a.getLsbD (i - 8) := BitVec.getLsbD_append

theorem Word16.high_append (a b : Byte) : Word16.high (a ++ b) = a := by
  apply BitVec.eq_of_getLsbD_eq
  intro i hi
  simp [Word16.high, append_bit, hi]

theorem Word16.low_append (a b : Byte) : Word16.low (a ++ b) = b := by
  apply BitVec.eq_of_getLsbD_eq
  intro i hi
  simp [Word16.low, append_bit, hi]

theorem Word16.append_high_low (w : Word16) : w.high ++ w.low = w := by
  apply BitVec.eq_of_getLsbD_eq
  intro i hi
  rw [append_bit]
  by_cases h : i < 8
  · simp [Word16.low, h]
  · simp [Word16.high, h, show i - 8 < 8 by omega, show 8 + (i - 8) = i by omega]

/-- The register's own high byte taken in leaves its low byte. -/
theorem xor_high (w : Word16) : w ^^^ (w.high.setWidth 16 <<< 8) = w.low.setWidth 16 := by
  apply BitVec.eq_of_getLsbD_eq
  intro i hi
  by_cases h : i < 8
  · simp [Word16.low, h, hi]
  · simp [Word16.high, Word16.low, h, hi, show i - 8 < 8 by omega, show 8 + (i - 8) = i by omega]

theorem checkBit_small {w : Word16} (h : w.toNat < 2 ^ 15) : (checkBit w).toNat = 2 * w.toNat := by
  have hmsb : w.msb = false := by rw [BitVec.msb_eq_false_iff_two_mul_lt]; omega
  unfold checkBit
  rw [hmsb, if_neg (by decide), BitVec.toNat_shiftLeft, Nat.shiftLeft_eq]
  omega

/-- A register below 256 goes through eight bits without a feedback. -/
theorem checkByte_of_low {r : Word16} {b c : Byte} (h : r ^^^ (b.setWidth 16 <<< 8) = c.setWidth 16) :
    checkByte r b = c.setWidth 16 <<< 8 := by
  have hc : (c.setWidth 16).toNat < 256 := by
    rw [BitVec.toNat_setWidth_of_le (by decide)]; exact c.isLt
  unfold checkByte
  rw [h]
  apply BitVec.eq_of_toNat_eq
  rw [BitVec.toNat_shiftLeft, Nat.shiftLeft_eq, Nat.mod_eq_of_lt (by omega)]
  generalize BitVec.setWidth 16 c = w at hc ⊢
  have h1 := checkBit_small (w := w) (by omega)
  have h2 := checkBit_small (w := checkBit w) (by omega)
  have h3 := checkBit_small (w := checkBit (checkBit w)) (by omega)
  have h4 := checkBit_small (w := checkBit (checkBit (checkBit w))) (by omega)
  have h5 := checkBit_small (w := checkBit (checkBit (checkBit (checkBit w)))) (by omega)
  have h6 := checkBit_small (w := checkBit (checkBit (checkBit (checkBit (checkBit w))))) (by omega)
  have h7 := checkBit_small (w := checkBit (checkBit (checkBit (checkBit (checkBit (checkBit w)))))) (by omega)
  have h8 := checkBit_small (w := checkBit (checkBit (checkBit (checkBit (checkBit (checkBit (checkBit w))))))) (by omega)
  omega

theorem check_withCheck (bs : List Byte) : check (withCheck bs) = 0#16 := by
  have happend : check (withCheck bs) = checkByte (checkByte (check bs) (check bs).high) (check bs).low := by
    simp [check, checkBytes, withCheck, List.foldl_append]
  rw [happend, checkByte_of_low (xor_high _),
    checkByte_of_low (c := 0#8) (by rw [BitVec.xor_self]; rfl)]
  rfl

/-! ### The characters of a frame (R4) -/

theorem codes_eq : codeSof = 0xD3#8 ∧ codeEof = 0xD5#8 ∧ codeEsc = 0xD7#8 ∧ codeAbt = 0xD9#8 := ⟨rfl, rfl, rfl, rfl⟩

theorem isCode_iff (v : Byte) : isCode v = true ↔ v ∈ [0xD3#8, 0xD5#8, 0xD7#8, 0xD9#8] := by
  simp [isCode, codes_eq, or_assoc]

theorem escapeByte_code {v : Byte} (h : isCode v = true) : escapeByte v = [codeEsc, v ^^^ 0x20#8] := if_pos h

theorem escapeByte_plain {v : Byte} (h : isCode v = false) : escapeByte v = [v] := if_neg (by simp [h])

/-- A code's inversion is no code. -/
theorem isCode_inverted {v : Byte} (h : isCode v = true) : isCode (v ^^^ 0x20#8) = false := by
  rw [isCode_iff] at h
  simp only [List.mem_cons, List.not_mem_nil, or_false] at h
  rcases h with rfl | rfl | rfl | rfl <;> rfl

theorem mem_escapeByte {u v : Byte} (h : v ∈ escapeByte u) : v = codeEsc ∨ isCode v = false := by
  cases hu : isCode u with
  | false => rw [escapeByte_plain hu, List.mem_singleton] at h; exact .inr (h ▸ hu)
  | true =>
    rw [escapeByte_code hu, List.mem_cons, List.mem_singleton] at h
    exact h.imp id fun k => by rw [k]; exact isCode_inverted hu

theorem escaped_length (c : List Byte) : (c.flatMap escapeByte).length = c.length + (c.filter isCode).length := by
  induction c with
  | nil => rfl
  | cons v c ih =>
    rw [List.flatMap_cons, List.length_append, ih, List.length_cons]
    cases hv : isCode v with
    | false => rw [escapeByte_plain hv, List.filter_cons_of_neg (by simp [hv]), List.length_singleton]; omega
    | true =>
      rw [escapeByte_code hv, List.filter_cons_of_pos hv]
      simp only [List.length_cons, List.length_nil]
      omega

theorem lineCharacters_length (c : List Byte) : (lineCharacters c).length = c.length + (c.filter isCode).length + 2 := by
  rw [lineCharacters, List.length_append, List.length_cons, escaped_length, List.length_singleton]

/-! ### The fields of a frame (R14, R18) -/

theorem withCheck_length (bs : List Byte) : (withCheck bs).length = bs.length + 2 := by simp [withCheck]

/-- The bytes before the check. -/
@[simp] theorem checked_withCheck (bs : List Byte) : checked (withCheck bs) = bs := by
  rw [checked, withCheck_length, Nat.add_sub_cancel]
  exact List.take_left

/-- Content that ends in the check of what is before. -/
theorem withCheck_checked_iff {c : List Byte} (h : 2 ≤ c.length) : withCheck (checked c) = c
    ↔ check (c.take (c.length - 2)) = c.getD (c.length - 2) 0#8 ++ c.getD (c.length - 1) 0#8 := by
  have hsplit : c = checked c ++ [c.getD (c.length - 2) 0#8, c.getD (c.length - 1) 0#8] := by
    have hend : c.drop (c.length - 2) = [c.getD (c.length - 2) 0#8, c.getD (c.length - 1) 0#8] := by
      rw [List.drop_eq_getElem_cons (by omega), List.drop_eq_getElem_cons (by omega), List.drop_eq_nil_of_le (by omega),
        List.getD_eq_getElem _ _ (by omega), List.getD_eq_getElem _ _ (by omega)]
      simp only [show c.length - 2 + 1 = c.length - 1 by omega]
    rw [← hend]; exact (List.take_append_drop _ _).symm
  change checked c ++ [(check (checked c)).high, (check (checked c)).low] = c ↔ check (checked c) = _
  conv_lhs => rhs; rw [hsplit]
  rw [List.append_cancel_left_eq]
  constructor
  · intro h
    simp only [List.cons.injEq, and_true] at h
    rw [← h.1, ← h.2, Word16.append_high_low]
  · intro h
    rw [h, Word16.high_append, Word16.low_append]

theorem validFrame_iff (c : List Byte) : validFrame c = true ↔ 7 ≤ c.length ∧ (c.getD 4 0#8).toNat = c.length - 7
    ∧ check (c.take (c.length - 2)) = c.getD (c.length - 2) 0#8 ++ c.getD (c.length - 1) 0#8 := by
  simp only [validFrame, Bool.and_eq_true, decide_eq_true_eq, and_assoc]
  refine and_congr_right fun h => and_congr_right fun _ => withCheck_checked_iff (by omega)

section
variable (dest src kind seq v : Byte) {body : List Byte}

theorem frame_length : (frame dest src kind seq body).length = body.length + 7 := by
  rw [frame, withCheck_length]; rfl

@[simp] theorem checked_frame : checked (frame dest src kind seq body)
    = dest :: src :: kind :: seq :: Byte.ofNat body.length :: body := checked_withCheck _

theorem frame_fields : destOf (frame dest src kind seq body) = dest ∧ srcOf (frame dest src kind seq body) = src
    ∧ kindOf (frame dest src kind seq body) = kind ∧ seqOf (frame dest src kind seq body) = seq
    ∧ lenOf (frame dest src kind seq body) = Byte.ofNat body.length ∧ bodyOf (frame dest src kind seq body) = body := by
  refine ⟨rfl, rfl, rfl, rfl, rfl, ?_⟩
  rw [bodyOf, checked_frame]; rfl

theorem validFrame_frame (h : body.length ≤ 240) : validFrame (frame dest src kind seq body) = true := by
  have hlen : (lenOf (frame dest src kind seq body)).toNat = body.length := by
    rw [(frame_fields dest src kind seq).2.2.2.2.1]
    rw [Byte.ofNat, BitVec.toNat_ofNat]
    exact Nat.mod_eq_of_lt (by omega)
  simp only [validFrame, Bool.and_eq_true, decide_eq_true_eq, frame_length, hlen, checked_frame]
  exact ⟨⟨by omega, by omega⟩, rfl⟩

end

/-- Settles O3. -/
theorem frameFormat : Obligations.FrameFormat := by
  refine ⟨⟨check_withCheck, by decide +kernel⟩, fun c => ⟨rfl, ?_, fun v hv => ?_⟩, fun dest src kind seq v body h => ?_,
    fun c => ⟨validFrame_iff c, rfl, rfl, rfl, rfl, rfl⟩⟩
  · have hfilter : c.filter (fun v => v ∈ [0xD3#8, 0xD5#8, 0xD7#8, 0xD9#8]) = c.filter isCode :=
      List.filter_congr fun v _ => by rw [Bool.eq_iff_iff, decide_eq_true_iff, isCode_iff]
    rw [hfilter, lineCharacters_length]
  · obtain ⟨u, _, hu⟩ := List.mem_flatMap.1 hv
    obtain rfl | hplain := mem_escapeByte hu
    · decide
    · simp only [isCode, codes_eq, Bool.or_eq_false_iff, decide_eq_false_iff_not] at hplain
      obtain ⟨⟨⟨hsof, heof⟩, _⟩, habt⟩ := hplain
      exact ⟨hsof, heof, habt⟩
  · obtain ⟨h0, h1, h2, h3, _, h5⟩ := frame_fields dest src kind seq (body := body)
    refine ⟨validFrame_frame _ _ _ _ h, h0, h1, h2, h3, h5, ?_, ?_⟩
    · rw [rewriteDest, checked_frame]; rfl
    · rw [rewriteSrc, checked_frame]; rfl

/-! ### Content received on the trunk (R8, R9) -/

/-- The trunk receiver with content `c` so far in buffer `b`, an escape pending or not, its last character at `n`. -/
def State.filling (s : State) (b : BufId) (rest : List BufId) (c : List Byte) (esc : Bool) (n : Nat) : State :=
  s.withTrunk n { buffers := s.pool.buffers.set b (some { content := c, count := 1 }), free := rest } { s.trunk with
    rx := { state := .assemble, slot := some b, count := c.length, escape := esc,
            gap := some (n + 20 * charTime s.trunk.rate) } }

section
variable {s : State} {b : BufId} {rest : List BufId} {c : List Byte} {esc : Bool} {n time : Nat} {u v : Byte}

theorem State.filling_assembles : TrunkAssembles (s.filling b rest c esc n) b := ⟨rfl, rfl⟩

theorem State.filling_content : (s.filling b rest c esc n).content b = c := by
  simp [State.filling, State.withTrunk, State.content, Pool.content]

/-- A character that stands for a content byte, in room. -/
theorem exec_filling (hc : c.length < 247) (hv : StandsFor (s.filling b rest c esc n).trunk.rx v u) :
    exec (.contentCharacter ⟨.trunk, time⟩ v) (s.filling b rest c esc n)
      = .next (s.filling b rest (c ++ [u]) false (max n time)) := by
  have h := (frameFilled.1 (s.filling b rest c esc n) (.contentCharacter ⟨.trunk, time⟩ v) v u b time _ rfl).1 rfl
    State.filling_assembles hc hv
  have hwrite : (s.filling b rest c esc n).pool.write b
      (((s.filling b rest c esc n).content b).take (s.filling b rest c esc n).trunk.rx.count ++ [u])
      = { buffers := s.pool.buffers.set b (some { content := c ++ [u], count := 1 }), free := rest } := by
    rw [State.filling_content, show (s.filling b rest c esc n).trunk.rx.count = c.length from rfl, List.take_length]
    simp [State.filling, State.withTrunk, Pool.write]
  have hcount : (c ++ [u]).length = c.length + 1 := by simp
  rw [h, hwrite]
  simp only [State.filling, hcount]
  rfl

theorem exec_filling_esc :
    exec (.contentCharacter ⟨.trunk, time⟩ codeEsc) (s.filling b rest c false n)
      = .next (s.filling b rest c true (max n time)) :=
  (frameFilled.2 (s.filling b rest c false n) (.contentCharacter ⟨.trunk, time⟩ codeEsc) b time _ rfl).1 rfl
    State.filling_assembles rfl

theorem runAll_cons {i : Instr} {is : List Instr} {t : State} (h : exec i s = .next t) : runAll (i :: is) s = runAll is t := by
  rw [runAll, h]

/-- Content sent escaped, character by character. -/
theorem runAll_filling (c' : List Byte) : ∀ (c : List Byte) (n : Nat) (rows : List (Byte × Nat)), c.length + c'.length ≤ 247 →
    rows.map Prod.fst = c'.flatMap escapeByte → runAll (contentRows rows) (s.filling b rest c false n)
      = .next (s.filling b rest (c ++ c') false (rows.foldl (fun m r => max m r.2) n)) := by
  induction c' with
  | nil =>
    intro c n rows _ hrows
    obtain rfl : rows = [] := by simpa using hrows
    rw [List.append_nil]; rfl
  | cons u c' ih =>
    intro c n rows hlen hrows
    rw [List.length_cons] at hlen
    have hnext : (c ++ [u]).length + c'.length ≤ 247 := by rw [List.length_append, List.length_singleton]; omega
    have hwhole : c ++ u :: c' = c ++ [u] ++ c' := by simp
    cases hu : isCode u with
    | false =>
      rw [List.flatMap_cons, escapeByte_plain hu, List.singleton_append, List.map_eq_cons_iff] at hrows
      obtain ⟨⟨v, t⟩, rows', rfl, rfl, hrows'⟩ := hrows
      rw [contentRows, List.map_cons, runAll_cons (exec_filling (by omega) (.inl ⟨rfl, hu, rfl⟩)), hwhole]
      exact ih _ _ _ hnext hrows'
    | true =>
      rw [List.flatMap_cons, escapeByte_code hu, List.cons_append, List.singleton_append, List.map_eq_cons_iff] at hrows
      obtain ⟨⟨e, t⟩, rows₁, rfl, rfl, hrows₁⟩ := hrows
      obtain ⟨⟨v, t'⟩, rows', rfl, rfl, hrows'⟩ := List.map_eq_cons_iff.1 hrows₁
      rw [contentRows, List.map_cons, runAll_cons exec_filling_esc, List.map_cons,
        runAll_cons (exec_filling (by omega) (.inr ⟨rfl, hu, rfl⟩)), hwhole]
      exact ih _ _ _ hnext hrows'

end

/-- Settles O4, by induction on the content. -/
theorem trunkRoundTrip : Obligations.TrunkRoundTrip := by
  intro s c b rest time n rows hrx hfree hroom hlen hrows hn
  have hsof : exec (.sofReceived ⟨.trunk, time⟩) s = .next (s.filling b rest [] false (max s.now time)) :=
    ((sofReceived.1 s time _ hrx rfl).1 b rest hfree hroom)
  have h := runAll_filling (s := s) (b := b) (rest := rest) c [] (max s.now time) rows (by simpa using hlen) hrows
  rw [runAll_cons hsof, h, ← hn]
  rfl

end Sys2Proof.Machine
end

section
/-! PROOFS. The characters on the lines bit by bit, and the levels of TTXD, DnTXD and DnDE. -/

namespace Sys2Proof.Machine

set_option Elab.async false

/-! ### What a receiver hears (R1) -/

theorem hear_marks (n : Nat) (ls : List Level) :
    Hearing.rest.hear (List.replicate n .mark ++ ls) = Hearing.rest.hear ls := by
  induction n with
  | zero => rfl
  | succ n ih => rw [List.replicate_succ, List.cons_append]; exact ih

theorem hear_data (data : List Level) : ∀ (bits ls : List Level), bits.length + data.length ≤ 8 →
    (Hearing.within bits).hear (data ++ ls) = (Hearing.within (bits ++ data)).hear ls := by
  induction data with
  | nil => intro bits ls _; rw [List.append_nil]; rfl
  | cons l data ih =>
    intro bits ls h
    rw [List.length_cons] at h
    have hsample : (Hearing.within bits).sample l = (.within (bits ++ [l]), none) := by
      simp only [Hearing.sample, if_pos (show bits.length < 8 by omega)]
    rw [List.cons_append, Hearing.hear, hsample, Option.toList_none, List.nil_append,
      ih (bits ++ [l]) ls (by simp; omega), List.append_assoc, List.singleton_append]

/-- The start bit and eight data bits. -/
theorem hear_started {data : List Level} (h : data.length = 8) (ls : List Level) :
    Hearing.rest.hear (.space :: data ++ ls) = (Hearing.within data).hear ls := by
  rw [List.cons_append, Hearing.hear, sample_space_at_rest, Option.toList_none, List.nil_append]
  exact hear_data data [] ls (by simp [h])

theorem within_stop {data : List Level} (h : data.length = 8) :
    (Hearing.within data).sample .mark = (.rest, some (.character (dataByte data)))
      ∧ (Hearing.within data).sample .space = (.stopAtSpace, none) := by
  simp only [Hearing.sample, if_neg (show ¬ data.length < 8 by omega), and_self]

theorem hear_character (v : Byte) (ls : List Level) :
    Hearing.rest.hear (characterLevels v ++ ls) = .character v :: Hearing.rest.hear ls := by
  have hlen : ((List.range 8).map (fun i => Level.ofBit (v.getLsbD i))).length = 8 := by simp
  rw [characterLevels, List.append_assoc, hear_started hlen, List.singleton_append, Hearing.hear, (within_stop hlen).1,
    dataByte_of_bits]
  rfl

theorem hear_run (run : List (Nat × Byte)) :
    Hearing.rest.hear (run.flatMap (fun x => List.replicate x.1 .mark ++ characterLevels x.2))
      = run.map (fun x => .character x.2) := by
  induction run with
  | nil => rfl
  | cons x run ih => rw [List.flatMap_cons, List.append_assoc, hear_marks, hear_character, ih, List.map_cons]

theorem hear_break (n : Nat) (after : List Level) :
    Hearing.inBreak.hear (List.replicate n .space ++ .mark :: after) = .breakEnd :: Hearing.rest.hear after := by
  induction n with
  | zero => rfl
  | succ n ih => rw [List.replicate_succ, List.cons_append]; exact ih

theorem characterOf_command (l : LineAt) (v : Byte) : characterOf ((Heard.character v).command l) = some (l, v) := by
  simp only [Heard.command]
  split
  · next h => rw [h]; rfl
  · split
    · next h => rw [h]; rfl
    · split
      · next h => rw [h]; rfl
      · rfl

theorem characterLevels_bit (v : Byte) {i : Nat} (h : i < 8) :
    (characterLevels v)[i + 1]? = some (if v.getLsbD i = true then .mark else .space) := by
  rw [characterLevels, List.cons_append, List.getElem?_cons_succ, List.getElem?_append_left (by simp [h]), List.getElem?_map,
    List.getElem?_range h]
  rfl

/-- Settles O5. -/
theorem lineCharacters_hold : Obligations.LineCharacters := by
  refine ⟨fun v => ⟨characterLevels_length v, rfl, ?_, fun i => characterLevels_bit v⟩, hear_run,
    fun data after n h => ⟨?_, ?_⟩, fun l => ⟨characterOf_command l, rfl, rfl, rfl⟩⟩
  · simp [characterLevels]
  · rw [hear_started h, Hearing.hear, (within_stop h).2]
    rfl
  · rw [List.append_assoc, hear_started h, List.cons_append, Hearing.hear, (within_stop h).2, List.replicate_succ]
    simp only [Option.toList_none, List.nil_append, List.cons_append]
    rw [Hearing.hear]
    exact congrArg _ (hear_break n after)

/-! ### What a transmitter puts on its line (R17, R19, R20) -/

/-- The time in bit times within character `k`. -/
theorem bits_within {r : Rate} {began k time : Nat} (hlow : began + k * charTime r ≤ time) :
    (time - began) * 10 / charTime r = 10 * k + (time - (began + k * charTime r)) * 10 / charTime r := by
  have hsplit : (time - began) * 10 = (time - (began + k * charTime r)) * 10 + charTime r * (10 * k) := by
    obtain ⟨m, rfl⟩ := Nat.exists_eq_add_of_le hlow
    rw [Nat.add_sub_cancel_left, show began + k * charTime r + m - began = k * charTime r + m by omega]
    ring
  rw [hsplit, Nat.add_mul_div_left _ _ (charTime_positive r)]
  omega

/-- The character in progress goes on as it was, whatever follows it. -/
theorem levelOf_in_character {cs ds : List Byte} {r : Rate} {began k time : Nat} {v : Byte} (hcs : cs[k]? = some v)
    (hds : ds[0]? = some v) (hlow : began + k * charTime r ≤ time) (hhigh : time < began + (k + 1) * charTime r) :
    levelOf ds r (began + k * charTime r) time = levelOf cs r began time := by
  have hbit : (time - (began + k * charTime r)) * 10 / charTime r < 10 := by
    rw [Nat.div_lt_iff_lt_mul (charTime_positive r)]
    have : (k + 1) * charTime r = k * charTime r + charTime r := by ring
    omega
  have hone := levelOf_bit ds r (began + k * charTime r) time 0 _ v hlow (by rw [Nat.mul_zero, Nat.zero_add]) hbit hds
  have htwo := levelOf_bit cs r began time k _ v (by omega) (bits_within hlow) hbit hcs
  exact Option.some.inj (hone.trans htwo.symm)

theorem State.txd_of_chars {s : State} {l : Line} {r : Rate} {began : Nat} {chars : List Byte}
    (h : (∃ src, s.tx l = .sending src r began ∧ chars = lineCharacters (s.sourceContent src))
      ∨ ∃ last, s.tx l = .aborting last r began ∧ chars = [last, 0xD9#8]) (time : Nat) :
    s.txd l time = levelOf chars r began time := by
  unfold State.txd
  obtain ⟨src, htx, rfl⟩ | ⟨last, htx, rfl⟩ := h
  · rw [htx]
  · rw [htx]; rfl

theorem Drop.driverEnable_iff (x : Drop) : x.driverEnable = true
    ↔ (∃ src r began, x.tx = .sending src r began) ∨ ∃ last r began, x.tx = .aborting last r began := by
  unfold Drop.driverEnable
  cases x.tx
  all_goals simp

/-- Settles O6. -/
theorem lineLevels : Obligations.LineLevels := by
  refine ⟨fun s l time h => by unfold State.txd; rw [h], fun s l r began time chars h => ⟨fun hout => ?_, ?_⟩,
    fun s => ⟨rfl, fun _ _ _ => rfl, fun src r began k chars v hchars hk hv => ⟨?_, ?_⟩⟩, fun x =>
    ⟨x.driverEnable_iff, fun h => by simp [Drop.driverEnable, h]⟩, fun s d hs hline hde => ?_, fun s t straps h => ?_⟩
  · rw [State.txd_of_chars h]; exact levelOf_outside chars r began time hout
  · intro k i v hbegan hbit hi hv
    rw [State.txd_of_chars h]
    exact levelOf_bit chars r began time k i v hbegan hbit hi hv
  · subst hchars
    exact cutOff_sending s src r began k v hk hv
  · intro u l time hs hu hlow hhigh
    subst hchars
    rw [hs, cutOff_sending s src r began k v hk hv] at hu
    rw [State.txd_of_chars (.inr ⟨v, hu, rfl⟩), State.txd_of_chars (.inl ⟨src, hs, rfl⟩)]
    exact levelOf_in_character hv rfl hlow hhigh
  · obtain ⟨_, _, _, _, hsending⟩ := hs d
    exact ((Drop.driverEnable_iff _).1 hde).resolve_left fun k => hline (hsending.2 k)
  · obtain rfl : s.coldReset straps = t := by
      have h' : Host.Outcome.next (s.coldReset straps) = .next t := h
      exact Host.Outcome.next.inj h'
    have htx : ∀ d, ((s.coldReset straps).dropUnit d).tx = .idle := fun d => by rw [s.coldReset_dropUnit]; rfl
    refine ⟨fun l time => ?_, fun d => by simp [Drop.driverEnable, htx]⟩
    have hidle : (s.coldReset straps).tx l = .idle := by
      cases l with
      | trunk => rfl
      | drop d => exact htx d
    unfold State.txd
    rw [hidle]

end Sys2Proof.Machine
end

section
/-! PROOFS. A valid trunk frame classified: discards, refusals, admission, an exchange opened, notices. -/

namespace Sys2Proof.Machine

set_option Elab.async false

/-! ### States by their fields -/

theorem State.ext_of_fields {s t : State} (hnow : s.now = t.now) (hpool : s.pool = t.pool) (hstations : s.stations = t.stations)
    (hexchanges : s.exchanges = t.exchanges) (hdrops : s.drops = t.drops) (htrunk : s.trunk = t.trunk)
    (hupstream : s.upstream = t.upstream) (hsettings : s.settings = t.settings) (hmgmt : s.mgmt = t.mgmt)
    (himage : s.image = t.image) (hmemory : s.memory = t.memory) (hchance : s.chance = t.chance)
    (hpending : s.pending = t.pending) : s = t := by
  cases s; cases t
  simp only at *
  subst_vars
  rfl

/-! ### A held buffer -/

section
variable {p : Pool} {b : BufId} {c : List Byte} {n : Nat}

theorem Pool.hold_held (h : p.buffers[b] = some { content := c, count := n }) : p.hold b = p.held b c (n + 1) :=
  ((poolOperations p).2.2 b c n h).1

theorem Pool.release_held (h : p.buffers[b] = some { content := c, count := n }) (hn : 1 < n) :
    p.release b = p.held b c (n - 1) := ((poolOperations p).2.2 b c n h).2.1 hn

theorem Pool.release_last (h : p.buffers[b] = some { content := c, count := n }) (hn : n ≤ 1) : p.release b = p.freed b :=
  ((poolOperations p).2.2 b c n h).2.2.1 hn

theorem Pool.write_held (h : p.buffers[b] = some { content := c, count := n }) (c' : List Byte) :
    p.write b c' = p.held b c' n := ((poolOperations p).2.2 b c n h).2.2.2 c'

theorem Pool.content_held (h : p.buffers[b] = some { content := c, count := n }) : p.content b = c := by
  unfold Pool.content; rw [h]; rfl

@[simp] theorem Pool.held_buffers_self (p : Pool) (b : BufId) (c : List Byte) (n : Nat) :
    (p.held b c n).buffers[b] = some { content := c, count := n } := by simp [Pool.held]

theorem Pool.held_buffers_ne (p : Pool) {a b : BufId} (h : a ≠ b) (c : List Byte) (n : Nat) :
    (p.held b c n).buffers[a] = p.buffers[a] := by
  simp only [Pool.held, Fin.getElem_fin]
  exact Vector.getElem_set_ne _ _ (fun k => h (Fin.ext k.symm))

@[simp] theorem Pool.held_held (p : Pool) (b : BufId) (c c' : List Byte) (n n' : Nat) :
    (p.held b c n).held b c' n' = p.held b c' n' := by simp [Pool.held]

@[simp] theorem Pool.held_freed (p : Pool) (b : BufId) (c : List Byte) (n : Nat) :
    (p.held b c n).freed b = p.freed b := by simp [Pool.held, Pool.freed]

end

/-! ### Classification (R55) -/

section
variable {s u : State} {b : BufId} {c : List Byte} {time : Nat}

theorem TrunkFrameEnds.content (h : TrunkFrameEnds s b c) : s.pool.buffers[b] = some { content := c, count := 1 } :=
  h.2.2.2.1

theorem TrunkFrameEnds.steps (h : TrunkFrameEnds s b c) (hu : (trunkTaken time s).classify b = u) :
    exec (.eofReceived ⟨.trunk, time⟩) s = .next u.arbitrate := by rw [exec_eof_trunk time h, hu]

theorem TrunkFrameEnds.freed (h : TrunkFrameEnds s b c) : (trunkTaken time s).pool.release b = s.pool.freed b :=
  Pool.release_last h.content (Nat.le_refl 1)

theorem TrunkFrameEnds.discardForeign (h : TrunkFrameEnds s b c) : (trunkTaken time s).discardForeign b
    = { trunkTaken time s with
        pool := s.pool.freed b
        trunk := { (trunkTaken time s).trunk with
          counters := { (trunkTaken time s).trunk.counters with foreign := bump s.trunk.counters.foreign } } } := by
  rw [← h.freed (time := time)]; rfl

theorem TrunkFrameEnds.discardInvalid (h : TrunkFrameEnds s b c) : (trunkTaken time s).discardInvalid b
    = { trunkTaken time s with
        pool := s.pool.freed b
        trunk := { (trunkTaken time s).trunk with
          counters := { (trunkTaken time s).trunk.counters with invalid := bump s.trunk.counters.invalid } } } := by
  rw [← h.freed (time := time)]; rfl

theorem TrunkFrameEnds.discardUnknown (h : TrunkFrameEnds s b c) : (trunkTaken time s).discardUnknown b
    = { trunkTaken time s with
        pool := s.pool.freed b
        trunk := { (trunkTaken time s).trunk with
          counters := { (trunkTaken time s).trunk.counters with unknown := bump s.trunk.counters.unknown } } } := by
  rw [← h.freed (time := time)]; rfl

theorem TrunkFrameEnds.released (h : TrunkFrameEnds s b c) :
    (trunkTaken time s).release b = { trunkTaken time s with pool := s.pool.freed b } := by
  rw [← h.freed (time := time)]; rfl

/-- A request refused in its buffer (R65). -/
theorem State.refuse_eq (h : u.pool.buffers[b] = some { content := c, count := 1 }) (cls : Class)
    (r : RefusalReason) : u.refuse b cls r = refusedWith u b c cls r.code := by
  have hcontent : u.content b = c := Pool.content_held h
  have hwrite := Pool.write_held h (refusalFrame (destOf c) (seqOf c) r)
  simp only [State.refuse, hcontent, State.write, hwrite]
  cases cls <;> rfl

theorem State.classify_foreign (hc : u.content b = c) (h : srcOf c ≠ 0x00#8 ∨ (kindOf c ≠ 0x10#8 ∧ kindOf c ≠ 0x11#8)) :
    u.classify b = u.discardForeign b := by
  simp only [State.classify, hc]
  exact if_pos h

/-- A frame from the line controller. -/
structure FromController (c : List Byte) : Prop where
  src : srcOf c = 0x00#8
  kind : kindOf c = 0x10#8 ∨ kindOf c = 0x11#8

theorem FromController.not_foreign (h : FromController c) :
    ¬ (srcOf c ≠ addrController ∨ (kindOf c ≠ kindRequest ∧ kindOf c ≠ kindNotice)) := by
  rintro (hs | ⟨hr, hn⟩)
  · exact hs h.src
  · exact h.kind.elim hr hn

theorem State.classify_own (hc : u.content b = c) (h : FromController c) (hd : destOf c = u.settings.ownAddress) :
    u.classify b = if kindOf c = kindRequest then u.manage b else u.discardForeign b := by
  simp only [State.classify, hc, if_neg h.not_foreign, if_pos hd]

theorem State.classify_broadcast (hc : u.content b = c) (h : FromController c) (hown : destOf c ≠ u.settings.ownAddress)
    (hd : destOf c = 0xFF#8) : u.classify b = if kindOf c = kindRequest then u.discardForeign b else u.broadcast b := by
  simp only [State.classify, hc, if_neg h.not_foreign, if_neg hown, if_pos (show destOf c = addrBroadcast from hd)]

theorem State.classify_invalid (hc : u.content b = c) (h : FromController c) (hown : destOf c ≠ u.settings.ownAddress)
    (hd : destOf c ≠ 0xFF#8) (hinvalid : stationAddress (destOf c) = false) : u.classify b = u.discardInvalid b := by
  simp only [State.classify, hc, if_neg h.not_foreign, if_neg hown, if_neg (show destOf c ≠ addrBroadcast from hd),
    if_pos hinvalid]

theorem StationFrame.not_broadcast {kind : Byte} (h : StationFrame u c kind) : destOf c ≠ 0xFF#8 := by
  obtain ⟨_, _, _, hstation⟩ := h
  intro k
  rw [k] at hstation
  exact absurd hstation (by decide)

theorem StationFrame.fromController {kind : Byte} (h : StationFrame u c kind) (hk : kind = 0x10#8 ∨ kind = 0x11#8) :
    FromController c := ⟨h.1, h.2.1 ▸ hk⟩

/-- A station frame is classified by the load and the table (R60, R61, R63, R64). -/
theorem State.classify_station {kind : Byte} (hc : u.content b = c) (h : StationFrame u c kind)
    (hk : kind = 0x10#8 ∨ kind = 0x11#8) :
    (u.image.config = .loading → u.classify b = u.loadingDisposal b)
    ∧ (u.image.config ≠ .loading →
      (∀ st, u.station (destOf c) = some st →
        u.classify b = if kindOf c = kindRequest then u.admitRequest b st else u.stationNotice b st)
      ∧ (u.station (destOf c) = none → u.classify b = u.unknownDestination b)) := by
  have hnot := (h.fromController hk).not_foreign
  have hbroad : destOf c ≠ addrBroadcast := h.not_broadcast
  obtain ⟨hsrc, hkind, hown, hstation⟩ := h
  have hvalid : ¬ stationAddress (destOf c) = false := by simp [hstation]
  refine ⟨fun hl => ?_, fun hl => ⟨fun st hst => ?_, fun hst => ?_⟩⟩
  · simp only [State.classify, hc, if_neg hnot, if_neg hown, if_neg hbroad, if_neg hvalid, if_pos hl]
  · simp only [State.classify, hc, if_neg hnot, if_neg hown, if_neg hbroad, if_neg hvalid, if_neg hl, hst]
  · simp only [State.classify, hc, if_neg hnot, if_neg hown, if_neg hbroad, if_neg hvalid, if_neg hl, hst]

end

/-- Settles O18. -/
theorem framesDiscarded : Obligations.FramesDiscarded := by
  refine ⟨fun s time b c h hforeign => ?_, fun s time b c h hsrc hkind hown hd => ?_⟩
  · have hc := trunkTaken_content time h
    rw [h.steps (u := (trunkTaken time s).discardForeign b), h.discardForeign]
    by_cases hf : srcOf c ≠ 0x00#8 ∨ (kindOf c ≠ 0x10#8 ∧ kindOf c ≠ 0x11#8)
    · exact State.classify_foreign hc hf
    · have hfrom : FromController c := by
        simp only [not_or, not_and_or, not_not] at hf; exact ⟨hf.1, hf.2⟩
      obtain hs | hk | ⟨hk, hd⟩ | ⟨hk, hd, hown⟩ := hforeign
      · exact absurd (.inl hs) hf
      · exact absurd (.inr hk) hf
      · rw [State.classify_own hc hfrom hd, if_neg (hk ▸ by decide)]
      · rw [State.classify_broadcast hc hfrom (hd ▸ Ne.symm hown) hd, if_pos (show kindOf c = kindRequest from hk)]
  · have hstation : stationAddress (destOf c) = false ∧ destOf c ≠ 0xFF#8 := by
      have hff : destOf c ≠ 0xFF#8 ↔ (destOf c).toNat ≠ 0xFF := by
        rw [ne_eq, ← BitVec.toNat_inj]; rfl
      have hzero : destOf c = 0x00#8 → (destOf c).toNat = 0 := fun k => by rw [k]; rfl
      simp only [stationAddress, Bool.and_eq_false_iff, decide_eq_false_iff_not, hff]
      obtain hd | ⟨hlow, hhigh⟩ := hd
      · have := hzero hd; omega
      · omega
    rw [h.steps (State.classify_invalid (trunkTaken_content time h) ⟨hsrc, hkind⟩ hown hstation.2 hstation.1),
      h.discardInvalid]

/-! ### Frames that no entry serves -/

/-- Settles O19. -/
theorem destinationNotServed : Obligations.DestinationNotServed := by
  refine ⟨fun s time b c kind h hs hl hst => ⟨fun hk hrefuse => ?_, fun hk => ?_⟩, fun s time b c h hl => ⟨fun hs => ?_,
    fun hs => ?_, fun hlaw hsrc hk hd hown => ?_⟩⟩
  · have hc := trunkTaken_content time h
    rw [h.steps (((State.classify_station hc (u := trunkTaken time s) hs (.inl hk)).2 hl).2 hst)]
    have hcond : kindOf ((trunkTaken time s).content b) = kindRequest ∧ (trunkTaken time s).settings.refuseUnknown = true :=
      ⟨by rw [hc, hs.2.1, hk]; rfl, hrefuse⟩
    rw [State.unknownDestination, if_pos hcond, State.refuse_eq (u := trunkTaken time s) h.content]
    rfl
  · have hc := trunkTaken_content time h
    have hkind : kind = 0x10#8 ∨ kind = 0x11#8 := hk.imp And.left id
    rw [h.steps (((State.classify_station hc (u := trunkTaken time s) hs hkind).2 hl).2 hst)]
    have hcond : ¬ (kindOf ((trunkTaken time s).content b) = kindRequest
        ∧ (trunkTaken time s).settings.refuseUnknown = true) := by
      rintro ⟨hreq, hrefuse⟩
      rw [hc, hs.2.1] at hreq
      obtain ⟨_, hno⟩ | hno := hk
      · exact Bool.false_ne_true (hno.symm.trans hrefuse)
      · exact absurd (hno.symm.trans hreq) (by decide)
    rw [State.unknownDestination, if_neg hcond, h.discardUnknown]
  · have hc := trunkTaken_content time h
    rw [h.steps ((State.classify_station hc (u := trunkTaken time s) hs (.inl rfl)).1 hl), State.loadingDisposal, hc,
      if_pos (show kindOf c = kindRequest from hs.2.1), State.refuse_eq (u := trunkTaken time s) h.content]
    rfl
  · have hc := trunkTaken_content time h
    have hno : ¬ kindOf c = kindRequest := by rw [hs.2.1]; decide
    rw [h.steps ((State.classify_station hc (u := trunkTaken time s) hs (.inr rfl)).1 hl), State.loadingDisposal, hc,
      if_neg hno, h.released]
  · have hc := trunkTaken_content time h
    have hno : ¬ kindOf c = kindRequest := by rw [hk]; decide
    have hq : (trunkTaken time s).Quiet := ((loadingLaw_iff s).1 hlaw hl).same rfl rfl
    have hoffer : (List.finRange 4).foldl (State.offerBroadcast b) (trunkTaken time s) = trunkTaken time s :=
      List.foldl_fixed' (fun d => hq.offerBroadcast b d) _
    have hq' : ((trunkTaken time s).release b).Quiet := hq.same rfl rfl
    have hchoose : (List.finRange 4).foldl State.chooseWork ((trunkTaken time s).release b) = (trunkTaken time s).release b :=
      List.foldl_fixed' (fun d => hq'.chooseWork d) _
    have hown' : destOf c ≠ (trunkTaken time s).settings.ownAddress := by rw [hd]; exact Ne.symm hown
    rw [h.steps (State.classify_broadcast hc ⟨hsrc, .inr hk⟩ hown' hd), if_neg hno, State.broadcast, hoffer, hchoose,
      h.released]

end Sys2Proof.Machine
end

section
/-! PROOFS. Admission, its tests and its end, and notices (R43, R61, R62, R64, R66, R67, R74). -/

namespace Sys2Proof.Machine

set_option Elab.async false

/-! ### Admission (R43, R64) -/

section
variable {s u : State} {b : BufId} {c : List Byte} {st : Station} {time : Nat}

/-- A REQUEST for a station with an entry goes to admission. -/
theorem TrunkFrameEnds.admits (h : TrunkFrameEnds s b c) (hs : StationFrame s c 0x10#8) (hl : s.image.config ≠ .loading)
    (hst : s.station (destOf c) = some st) (hu : (trunkTaken time s).admitRequest b st = u) :
    exec (.eofReceived ⟨.trunk, time⟩) s = .next u.arbitrate := by
  refine h.steps ?_
  rw [((State.classify_station (trunkTaken_content time h) (u := trunkTaken time s) hs (.inl rfl)).2 hl).1 st hst,
    if_pos (show kindOf c = kindRequest from hs.2.1), hu]

/-- The tests before the liveness test. -/
theorem State.admitRequest_refuses (hl : u.image.config ≠ .loading) :
    ((u.dropUnit st.drop).mode = .disabled → u.admitRequest b st = u.refuse b st.cls .dropDisabled)
    ∧ ((u.dropUnit st.drop).mode = .enabled → (u.dropUnit st.drop).line = .fault →
      u.admitRequest b st = u.refuse b st.cls .dropFault)
    ∧ ((u.dropUnit st.drop).mode = .enabled → (u.dropUnit st.drop).line ≠ .fault → (u.openFor st.address).isSome = true →
      u.admitRequest b st = u.refuse b st.cls .stationBusy) := by
  refine ⟨fun hm => ?_, fun hm hline => ?_, fun hm hline hbusy => ?_⟩ <;> simp [State.admitRequest, *]

/-- The station's entry with its turn used (R43). -/
def State.turnUsed (s : State) (a : Byte) : State := s.mapStation a (fun y => y.probed s.settings.probeRatio)

/-- The liveness test. -/
theorem State.admitRequest_tested (hl : u.image.config ≠ .loading) (hm : (u.dropUnit st.drop).mode = .enabled)
    (hline : (u.dropUnit st.drop).line ≠ .fault) (hfree : u.openFor st.address = none) :
    (st.livenessTest u.settings.probeRatio ≠ .fastFail → u.admitRequest b st = (u.turnUsed st.address).admitLate b st)
    ∧ (st.livenessTest u.settings.probeRatio = .fastFail →
      u.admitRequest b st = (u.turnUsed st.address).fastFail b st.cls) := by
  refine ⟨fun ht => ?_, fun ht => ?_⟩
  · cases hlive : st.livenessTest u.settings.probeRatio
    · simp [State.admitRequest, State.turnUsed, *]
    · simp [State.admitRequest, State.turnUsed, *]
    · exact absurd hlive ht
  · simp [State.admitRequest, State.turnUsed, *]

theorem MeetsLiveness.address (h : MeetsLiveness s c st) : st.address = destOf c := (State.station_some h.2.2.1).1

/-- A request that meets the liveness test. -/
theorem MeetsLiveness.steps (hm : MeetsLiveness s c st) (h : TrunkFrameEnds s b c) :
    (st.livenessTest s.settings.probeRatio ≠ .fastFail → exec (.eofReceived ⟨.trunk, time⟩) s
      = .next (((trunkTaken time s).turnUsed (destOf c)).admitLate b st).arbitrate)
    ∧ (st.livenessTest s.settings.probeRatio = .fastFail → exec (.eofReceived ⟨.trunk, time⟩) s
      = .next (((trunkTaken time s).turnUsed (destOf c)).fastFail b st.cls).arbitrate) := by
  have haddress := hm.address
  obtain ⟨hs, hl, hst, hmode, hline, hfree⟩ := hm
  have hnone : (trunkTaken time s).openFor st.address = none :=
    State.openFor_none.2 fun t e he => by rw [haddress]; exact hfree t e he
  have ht := State.admitRequest_tested (u := trunkTaken time s) (b := b) hl hmode hline hnone
  rw [haddress] at ht
  exact ⟨fun k => h.admits hs hl hst (ht.1 k), fun k => h.admits hs hl hst (ht.2 k)⟩

theorem State.freeTag_none_iff : u.freeTag = none ↔ ∀ t, (u.exchange t).isSome = true := by
  simp [State.freeTag, List.find?_eq_none, Option.isSome_iff_ne_none]

theorem State.freeTag_of_exists (h : ∃ t, u.exchange t = none) : ∃ t, u.freeTag = some t := by
  refine Option.isSome_iff_exists.1 (Option.isSome_iff_ne_none.2 fun k => ?_)
  obtain ⟨t, ht⟩ := h
  simpa [ht] using State.freeTag_none_iff.1 k t

/-- The lowest FREE tag. -/
theorem State.freeTag_lowest {t : Tag} (h : u.exchange t = none) (hlow : ∀ v, v < t → (u.exchange v).isSome = true) :
    u.freeTag = some t := by
  rw [State.freeTag, List.find?_eq_some_iff_getElem]
  refine ⟨by rw [h]; rfl, t.val, by simp, by simp, fun j hj => ?_⟩
  have := hlow ⟨j, by omega⟩ hj
  simpa [Option.isSome_iff_ne_none] using this

end

theorem Station.probed_cases (st : Station) (ratio : Nat) :
    (st.liveness ≠ .down → st.livenessTest ratio = .passes ∧ st.probed ratio = st)
    ∧ (st.liveness = .down → ratio - 1 ≤ st.probe →
      st.livenessTest ratio = .probe ∧ st.probed ratio = { st with probe := 0 })
    ∧ (st.liveness = .down → st.probe < ratio - 1 →
      st.livenessTest ratio = .fastFail ∧ st.probed ratio = { st with probe := st.probe + 1 }) := by
  refine ⟨fun h => ?_, fun h hp => ?_, fun h hp => ?_⟩
  · simp [Station.probed, Station.livenessTest, h]
  · simp [Station.probed, Station.livenessTest, h, hp]
  · simp [Station.probed, Station.livenessTest, h, Nat.not_le.2 hp]

/-- Settles O20. -/
theorem admissionRefused : Obligations.AdmissionRefused := by
  refine ⟨fun s time b c st x h hs hl hst hx => ?_, Station.probed_cases, fun s time b c st h hm ht => ⟨fun hfull => ?_,
    fun hroom hlong => ?_⟩⟩
  · have hrefused := fun r => State.refuse_eq (u := trunkTaken time s) h.content st.cls r
    obtain ⟨h1, h2, h3⟩ := State.admitRequest_refuses (u := trunkTaken time s) (b := b) (st := st) hl
    subst hx
    refine ⟨fun hmode => ?_, fun hmode hline => ?_, fun hmode hline ⟨t, e, he, hstation⟩ => ?_⟩
    · exact h.admits hs hl hst ((h1 hmode).trans (hrefused _))
    · exact h.admits hs hl hst ((h2 hmode hline).trans (hrefused _))
    · have hbusy : ((trunkTaken time s).openFor st.address).isSome = true :=
        State.openFor_isSome.2 ⟨t, e, he, by rw [hstation, (State.station_some hst).1]⟩
      exact h.admits hs hl hst ((h3 hmode hline hbusy).trans (hrefused _))
  · have hfree : ((trunkTaken time s).turnUsed (destOf c)).freeTag = none := State.freeTag_none_iff.2 hfull
    have hlate : ((trunkTaken time s).turnUsed (destOf c)).admitLate b st
        = ((trunkTaken time s).turnUsed (destOf c)).refuse b st.cls .tableExhausted := by
      simp only [State.admitLate, hfree]
    rw [(hm.steps h).1 ht, hlate, State.refuse_eq (u := (trunkTaken time s).turnUsed (destOf c)) h.content]
    rfl
  · obtain ⟨t, hfree⟩ := State.freeTag_of_exists (u := (trunkTaken time s).turnUsed (destOf c)) hroom
    have hno : (((trunkTaken time s).turnUsed (destOf c)).dropUnit st.drop).hasRoom = false :=
      decide_eq_false (Nat.not_lt.2 hlong)
    have hlate : ((trunkTaken time s).turnUsed (destOf c)).admitLate b st
        = ((trunkTaken time s).turnUsed (destOf c)).refuse b st.cls .queueFull := by
      simp only [State.admitLate, hfree, hno, Bool.false_eq_true, if_false]
    rw [(hm.steps h).1 ht, hlate, State.refuse_eq (u := (trunkTaken time s).turnUsed (destOf c)) h.content]
    rfl

/-- Settles O21. -/
theorem fastFail : Obligations.FastFail := by
  intro s time b c st h hm hdown
  obtain ⟨_, hprobe, hfail⟩ := st.probed_cases s.settings.probeRatio
  have haddress := hm.address
  have hkeeps : ∀ y : Station, (y.probed s.settings.probeRatio).address = y.address := fun y =>
    (Station.Ran.probed s.settings y).address
  refine ⟨(trunkTaken time s).turnUsed (destOf c), ?_, fun a ha => ?_, rfl, fun hlow => ?_, fun hhigh => ?_⟩
  · have hself : ((trunkTaken time s).turnUsed (destOf c)).station (destOf c) = some (st.probed s.settings.probeRatio) :=
      (State.station_mapStation_self _ _ hkeeps).trans (congrArg (Option.map _) hm.2.2.1)
    rw [hself]
    split
    · next hlow => exact congrArg some (hfail hdown hlow).2
    · next hhigh => exact congrArg some (hprobe hdown (Nat.not_lt.1 hhigh)).2
  · exact State.station_mapStation_ne _ hkeeps ha
  · have hcontent : ((trunkTaken time s).turnUsed (destOf c)).content b = c := Pool.content_held h.content
    have hwrite := Pool.write_held h.content (closureFrame (destOf c) (seqOf c) .stationDown 0 0)
    rw [(hm.steps h).2 (hfail hdown hlow).1, State.fastFail, hcontent]
    refine congrArg (fun w => Host.Outcome.next (State.arbitrate w)) ?_
    have : ((trunkTaken time s).turnUsed (destOf c)).write b (closureFrame (destOf c) (seqOf c) .stationDown 0 0)
        = { (trunkTaken time s).turnUsed (destOf c) with
            pool := s.pool.held b (closureFrame (destOf c) (seqOf c) .stationDown 0 0) 1 } := by
      rw [← hwrite]; rfl
    rw [this]
    cases st.cls <;> rfl
  · have hne : st.livenessTest s.settings.probeRatio ≠ .fastFail := by
      rw [(hprobe hdown (Nat.not_lt.1 hhigh)).1]; decide
    exact (hm.steps h).1 hne

/-! ### An exchange opened (R67, R74) -/

theorem enqueue_urgent {it : Item} {us rs : List Item} (hit : it.cls = .urgent) (hus : ∀ x ∈ us, x.cls = .urgent)
    (hrs : ∀ x ∈ rs, x.cls = .routine) : enqueue it (us ++ rs) = us ++ it :: rs := by
  have hrest : rs.takeWhile (fun x => decide (x.cls = .urgent)) = [] ∧ rs.dropWhile (fun x => decide (x.cls = .urgent)) = rs := by
    cases rs with
    | nil => exact ⟨rfl, rfl⟩
    | cons r rs =>
      have hr : ¬ (decide (r.cls = .urgent)) = true := by rw [hrs r List.mem_cons_self]; decide
      exact ⟨List.takeWhile_cons_of_neg hr, List.dropWhile_cons_of_neg hr⟩
  have hall : ∀ x ∈ us, decide (x.cls = .urgent) = true := fun x hx => decide_eq_true (hus x hx)
  unfold enqueue
  rw [hit]
  simp only
  rw [List.takeWhile_append_of_pos hall, List.dropWhile_append_of_pos hall, hrest.1, hrest.2, List.append_nil]

/-- Settles O22. -/
theorem exchangeOpened : Obligations.ExchangeOpened := by
  refine ⟨fun s time b c st t h hm ht hfree hlow hroom => ?_, fun it us rs hus hrs => ⟨fun hit => enqueue_urgent hit hus hrs,
    fun hit => by unfold enqueue; rw [hit]⟩⟩
  have haddress := hm.address
  have htag : ((trunkTaken time s).turnUsed (destOf c)).freeTag = some t := State.freeTag_lowest hfree hlow
  have hspace : (((trunkTaken time s).turnUsed (destOf c)).dropUnit st.drop).hasRoom = true := decide_eq_true hroom
  have hcontent : ((trunkTaken time s).turnUsed (destOf c)).content b = c := Pool.content_held h.content
  have hhold : s.pool.hold b = s.pool.held b c 2 := Pool.hold_held h.content
  rw [(hm.steps h).1 ht, State.admitLate, htag]
  simp only [hspace, if_true]
  rw [State.openExchange_eq, State.exchangeOpened, hcontent, ← haddress, ← hhold]
  rfl

end Sys2Proof.Machine
end

section
/-! PROOFS. Notices to a station and broadcasts (R27, R61, R62). -/

namespace Sys2Proof.Machine

set_option Elab.async false

/-! ### A broadcast offered to the drops -/

/-- A drop offered a broadcast in buffer `b` (R62). -/
def Drop.offered (b : BufId) (x : Drop) : Drop :=
  if x.takesBroadcasts then
    if x.hasRoom then { x with queue := enqueue { work := .notice 0xFF#8, cls := .routine, buffer := b } x.queue }
    else { x with counters := { x.counters with droppedNotices := bump x.counters.droppedNotices } }
  else x

/-- The drop takes the broadcast. -/
def Drop.takes (x : Drop) : Bool := x.takesBroadcasts && x.hasRoom

theorem State.offerBroadcast_eq (b : BufId) (s : State) (d : DropId) : State.offerBroadcast b s d
    = (if (s.dropUnit d).takes = true then s.hold b else s).mapDrop d (Drop.offered b) := by
  simp only [State.offerBroadcast, Drop.takes, Bool.and_eq_true]
  by_cases ht : (s.dropUnit d).takesBroadcasts = true
  · by_cases hr : (s.dropUnit d).hasRoom = true
    · have hoffered : Drop.offered b (s.dropUnit d) = { s.dropUnit d with
          queue := enqueue { work := .notice 0xFF#8, cls := .routine, buffer := b } (s.dropUnit d).queue } := by
        simp only [Drop.offered, ht, hr, if_true]
      rw [if_pos ht, if_pos hr, if_pos ⟨ht, hr⟩]
      exact congrArg (fun y => { s.hold b with drops := s.drops.set d y }) hoffered.symm
    · have hoffered : Drop.offered b (s.dropUnit d) = { s.dropUnit d with counters := { (s.dropUnit d).counters with
          droppedNotices := bump (s.dropUnit d).counters.droppedNotices } } := by
        simp only [Drop.offered, if_pos ht, if_neg hr]
      rw [if_pos ht, if_neg hr, if_neg (fun k => hr k.2)]
      exact congrArg (fun y => { s with drops := s.drops.set d y }) hoffered.symm
  · have hoffered : Drop.offered b (s.dropUnit d) = s.dropUnit d := by simp only [Drop.offered, if_neg ht]
    rw [if_neg ht, if_neg (fun k => ht k.1)]
    calc s = s.mapDrop d (fun y => y) := (State.mapDrop_id s d).symm
      _ = s.mapDrop d (Drop.offered b) := congrArg (fun y => { s with drops := s.drops.set d y }) hoffered.symm

theorem State.offerBroadcast_dropUnit (b : BufId) (s : State) (d e : DropId) :
    (State.offerBroadcast b s d).dropUnit e = if e = d then Drop.offered b (s.dropUnit d) else s.dropUnit e := by
  rw [State.offerBroadcast_eq]
  have hhold : ∀ c, ((if (s.dropUnit d).takes = true then s.hold b else s)).dropUnit c = s.dropUnit c := fun c => by
    split <;> rfl
  by_cases he : e = d
  · rw [if_pos he, he, State.dropUnit_mapDrop_self, hhold]
  · rw [if_neg he, State.dropUnit_mapDrop_ne _ _ he, hhold]

theorem State.offerBroadcast_pool (b : BufId) (s : State) (d : DropId) :
    (State.offerBroadcast b s d).pool = if (s.dropUnit d).takes = true then s.pool.hold b else s.pool := by
  rw [State.offerBroadcast_eq]
  split <;> rfl

/-- Each drop of a list offered the broadcast once. -/
theorem State.offers_dropUnit (b : BufId) {l : List DropId} (hl : l.Nodup) : ∀ (s : State) (d : DropId),
    (l.foldl (State.offerBroadcast b) s).dropUnit d = if d ∈ l then Drop.offered b (s.dropUnit d) else s.dropUnit d := by
  induction l with
  | nil => intro s d; simp
  | cons e l ih =>
    intro s d
    obtain ⟨he, hl⟩ := List.nodup_cons.1 hl
    rw [List.foldl_cons, ih hl, State.offerBroadcast_dropUnit]
    by_cases hd : d = e
    · subst hd; simp [he]
    · simp [hd]

theorem State.offers_pool {b : BufId} {c : List Byte} {l : List DropId} (hl : l.Nodup) : ∀ (s : State) (n : Nat),
    s.pool.buffers[b] = some { content := c, count := n } → (l.foldl (State.offerBroadcast b) s).pool
      = s.pool.held b c (n + (l.filter (fun d => (s.dropUnit d).takes)).length) := by
  induction l with
  | nil =>
    intro s n hb
    have hself : s.pool.buffers.set b (some { content := c, count := n }) = s.pool.buffers := by
      rw [← hb]; exact Vector.set_getElem_self _
    exact (congrArg (fun x => { s.pool with buffers := x }) hself).symm
  | cons e l ih =>
    intro s n hb
    obtain ⟨he, hl⟩ := List.nodup_cons.1 hl
    have hrest : l.filter (fun d => ((State.offerBroadcast b s e).dropUnit d).takes) = l.filter (fun d => (s.dropUnit d).takes) :=
      List.filter_congr fun d hd => by
        have hne : d ≠ e := fun k => he (k ▸ hd)
        rw [State.offerBroadcast_dropUnit, if_neg hne]
    rw [List.foldl_cons]
    by_cases ht : (s.dropUnit e).takes = true
    · have hp : (State.offerBroadcast b s e).pool = s.pool.held b c (n + 1) := by
        rw [State.offerBroadcast_pool, if_pos ht, Pool.hold_held hb]
      rw [ih hl _ (n + 1) (by rw [hp]; exact Pool.held_buffers_self ..), hrest, hp, Pool.held_held,
        List.filter_cons, if_pos ht, List.length_cons]
      congr 1
      omega
    · have hp : (State.offerBroadcast b s e).pool = s.pool := by rw [State.offerBroadcast_pool, if_neg ht]
      rw [ih hl _ n (by rw [hp]; exact hb), hrest, hp, List.filter_cons, if_neg ht]

/-- The drops and the pool alone change. -/
theorem State.offers_frame (b : BufId) (l : List DropId) (s : State) : l.foldl (State.offerBroadcast b) s
    = { s with drops := (l.foldl (State.offerBroadcast b) s).drops, pool := (l.foldl (State.offerBroadcast b) s).pool } := by
  have hfold : ∀ {α : Type} (F : State → α), (∀ (v : State) (d : DropId), F (State.offerBroadcast b v d) = F v) →
      F (l.foldl (State.offerBroadcast b) s) = F s := fun F hF => foldl_keeps F (State.offerBroadcast b) hF _ _
  refine State.ext_of_fields (hfold State.now ?_) rfl (hfold State.stations ?_) (hfold State.exchanges ?_) rfl
    (hfold State.trunk ?_) (hfold State.upstream ?_) (hfold State.settings ?_) (hfold State.mgmt ?_) (hfold State.image ?_)
    (hfold State.memory ?_) (hfold State.chance ?_) (hfold State.pending ?_)
  all_goals exact fun _ _ => by simp

theorem Drop.offered_cases (b : BufId) (x : Drop) :
    (x.mode = .enabled → x.line ≠ .fault → x.line ≠ .disabled → x.queue.length < 4 → Drop.offered b x = { x with
      queue := enqueue { work := .notice 0xFF#8, cls := .routine, buffer := b } x.queue })
    ∧ (x.mode = .enabled → x.line ≠ .fault → x.line ≠ .disabled → 4 ≤ x.queue.length → Drop.offered b x = { x with
      counters := { x.counters with droppedNotices := bump x.counters.droppedNotices } })
    ∧ (x.mode = .disabled ∨ x.line = .fault ∨ x.line = .disabled → Drop.offered b x = x) := by
  refine ⟨fun hm hf hd hr => ?_, fun hm hf hd hr => ?_, fun h => ?_⟩
  · have hroom : x.hasRoom = true := decide_eq_true hr
    simp [Drop.offered, Drop.takesBroadcasts, Drop.takesNotices, hm, hf, hd, hroom]
  · have hroom : x.hasRoom = false := decide_eq_false (Nat.not_lt.2 hr)
    simp [Drop.offered, Drop.takesBroadcasts, Drop.takesNotices, hm, hf, hd, hroom]
  · have hno : x.takesBroadcasts = false := by
      rcases h with h | h | h <;> simp [Drop.takesBroadcasts, Drop.takesNotices, h]
    simp [Drop.offered, hno]

/-! ### A notice to one station -/

section
variable {s : State} {b : BufId} {c : List Byte} {st : Station} {time : Nat}

theorem TrunkFrameEnds.notices (h : TrunkFrameEnds s b c) (hs : StationFrame s c 0x11#8) (hl : s.image.config ≠ .loading)
    (hst : s.station (destOf c) = some st) :
    exec (.eofReceived ⟨.trunk, time⟩) s = .next ((trunkTaken time s).stationNotice b st).arbitrate := by
  refine h.steps ?_
  rw [((State.classify_station (trunkTaken_content time h) (u := trunkTaken time s) hs (.inr rfl)).2 hl).1 st hst,
    if_neg (by rw [hs.2.1]; decide)]

theorem Drop.hasRoom_iff (x : Drop) : x.hasRoom = true ↔ x.queue.length < 4 := decide_eq_true_iff

theorem Drop.takesNotices_iff (x : Drop) : x.takesNotices = true ∧ x.hasRoom = true
    ↔ x.mode = .enabled ∧ x.line ≠ .fault ∧ x.queue.length < 4 := by
  simp [Drop.takesNotices, Drop.hasRoom_iff, and_assoc]

end

/-- Settles O23. -/
theorem noticesQueued : Obligations.NoticesQueued := by
  refine ⟨fun s time b c st x h hs hl hst hx => ⟨fun hm hline hroom => ?_, fun hno => ?_⟩,
    fun s time b c h hsrc hk hd hown => ?_⟩
  · subst hx
    have htakes : (((trunkTaken time s).dropUnit st.drop).takesNotices && ((trunkTaken time s).dropUnit st.drop).hasRoom)
        = true := Bool.and_eq_true_iff.2 ((Drop.takesNotices_iff _).2 ⟨hm, hline, hroom⟩)
    rw [h.notices hs hl hst, State.stationNotice]
    simp only [htakes, if_true]
    rw [(State.station_some hst).1]
    rfl
  · subst hx
    have htakes : ¬ (((trunkTaken time s).dropUnit st.drop).takesNotices && ((trunkTaken time s).dropUnit st.drop).hasRoom)
        = true := fun k => by
      obtain ⟨hm, hline, hroom⟩ := (Drop.takesNotices_iff _).1 (Bool.and_eq_true_iff.1 k)
      obtain hd | hf | hfull := hno
      · exact absurd (hm.symm.trans hd) (by decide)
      · exact hline hf
      · exact absurd hroom (Nat.not_lt.2 hfull)
    rw [h.notices hs hl hst, State.stationNotice]
    simp only [if_neg htakes]
    rw [← h.freed (time := time)]
    rfl
  · have hown' : destOf c ≠ (trunkTaken time s).settings.ownAddress := by rw [hd]; exact Ne.symm hown
    have hkind : ¬ kindOf c = kindRequest := by rw [hk]; decide
    have hpool := State.offers_pool (List.nodup_finRange 4) (trunkTaken time s) 1 h.content
    have hunit := State.offers_dropUnit b (List.nodup_finRange 4) (trunkTaken time s)
    have hchosen : (trunkTaken time s).broadcast b = (List.finRange 4).foldl State.chooseWork
        (((List.finRange 4).foldl (State.offerBroadcast b) (trunkTaken time s)).release b) := rfl
    have hframe := State.offers_frame b (List.finRange 4) (trunkTaken time s)
    generalize (List.finRange 4).foldl (State.offerBroadcast b) (trunkTaken time s) = w at hpool hunit hchosen hframe
    refine ⟨w.release b, ?_, ?_, fun d x hx => ?_, fun n hn => ⟨fun hzero => ?_, fun hpos => ?_⟩⟩
    · rw [h.steps (State.classify_broadcast (trunkTaken_content time h) ⟨hsrc, .inr hk⟩ hown' hd), if_neg hkind, hchosen]
    · exact congrArg (fun v => State.release v b) hframe
    · have hreleased : (w.release b).dropUnit d = Drop.offered b x := by
        rw [← hx]; exact (hunit d).trans (if_pos (List.mem_finRange d))
      rw [hreleased]
      exact Drop.offered_cases b x
    · have hcount : ((List.finRange 4).filter (fun d => ((trunkTaken time s).dropUnit d).takes)).length = 0 :=
        hn.symm.trans hzero
      rw [hcount] at hpool
      rw [State.release, hpool, Pool.release_last (Pool.held_buffers_self ..) (by decide), Pool.held_freed]
      rfl
    · have hcount : ((List.finRange 4).filter (fun d => ((trunkTaken time s).dropUnit d).takes)).length = n := hn.symm
      rw [hcount] at hpool
      rw [State.release, hpool, Pool.release_held (Pool.held_buffers_self ..) (by omega), Pool.held_held,
        Nat.add_sub_cancel_left]
      rfl

end Sys2Proof.Machine
end

section
/-! PROOFS. The ends of an exchange and the frames received on a drop (R38 to R45, R84 to R87, R105, R106, R110, R120 to
R123). -/

namespace Sys2Proof.Machine

set_option Elab.async false

/-! ### A station's counts -/

theorem bump_eq {n : Nat} (h : n ≤ 65535) : bump n = min (n + 1) 65535 := by
  have : Config.counterMax = 65535 := rfl
  unfold bump
  split <;> omega

theorem bumpMiss_eq {n : Nat} (h : n ≤ 15) : bumpMiss n = min (n + 1) 15 := by
  unfold bumpMiss
  split <;> omega

theorem Station.setMiss_liveness (st : Station) (threshold miss : Nat) :
    (st.setMiss threshold miss).liveness = livenessOf threshold miss := by
  simp only [Station.setMiss, Station.rederive]
  split <;> rfl

theorem crossesDown_iff (a b : Liveness) : crossesDown a b = true ↔ ¬ (a = .down ↔ b = .down) := by
  unfold crossesDown
  cases a <;> cases b <;> decide

theorem Station.setMiss_eq (st : Station) (threshold miss : Nat) : st.setMiss threshold miss = { st with
    miss := miss
    liveness := (st.setMiss threshold miss).liveness
    probe := if (st.liveness = .down ↔ (st.setMiss threshold miss).liveness = .down) then st.probe else 0
    noticePending :=
      if (st.liveness = .down ↔ (st.setMiss threshold miss).liveness = .down) then st.noticePending else true } := by
  rw [Station.setMiss_liveness]
  by_cases h : (st.liveness = .down ↔ livenessOf threshold miss = .down)
  · have hno : ¬ crossesDown st.liveness (livenessOf threshold miss) = true := fun k => (crossesDown_iff _ _).1 k h
    simp only [if_pos h]
    simp only [Station.setMiss, Station.rederive, if_neg hno]
  · have hyes : crossesDown st.liveness (livenessOf threshold miss) = true := (crossesDown_iff _ _).2 h
    simp only [if_neg h]
    simp only [Station.setMiss, Station.rederive, if_pos hyes]

theorem Station.setMiss_config (st : Station) (threshold miss : Nat) :
    (st.setMiss threshold miss).address = st.address ∧ (st.setMiss threshold miss).fetchInterval = st.fetchInterval
      ∧ (st.setMiss threshold miss).done = st.done := by
  rw [Station.setMiss_eq]; exact ⟨rfl, rfl, rfl⟩

theorem Station.closed_cases (st : Station) (threshold : Nat) (hmiss : st.miss ≤ 15) (hfailed : st.failed ≤ 65535) :
    (∀ r, r = .silent ∨ r = .fetchLimit → st.closed threshold r
      = { st.setMiss threshold (min (st.miss + 1) 15) with failed := min (st.failed + 1) 65535 })
    ∧ (∀ r, r = .dropDisabled ∨ r = .dropFault → st.closed threshold r = { st with failed := min (st.failed + 1) 65535 })
    ∧ ∀ r, r = .cancelled ∨ r = .removed ∨ r = .stationDown → st.closed threshold r = st := by
  refine ⟨fun r hr => ?_, fun r hr => ?_, fun r hr => ?_⟩
  · rw [← bump_eq hfailed, ← bumpMiss_eq hmiss]
    obtain rfl | rfl := hr <;> rfl
  · rw [← bump_eq hfailed]
    obtain rfl | rfl := hr <;> rfl
  · obtain rfl | rfl | rfl := hr <;> rfl

theorem livenessOf_cases (threshold miss : Nat) : (miss = 0 → livenessOf threshold miss = .present)
    ∧ (0 < miss → miss < threshold → livenessOf threshold miss = .silent)
    ∧ (0 < miss → threshold ≤ miss → livenessOf threshold miss = .down) := by
  refine ⟨fun h => by simp [livenessOf, h], fun h h' => ?_, fun h h' => ?_⟩
  · simp [livenessOf, show miss ≠ 0 by omega, h']
  · simp [livenessOf, show miss ≠ 0 by omega, Nat.not_lt.2 h']

/-! ### An exchange closed -/

/-- The state with one exchange closed without answer, its buffer left with the CLOSURE (R120, R122). -/
def State.closedWith (s : State) (t : Tag) (e : Exchange) (r : ClosureReason) : State :=
  { s with
    pool := s.pool.held e.buffer (closureFrame e.station e.seq r e.attemptsUsed e.fetches) 1
    stations := s.stations.map (fun st => if st.address = e.station then st.closed s.settings.downThreshold r else st)
    exchanges := s.exchanges.set t none
    upstream := s.upstream.joined e.cls e.buffer
    drops := s.drops.set e.drop (Drop.without t e (s.dropUnit e.drop)) }

section
variable {s : State} {t : Tag} {e : Exchange}

/-- The CLOSURE written, its place held, the other places given up, one by one. -/
theorem State.closeExchange_closedWith (he : s.exchange t = some e) (r : ClosureReason) {c : List Byte}
    (hb : s.pool.buffers[e.buffer] = some { content := c, count := 1 + e.lineHolds.length }) :
    s.closeExchange t r = s.closedWith t e r := by
  have hwrite := Pool.write_held hb (closureFrame e.station e.seq r e.attemptsUsed e.fetches)
  have hpool : e.lineHolds.foldl Pool.release
      (((s.pool.write e.buffer (closureFrame e.station e.seq r e.attemptsUsed e.fetches)).hold e.buffer).release e.buffer)
      = s.pool.held e.buffer (closureFrame e.station e.seq r e.attemptsUsed e.fetches) 1 := by
    rw [hwrite, Pool.hold_held (Pool.held_buffers_self ..), Pool.held_held,
      Pool.release_held (Pool.held_buffers_self ..) (by omega), Pool.held_held]
    obtain hl | hl := e.lineHolds_cases
    · rw [hl]; rfl
    · rw [hl, List.foldl_cons, List.foldl_nil, List.length_singleton,
        Pool.release_held (Pool.held_buffers_self ..) (by decide), Pool.held_held]
  rw [State.closeExchange_eq he, State.closedWith, ← hpool]
  obtain hl | hl := e.lineHolds_cases <;> rw [hl] <;> cases e.cls <;> rfl

theorem Exchange.lineHolds_length (e : Exchange) :
    1 + e.lineHolds.length = if e.state = .deferred ∨ e.state = .fetchDue then 1 else 2 := by
  unfold Exchange.lineHolds
  cases e.state <;> rfl

theorem Drop.without_set (s : State) (t : Tag) (e : Exchange) : s.drops.set e.drop (Drop.without t e (s.dropUnit e.drop))
    = if e.state = .deferred ∨ e.state = .fetchDue then s.drops
      else if e.state = .queued then s.drops.set e.drop { s.dropUnit e.drop with
        queue := (s.dropUnit e.drop).queue.filter (fun it => it.work ≠ .exchange t) }
      else s.drops.set e.drop { s.dropUnit e.drop with service := none, expiryHeld := false } := by
  have hself : s.drops.set e.drop (s.dropUnit e.drop) = s.drops := Vector.set_getElem_self _
  unfold Drop.without
  cases e.state
  case deferred => exact hself
  case fetchDue => exact hself
  all_goals rfl

end

/-- Settles O26. -/
theorem closureWithoutAnswer : Obligations.ClosureWithoutAnswer := by
  refine ⟨fun st threshold miss => ?_, fun st threshold hm hf => st.closed_cases threshold hm hf,
    fun s t e r c he hb => ?_, rfl⟩
  · obtain ⟨h1, h2, h3⟩ := livenessOf_cases threshold miss
    refine ⟨fun h => ?_, fun h h' => ?_, fun h h' => ?_, st.setMiss_eq threshold miss⟩
    · rw [Station.setMiss_liveness]; exact h1 h
    · rw [Station.setMiss_liveness]; exact h2 h h'
    · rw [Station.setMiss_liveness]; exact h3 h h'
  · rw [State.closeExchange_closedWith he r (by rw [Exchange.lineHolds_length]; exact hb), State.closedWith, Drop.without_set]
    rfl

/-! ### A reply matched -/

section
variable {s w : State} {d : DropId} {b : BufId} {c : List Byte} {t : Tag} {e : Exchange} {st : Station} {x : Drop}
  {time n : Nat}

/-- The state in which a drop's frame is matched. -/
theorem DropFrameEnds.steps (h : DropFrameEnds s d b c) (hx : s.dropUnit d = x) (hn : n = max s.now time) :
    exec (.eofReceived ⟨.drop d, time⟩) s = .next ((s.withDrop n s.pool d (Drop.frameTaken n x)).matchFrame d b) := by
  rw [exec_eof_drop time h, hx, hn]; rfl

theorem DropFrameEnds.held (h : DropFrameEnds s d b c) : s.pool.buffers[b] = some { content := c, count := 1 } :=
  h.2.2.2.1

theorem Drop.frameTaken_keeps (n : Nat) (x : Drop) : ((Drop.frameTaken n x).line = .receiving ↔ x.line = .receiving)
    ∧ (Drop.frameTaken n x).serving = x.serving ∧ (Drop.frameTaken n x).expiryHeld = x.expiryHeld
    ∧ (Drop.frameTaken n x).counters = x.counters := ⟨Drop.heard_receiving n x, rfl, rfl, rfl⟩

theorem State.awaited_eq_some : w.awaited d = some (t, e, st) ↔ (w.dropUnit d).line = .receiving
    ∧ (w.dropUnit d).serving = some t ∧ w.exchange t = some e ∧ w.station e.station = some st := by
  refine ⟨State.awaited_some, fun ⟨hl, hs, he, hst⟩ => ?_⟩
  simp [State.awaited, hl, hs, he, hst]

theorem matchesReply_iff : matchesReply c e st = true ↔ srcOf c = st.lineAddress ∧ destOf c = 0x00#8 ∧ seqOf c = e.seq
    ∧ (kindOf c = 0x20#8 ∨ (kindOf c = 0x21#8 ∧ st.deferral = true)) := by
  simp only [matchesReply, Bool.and_eq_true, Bool.or_eq_true, decide_eq_true_eq, and_assoc]
  rfl

/-- What Matches says, in the state in which the frame is matched. -/
theorem matches_iff (hx : s.dropUnit d = x) : Matches s d c t e st ↔
    (s.withDrop n s.pool d (Drop.frameTaken n x)).awaited d = some (t, e, st) ∧ matchesReply c e st = true := by
  obtain ⟨hline, hserving, _, _⟩ := Drop.frameTaken_keeps n x
  rw [State.awaited_eq_some, matchesReply_iff, State.withDrop_dropUnit, hline, hserving, Matches, hx]
  simp only [and_assoc]
  rfl

theorem State.matchFrame_matched (ha : w.awaited d = some (t, e, st)) (hm : matchesReply (w.content b) e st = true) :
    w.matchFrame d b = (w.takeMatch d t e b).arbitrate := by
  simp only [State.matchFrame, ha, hm, if_true]

theorem State.matchFrame_stray (h : ∀ t e st, ¬ (w.awaited d = some (t, e, st) ∧ matchesReply (w.content b) e st = true)) :
    w.matchFrame d b = w.stray d b := by
  unfold State.matchFrame
  split
  · rfl
  · next t e st ha => exact if_neg fun hm => h t e st ⟨ha, hm⟩

end

/-- Settles O25. -/
theorem strayDropped : Obligations.StrayDropped := by
  intro s d b c x u time n hx h hno hn hu
  have hcontent : (s.withDrop n s.pool d (Drop.frameTaken n x)).content b = c := Pool.content_held h.held
  have hstray : exec (.eofReceived ⟨.drop d, time⟩) s = .next ((s.withDrop n (s.pool.freed b) d u).afterFrame d) := by
    rw [h.steps hx hn, State.matchFrame_stray fun t e st k => hno t e st ((matches_iff hx).2 (hcontent ▸ k)), hu,
      ← Pool.release_last h.held (Nat.le_refl 1), State.stray, State.mapDropCounters, State.withDrop_mapDrop,
      State.withDrop_release]
    rfl
  have hafter := State.withDrop_afterFrame n (s.pool.freed b) d (s := s) (y := u) hx
    (by rw [hu]; exact (Drop.frameTaken_keeps n x).1) (by rw [hu]; rfl)
  rw [hstray]
  exact ⟨fun hw => congrArg _ (hafter.1 hw), fun hw => congrArg _ (hafter.2 hw)⟩

/-! ### A match taken -/

section
variable {s : State} {d : DropId} {b : BufId} {c rc : List Byte} {t : Tag} {e : Exchange} {st : Station} {x : Drop}
  {time n : Nat}

/-- The miss count of a station made 0 (R85). -/
def State.missCleared (s : State) (a : Byte) : State := s.mapStation a (fun st => st.setMiss s.settings.downThreshold 0)

/-- A match taken, in GUARD: an ANSWER is counted and closes the exchange, a DEFER decides. -/
theorem Matches.steps (hm : Matches s d c t e st) (hx : s.dropUnit d = x) (h : DropFrameEnds s d b c)
    (hn : n = max s.now time) :
    (kindOf c = 0x20#8 → exec (.eofReceived ⟨.drop d, time⟩) s
      = .next (((s.missCleared e.station).withDrop n s.pool d { Drop.frameTaken n x with
          line := .guard, expiryHeld := false
          counters := { x.counters with answers := bump x.counters.answers } }).closeByAnswer t b).arbitrate)
    ∧ (kindOf c = 0x21#8 → exec (.eofReceived ⟨.drop d, time⟩) s
      = .next (((s.missCleared e.station).withDrop n (s.pool.freed b) d { Drop.frameTaken n x with
          line := .guard, expiryHeld := false }).deferDecided t).arbitrate) := by
  have hcontent : (s.withDrop n s.pool d (Drop.frameTaken n x)).content b = c := Pool.content_held h.held
  obtain ⟨hawaited, hreply⟩ := (matches_iff (n := n) hx).1 hm
  have htaken : exec (.eofReceived ⟨.drop d, time⟩) s
      = .next ((s.withDrop n s.pool d (Drop.frameTaken n x)).takeMatch d t e b).arbitrate := by
    rw [h.steps hx hn, State.matchFrame_matched hawaited (hcontent.symm ▸ hreply)]
  have hmiss : (s.withDrop n s.pool d (Drop.frameTaken n x)).mapStation e.station
        (fun y => y.setMiss (s.withDrop n s.pool d (Drop.frameTaken n x)).settings.downThreshold 0)
      = (s.missCleared e.station).withDrop n s.pool d (Drop.frameTaken n x) := rfl
  refine ⟨fun hk => ?_, fun hk => ?_⟩
  · rw [htaken]
    simp only [State.takeMatch, hcontent, if_pos (show kindOf c = kindAnswer from hk), hmiss, State.withDrop_mapDrop,
      State.mapDropCounters]
    rfl
  · have hno : ¬ kindOf c = kindAnswer := by rw [hk]; decide
    rw [htaken]
    simp only [State.takeMatch, hcontent, if_neg hno, hmiss, State.withDrop_mapDrop, State.withDrop_release,
      Pool.release_last h.held (Nat.le_refl 1)]

/-- Closure by answer, in one step (R121). -/
theorem State.closeByAnswer_inService (he : s.exchange t = some e) (hin : e.inService = true) (hne : e.buffer ≠ b)
    (hb : s.pool.buffers[b] = some { content := c, count := 1 })
    (hr : s.pool.buffers[e.buffer] = some { content := rc, count := 2 }) :
    s.closeByAnswer t b = { s with
      pool := (s.pool.held b (rewriteSrc c e.station) 1).freed e.buffer
      stations := s.stations.map (fun y => if y.address = e.station then { y with done := bump y.done } else y)
      exchanges := s.exchanges.set t none
      upstream := s.upstream.joined e.cls b
      drops := s.drops.set e.drop { s.dropUnit e.drop with service := none, expiryHeld := false } } := by
  have hcontent : s.content b = c := Pool.content_held hb
  have hpool : ((s.pool.write b (rewriteSrc c e.station)).release e.buffer).release e.buffer
      = (s.pool.held b (rewriteSrc c e.station) 1).freed e.buffer := by
    have hr' : (s.pool.held b (rewriteSrc c e.station) 1).buffers[e.buffer] = some { content := rc, count := 2 } := by
      rw [Pool.held_buffers_ne _ hne]; exact hr
    rw [Pool.write_held hb, Pool.release_held hr' (by decide), Pool.release_last (Pool.held_buffers_self ..) (by decide),
      Pool.held_freed]
  rw [State.closeByAnswer_eq he, hcontent, Exchange.lineHolds_onLine (.inr hin), ← hpool, State.unlink,
    Drop.without_inService t hin]
  cases e.cls <;> rfl

/-- Entry to DEFERRED, in one step (R110). -/
theorem State.deferExchange_inService (he : s.exchange t = some e) (hst : s.station e.station = some st)
    (hr : s.pool.buffers[e.buffer] = some { content := rc, count := 2 }) :
    s.deferExchange t = { s with
      pool := s.pool.held e.buffer rc 1
      exchanges := s.exchanges.set t (some { e with
        state := .deferred, deadline := some (s.now + 576 * 10 * st.fetchInterval), limit := none })
      drops := s.drops.set e.drop { s.dropUnit e.drop with service := none, expiryHeld := false } } := by
  have hpool := Pool.release_held hr (by decide)
  simp only [State.deferExchange, he, hst]
  rw [← hpool]
  rfl

theorem State.deferDecided_cases (he : s.exchange t = some e) :
    (e.cancelPending = true → s.deferDecided t = s.closeExchange t .cancelled)
    ∧ (e.cancelPending = false → e.state = .fetching → e.limit.getD 0 ≤ e.fetches →
      s.deferDecided t = s.closeExchange t .fetchLimit)
    ∧ (e.cancelPending = false → (e.state ≠ .fetching ∨ e.fetches < e.limit.getD 0) →
      s.deferDecided t = s.deferExchange t) := by
  refine ⟨fun hc => ?_, fun hc hf hl => ?_, fun hc hf => ?_⟩
  · simp only [State.deferDecided, he, hc, if_true]
  · simp only [State.deferDecided, he, hc, Bool.false_eq_true, if_false, if_pos (And.intro hf hl)]
  · have hno : ¬ (e.state = .fetching ∧ e.limit.getD 0 ≤ e.fetches) := by
      rintro ⟨h1, h2⟩
      exact hf.elim (fun k => k h1) (fun k => absurd h2 (Nat.not_le.2 k))
    simp only [State.deferDecided, he, hc, Bool.false_eq_true, if_false, if_neg hno]

end

theorem Pool.freed_buffers_ne (p : Pool) {a b : BufId} (h : a ≠ b) : (p.freed b).buffers[a] = p.buffers[a] := by
  simp only [Pool.freed, Fin.getElem_fin]
  exact Vector.getElem_set_ne _ _ (fun k => h (Fin.ext k.symm))

/-- Two changes of one entry, one after the other. -/
theorem map_entry_twice (l : List Station) (a : Byte) {f g : Station → Station} (hf : ∀ y, (f y).address = y.address) :
    (l.map (fun y => if y.address = a then f y else y)).map (fun y => if y.address = a then g y else y)
      = l.map (fun y => if y.address = a then g (f y) else y) := by
  rw [List.map_map]
  refine List.map_congr_left fun y _ => ?_
  simp only [Function.comp]
  by_cases hy : y.address = a
  · rw [if_pos hy, if_pos hy, if_pos ((hf y).trans hy)]
  · rw [if_neg hy, if_neg hy, if_neg hy]

/-- Settles O24. -/
theorem replyMatched : Obligations.ReplyMatched := by
  refine ⟨fun s d b c rc t e st x time n hn hx h hm hk hd hin hne hr => ?_,
    fun s d b c rc t e st x u time n hn hx h hm hk hd hne hr hu => ?_⟩
  · subst hd
    have he : s.exchange t = some e := hm.2.2.1
    have hmiss : ∀ y : Station, (y.setMiss s.settings.downThreshold 0).address = y.address := fun y =>
      (y.setMiss_config _ _).1
    have hclose := State.closeByAnswer_inService (s := (s.missCleared e.station).withDrop n s.pool e.drop { Drop.frameTaken n x with
      line := .guard, expiryHeld := false
      counters := { x.counters with answers := bump x.counters.answers } }) he hin hne h.held hr
    rw [(hm.steps hx h hn).1 hk, hclose, State.withDrop_dropUnit]
    refine congrArg (fun w => Host.Outcome.next (State.arbitrate w)) (State.ext_of_fields rfl rfl ?_ rfl ?_ rfl rfl rfl
      rfl rfl rfl rfl rfl)
    · refine (map_entry_twice s.stations e.station (g := fun y => { y with done := bump y.done }) hmiss).trans
        (List.map_congr_left fun y _ => ?_)
      rw [(y.setMiss_config _ _).2.2]
    · exact Vector.set_set (hi := e.drop.isLt) ..
  · subst hd
    have hu' : u = (s.missCleared e.station).withDrop n (s.pool.freed b) e.drop { Drop.frameTaken n x with
        line := .guard, expiryHeld := false } := hu
    have he : u.exchange t = some e := hu' ▸ hm.2.2.1
    obtain ⟨h1, h2, h3⟩ := State.deferDecided_cases he
    have hexec := (hm.steps hx h hn).2 hk
    rw [← hu'] at hexec
    refine ⟨fun hc => by rw [hexec, h1 hc], fun hc hf hl => by rw [hexec, h2 hc hf hl], fun hc hf => ?_⟩
    have hst : u.station e.station = some (st.setMiss s.settings.downThreshold 0) := by
      have hself := State.station_mapStation_self s e.station (f := fun y => y.setMiss s.settings.downThreshold 0)
        fun y => (y.setMiss_config _ _).1
      rw [hu']
      exact hself.trans (by rw [hm.2.2.2.1]; rfl)
    have hr' : u.pool.buffers[e.buffer] = some { content := rc, count := 2 } := by
      rw [hu']; exact (Pool.freed_buffers_ne s.pool hne).trans hr
    rw [hexec, h3 hc hf, State.deferExchange_inService he hst hr', (st.setMiss_config _ _).2.1, hu',
      State.withDrop_dropUnit]
    refine congrArg (fun w => Host.Outcome.next (State.arbitrate w)) (State.ext_of_fields rfl rfl rfl rfl ?_ rfl rfl rfl
      rfl rfl rfl rfl rfl)
    exact Vector.set_set (hi := e.drop.isLt) ..

end Sys2Proof.Machine
end

section
/-! PROOFS. What an IDLE drop chooses, and what it then sends (R76 to R81, R3, R15). -/

namespace Sys2Proof.Machine

set_option Elab.async false

/-! ### The fetch candidate (R77, R112) -/

/-- An exchange FETCH DUE on a drop, since a time. -/
def State.Due (s : State) (d : DropId) (t : Tag) (since : Nat) : Prop :=
  ∃ e, s.exchange t = some e ∧ e.drop = d ∧ e.state = .fetchDue ∧ e.dueSince.getD 0 = since

/-- The oldest of the exchanges of a list that are FETCH DUE on a drop, the lowest tag of two that are equally old. -/
def State.Oldest (s : State) (d : DropId) (l : List Tag) : Option Tag → Prop
  | none => ∀ u ∈ l, ∀ m, ¬ s.Due d u m
  | some t => t ∈ l ∧ ∃ n, s.Due d t n ∧ ∀ u ∈ l, ∀ m, s.Due d u m → n < m ∨ (n = m ∧ t ≤ u)

section
variable {s : State} {d : DropId}

theorem State.Due.unique {t : Tag} {m n : Nat} (h : s.Due d t m) (k : s.Due d t n) : m = n := by
  obtain ⟨e, he, -, -, rfl⟩ := h
  obtain ⟨f, hf, -, -, rfl⟩ := k
  rw [Option.some.inj (he.symm.trans hf)]

theorem State.older_notDue {t : Tag} (h : ∀ m, ¬ s.Due d t m) (best : Option Tag) : s.older d best t = best := by
  unfold State.older
  split
  · rfl
  · next e he => exact if_neg fun k => h _ ⟨e, he, k.1, k.2, rfl⟩

theorem State.older_due {t : Tag} {m : Nat} (h : s.Due d t m) : s.older d none t = some t
    ∧ ∀ v n, s.Due d v n → s.older d (some v) t = if m < n then some t else some v := by
  obtain ⟨e, he, hd, hs, hm⟩ := h
  refine ⟨by simp [State.older, he, hd, hs], fun v n ⟨f, hf, _, _, hn⟩ => ?_⟩
  simp [State.older, he, hd, hs, hf, hm, hn]

/-- One exchange more, its tag above the others. -/
theorem State.Oldest.next {l : List Tag} {best : Option Tag} {t : Tag} (h : s.Oldest d l best) (ht : ∀ u ∈ l, u < t) :
    s.Oldest d (l ++ [t]) (s.older d best t) := by
  by_cases hdue : ∃ m, s.Due d t m
  · obtain ⟨m, hm⟩ := hdue
    obtain ⟨hnone, hsome⟩ := State.older_due hm
    cases best with
    | none =>
      rw [hnone]
      refine ⟨by simp, m, hm, fun u hu n hn => ?_⟩
      obtain hu | hu := List.mem_append.1 hu
      · exact absurd hn (h u hu n)
      · rw [List.mem_singleton] at hu
        subst hu
        exact .inr ⟨hm.unique hn, le_refl _⟩
    | some v =>
      obtain ⟨hv, n, hn, hall⟩ := h
      rw [hsome v n hn]
      by_cases hlt : m < n
      · rw [if_pos hlt]
        refine ⟨by simp, m, hm, fun u hu k hk => ?_⟩
        obtain hu | hu := List.mem_append.1 hu
        · obtain h' | ⟨h', _⟩ := hall u hu k hk
          · exact .inl (by omega)
          · exact .inl (by omega)
        · rw [List.mem_singleton] at hu
          subst hu
          exact .inr ⟨hm.unique hk, le_refl _⟩
      · rw [if_neg hlt]
        refine ⟨by simp [hv], n, hn, fun u hu k hk => ?_⟩
        obtain hu | hu := List.mem_append.1 hu
        · exact hall u hu k hk
        · rw [List.mem_singleton] at hu
          subst hu
          have hmk := hm.unique hk
          obtain hnk | hnk := Nat.lt_or_eq_of_le (Nat.not_lt.1 hlt)
          · exact .inl (by omega)
          · exact .inr ⟨by omega, le_of_lt (ht v hv)⟩
  · rw [State.older_notDue fun m hm => hdue ⟨m, hm⟩]
    have hno : ∀ u ∈ l ++ [t], ∀ m, s.Due d u m → u ∈ l := fun u hu m hm => by
      obtain hu | hu := List.mem_append.1 hu
      · exact hu
      · rw [List.mem_singleton] at hu
        subst hu
        exact absurd ⟨m, hm⟩ hdue
    cases best with
    | none => exact fun u hu m hm => h u (hno u hu m hm) m hm
    | some v =>
      obtain ⟨hv, n, hn, hall⟩ := h
      exact ⟨by simp [hv], n, hn, fun u hu m hm => hall u (hno u hu m hm) m hm⟩

theorem State.Oldest.fold {l : List Tag} : ∀ {pre : List Tag} {best : Option Tag}, (pre ++ l).Pairwise (· < ·) →
    s.Oldest d pre best → s.Oldest d (pre ++ l) (l.foldl (s.older d) best) := by
  induction l with
  | nil => intro pre best _ h; rw [List.append_nil]; exact h
  | cons t l ih =>
    intro pre best hsorted h
    have hwhole : pre ++ t :: l = pre ++ [t] ++ l := by simp
    rw [hwhole] at hsorted ⊢
    have hlow : ∀ u ∈ pre, u < t := fun u hu =>
      (List.pairwise_append.1 (List.pairwise_append.1 hsorted).1).2.2 u hu t (List.mem_singleton_self t)
    exact ih hsorted (h.next hlow)

theorem State.fetchCandidate_oldest (s : State) (d : DropId) : s.Oldest d (List.finRange 16) (s.fetchCandidate d) :=
  State.Oldest.fold (pre := []) (List.sortedLT_finRange 16).pairwise (by intro u hu; cases hu)

end

/-! ### The choice (R76, R77) -/

theorem State.chooseWork_cases {s : State} {d : DropId} {x : Drop} (hx : s.dropUnit d = x) :
    (x.line ≠ .idle ∨ x.tx ≠ .idle → s.chooseWork d = s)
    ∧ (x.line = .idle → x.tx = .idle →
      (s.fetchCandidate d = none → x.queue = [] → s.chooseWork d = s)
      ∧ (∀ it rest, s.fetchCandidate d = none → x.queue = it :: rest → s.chooseWork d = s.startItem d it rest)
      ∧ (∀ t, s.fetchCandidate d = some t → (x.queue = [] ∨ x.alternation = .queue) → s.chooseWork d = s.startFetch d t)
      ∧ (∀ t it rest, s.fetchCandidate d = some t → x.queue = it :: rest → x.alternation = .fetch →
        s.chooseWork d = s.startItem d it rest)) := by
  refine ⟨fun h => ?_, fun hl ht => ⟨fun hc hq => ?_, fun it rest hc hq => ?_, fun t hc h => ?_, fun t it rest hc hq ha => ?_⟩⟩
  · exact if_neg fun k => h.elim (fun g => g (hx ▸ k.1)) (fun g => g (hx ▸ k.2))
  · simp [State.chooseWork, hx, hl, ht, hc, hq]
  · simp [State.chooseWork, hx, hl, ht, hc, hq]
  · cases hq : x.queue with
    | nil => simp [State.chooseWork, hx, hl, ht, hc, hq]
    | cons it rest =>
      have ha : x.alternation = .queue := h.resolve_left (by simp [hq])
      simp [State.chooseWork, hx, hl, ht, hc, hq, ha]
  · simp [State.chooseWork, hx, hl, ht, hc, hq, ha]

/-! ### A receiver held (R15) -/

section
variable {s : State} {n : Nat} {p : Pool} {d : DropId} {x y : Drop} {b : BufId}

theorem State.withDrop_self (hx : s.dropUnit d = x) : s.withDrop s.now s.pool d x = s :=
  hx ▸ State.mapDrop_id s d

theorem State.mapDrop_eq_withDrop (hx : s.dropUnit d = x) (f : Drop → Drop) :
    s.mapDrop d f = s.withDrop s.now s.pool d (f x) := hx ▸ rfl

theorem State.withDrop_holdReceiver_outside (h : y.rx.state ≠ .assemble) (counted : Bool) :
    (s.withDrop n p d y).holdReceiver d counted = s.withDrop n p d { y with rx := Receiver.emptied .hunt } := by
  rw [State.holdReceiver, State.withDrop_dropUnit, if_neg h, State.withDrop_setRx]; rfl

theorem State.withDrop_holdReceiver_inside (h : y.rx.state = .assemble) (hb : y.rx.slot = some b) :
    (s.withDrop n p d y).holdReceiver d true = s.withDrop n (p.release b) d { y.spoilt with rx := Receiver.emptied .hunt }
    ∧ (s.withDrop n p d y).holdReceiver d false = s.withDrop n (p.release b) d { y with rx := Receiver.emptied .hunt } := by
  have hslot : ∀ z : Drop, z.rx.slot = some b → (s.withDrop n p d z).dropFrame (.drop d) .hunt
      = s.withDrop n (p.release b) d { z with rx := Receiver.emptied .hunt } := fun z hz => by
    rw [State.dropFrame_slot (b := b) (by rw [State.withDrop_rx]; exact hz), State.withDrop_setRx, State.withDrop_release]
  unfold State.holdReceiver
  rw [State.withDrop_dropUnit, if_pos h, if_pos h, if_pos rfl, State.withDrop_countBroken]
  exact ⟨hslot _ hb, hslot _ hb⟩

/-! ### IDLE entered (R3, R78) -/

theorem State.enterIdle_kept (hx : s.dropUnit d = x) (h : x.pendingRate = none ∨ x.pendingRate = some x.rate) :
    s.enterIdle d = (s.withDrop s.now s.pool d { x with line := .idle, pendingRate := none }).chooseWork d := by
  rw [State.enterIdle, State.mapDrop_eq_withDrop hx, State.applyRate, State.withDrop_dropUnit]
  obtain h | h := h
  · simp only [h]
  · simp only [h, if_true, State.withDrop_mapDrop]

theorem State.enterIdle_changed (hx : s.dropUnit d = x) {r : Rate} (hp : x.pendingRate = some r) (hr : r ≠ x.rate) :
    s.enterIdle d = State.chooseWork (((s.withDrop s.now s.pool d { x with line := .idle }).holdReceiver d true).mapDrop d
      (fun y => { y with
        rate := r, pendingRate := none, lastChar := s.now, breakSince := y.breakSince.map (fun _ => s.now) })) d := by
  rw [State.enterIdle, State.mapDrop_eq_withDrop hx, State.applyRate, State.withDrop_dropUnit]
  simp only [hp, if_neg hr, State.withDrop_now]

end

/-- Settles O27. -/
theorem workChosen : Obligations.WorkChosen := by
  refine ⟨fun s d => ⟨fun t ht => ?_, fun hnone u f hf hdue => ?_⟩, fun s d x hx => State.chooseWork_cases hx,
    fun s d x hx => ⟨fun h => State.enterIdle_kept hx h, fun r hp hr hrx => ?_, fun r b hp hr hrx hb => ?_⟩⟩
  · have hold := s.fetchCandidate_oldest d
    rw [ht] at hold
    obtain ⟨_, n, ⟨e, he, hd, hs, hn⟩, hall⟩ := hold
    refine ⟨e, he, hd, hs, fun u f hf hfd hfs => ?_⟩
    rw [hn]
    exact hall u (List.mem_finRange u) _ ⟨f, hf, hfd, hfs, rfl⟩
  · have hold := s.fetchCandidate_oldest d
    rw [hnone] at hold
    exact hold u (List.mem_finRange u) _ ⟨f, hf, hdue.1, hdue.2, rfl⟩
  · rw [State.enterIdle_changed hx hp hr, State.withDrop_holdReceiver_outside (y := { x with line := .idle }) hrx,
      State.withDrop_mapDrop]
    rfl
  · rw [State.enterIdle_changed hx hp hr, (State.withDrop_holdReceiver_inside (y := { x with line := .idle }) hrx hb).1,
      State.withDrop_mapDrop]
    rfl

/-! ### What is sent (R79 to R81) -/

section
variable {s : State} {d : DropId} {c : List Byte} {n : Nat}

theorem State.lineAddressOf_entry {a : Byte} {st : Station} (h : s.station a = some st) :
    s.lineAddressOf a = st.lineAddress := by
  unfold State.lineAddressOf; rw [h]; rfl

theorem State.readdress_eq {b : BufId} {a : Byte} {st : Station} (hb : s.pool.buffers[b] = some { content := c, count := n })
    (h : s.station a = some st) :
    s.readdress b a = { s with pool := s.pool.held b (rewriteDest c st.lineAddress) n } := by
  have hcontent : s.content b = c := Pool.content_held hb
  rw [State.readdress, hcontent, State.lineAddressOf_entry h, ← Pool.write_held hb]
  rfl

end

/-- Settles O28. -/
theorem workStarted : Obligations.WorkStarted := by
  refine ⟨fun s d src x y hx hy => ⟨fun hrx => ?_, fun b hrx hb => ?_⟩, fun s d t e st c he hst hb => ?_,
    fun s d it rest c n x hb hx => ⟨fun t e st hw he hst => ?_, fun a st hw ha hst => ?_, fun hw => ?_⟩, fun st => rfl⟩
  · have hself : s.startSending d src = (s.withDrop s.now s.pool d x).startSending d src := by rw [State.withDrop_self hx]
    rw [hself, State.startSending, State.withDrop_holdReceiver_outside hrx, State.withDrop_mapDrop, hy]
    rfl
  · have hself : s.startSending d src = (s.withDrop s.now s.pool d x).startSending d src := by rw [State.withDrop_self hx]
    rw [hself, State.startSending, (State.withDrop_holdReceiver_inside hrx hb).1, State.withDrop_mapDrop, hy]
    rfl
  · have haddress : s.lineAddressOf e.station = st.lineAddress := State.lineAddressOf_entry hst
    have hhold := Pool.hold_held hb
    simp only [State.startFetch, he]
    rw [← hhold, ← haddress]
    rfl
  · have hmoved : (s.mapDrop d (fun y => { y with queue := rest, service := some it, alternation := .queue })).exchange t
        = some e := he
    have hread : ((s.mapDrop d (fun y => { y with queue := rest, service := some it, alternation := .queue })).putExchange t
        (some { e with state := .sending })).readdress it.buffer e.station = { s with
          pool := s.pool.held it.buffer (rewriteDest c st.lineAddress) n
          exchanges := s.exchanges.set t (some { e with state := .sending })
          drops := s.drops.set d x } := by
      refine (State.readdress_eq (c := c) (n := n) (st := st) ?_ ?_).trans ?_
      · exact hb
      · exact hst
      · rw [hx]; rfl
    simp only [State.startItem, hw, hmoved]
    rw [hread]
  · have hread : (s.mapDrop d (fun y => { y with queue := rest, service := some it, alternation := .queue })).readdress
        it.buffer a = { s with
          pool := s.pool.held it.buffer (rewriteDest c st.lineAddress) n
          drops := s.drops.set d x } := by
      refine (State.readdress_eq (c := c) (n := n) (st := st) ?_ ?_).trans ?_
      · exact hb
      · exact hst
      · rw [hx]; rfl
    simp only [State.startItem, hw, if_neg (show a ≠ addrBroadcast from ha)]
    rw [hread]
  · simp only [State.startItem, hw, if_pos (show (0xFF#8 : Byte) = addrBroadcast from rfl)]
    rw [hx]
    rfl

end Sys2Proof.Machine
end

section
/-! PROOFS. The ends of transmissions, windows, guard times, deadlines, faults and recoveries (R79 to R94, R103 to R114). -/

namespace Sys2Proof.Machine

set_option Elab.async false

/-! ### The EOF of a drop's frame -/

/-- A drop whose EOF has been counted at a time, its transmitter idle (R79 to R81, R95). -/
def Drop.eofCounted (n : Nat) (measured : Prop) [Decidable measured] (x : Drop) : Drop :=
  { x with
    tx := .idle, lastChar := n
    breakSince := if x.rxSpace = true ∧ measured then some n else none
    counters := { x.counters with sent := bump x.counters.sent } }

section
variable {s : State} {d : DropId} {x : Drop} {src : TxSource} {r : Rate} {began n : Nat}

theorem State.eofCounted_eq (hx : s.dropUnit d = x) (m : Nat) : (s.advance m).eofCounted d
    = s.withDrop (max s.now m) s.pool d (x.eofCounted (max s.now m) (s.image.config ≠ .loading)) := by
  have hsame : s.advance m = s.withDrop (max s.now m) s.pool d x := by
    have h := State.withDrop_self (s := s.advance m) (d := d) hx
    exact h.symm
  rw [State.eofCounted, hsame, State.mapDropCounters, State.withDrop_mapDrop, State.withDrop_mapDrop]
  exact congrArg (fun b => s.withDrop (max s.now m) s.pool d { x with
    tx := .idle, lastChar := max s.now m, breakSince := b
    counters := { x.counters with sent := bump x.counters.sent } })
    (if_congr ((Bool.and_eq_true _ _).to_iff.trans (and_congr_right' decide_eq_true_iff)) rfl rfl)

/-- The EOF comes no earlier than the frame takes (R17). -/
theorem exec_dropEofSent (hx : s.dropUnit d = x) (hline : x.line = .sending) (htx : x.tx = .sending src r began)
    (hn : n = max s.now (began + (lineCharacters (s.sourceContent src)).length * charTime r)) :
    exec (.dropEofSent d) s = .next ((s.advance n).dropFrameSent d).arbitrate := by
  have hadvance : s.advance (began + s.sendingTime src r) = s.advance n := by
    rw [hn]; simp only [State.advance, State.sendingTime, ← Nat.max_assoc, Nat.max_self]
  rw [exec_eq, State.after, State.dropEofSent, hx, htx]
  simp only [if_pos hline, hadvance]

theorem State.sent_service {it : Item} (hx : s.dropUnit d = x) (hs : x.service = some it) (hn : s.now ≤ n) :
    (∀ a, it.work = .notice a → (s.advance n).dropFrameSent d
      = (s.withDrop n s.pool d (x.eofCounted n (s.image.config ≠ .loading))).noticeSent d it.buffer)
    ∧ (∀ t e, it.work = .exchange t → s.exchange t = some e → (s.advance n).dropFrameSent d
      = (s.withDrop n s.pool d (x.eofCounted n (s.image.config ≠ .loading))).exchangeSent d t e) := by
  have hcounted := State.eofCounted_eq hx n
  rw [Nat.max_eq_right hn] at hcounted
  have hservice : (x.eofCounted n (s.image.config ≠ .loading)).service = some it := hs
  refine ⟨fun a hw => ?_, fun t e hw he => ?_⟩
  · rw [State.dropFrameSent_eq, hcounted, State.withDrop_dropUnit]
    simp only [hservice, hw]
  · have he' : (s.withDrop n s.pool d (x.eofCounted n (s.image.config ≠ .loading))).exchange t = some e := he
    rw [State.dropFrameSent_eq, hcounted, State.withDrop_dropUnit]
    simp only [hservice, hw, he']

end

/-- The two EOFs that open a window, from the record that each leaves. -/
theorem exec_windowOpened {s : State} {d : DropId} {x : Drop} {src : TxSource} {r : Rate} {began n : Nat} {t : Tag}
    {e : Exchange} {st : Station} (hx : s.dropUnit d = x) (hline : x.line = .sending) (htx : x.tx = .sending src r began)
    (hmode : x.mode = .enabled) (hs : x.serving = some t) (he : s.exchange t = some e) (hremoval : e.removal = .none)
    (hst : s.station e.station = some st)
    (hn : n = max s.now (began + (lineCharacters (s.sourceContent src)).length * charTime r)) :
    exec (.dropEofSent d) s = .next (State.arbitrate { s with
      now := n
      exchanges := s.exchanges.set t (some { e.frameSent with
        state := if e.state = .fetching then .fetching else .awaiting
        deadline := some (n + 576 * st.window)
        limit := if e.state = .fetching then some st.fetchLimit else some st.retryLimit })
      drops := s.drops.set d { x with
        line := .listening, tx := .idle, expiryHeld := false, lastChar := n
        breakSince := if x.rxSpace = true ∧ s.image.config ≠ .loading then some n else none
        counters := { x.counters with sent := bump x.counters.sent } } }) := by
  have hnow : s.now ≤ n := hn ▸ Nat.le_max_left _ _
  obtain ⟨it, hit, hw⟩ := Drop.serving_some.1 hs
  have hkept : e.frameSent.state = e.state ∧ e.frameSent.station = e.station ∧ e.frameSent.removal = e.removal := by
    unfold Exchange.frameSent; split <;> exact ⟨rfl, rfl, rfl⟩
  obtain ⟨hstate, hstation, hremoved⟩ := hkept
  have hw' : State.windowed ((s.withDrop n s.pool d (x.eofCounted n (s.image.config ≠ .loading))).putExchange t
      (some e.frameSent)) e.frameSent = { e.frameSent with
        state := if e.state = .fetching then .fetching else .awaiting
        deadline := some (n + 576 * st.window)
        limit := if e.state = .fetching then some st.fetchLimit else some st.retryLimit } := by
    have hst' : ((s.withDrop n s.pool d (x.eofCounted n (s.image.config ≠ .loading))).putExchange t
        (some e.frameSent)).station e.station = some st := hst
    simp only [State.windowed, hstate, hstation, hst']
    rfl
  have hmode' : ¬ ((((s.withDrop n s.pool d (x.eofCounted n (s.image.config ≠ .loading))).putExchange t
      (some e.frameSent)).dropUnit d).mode = .disabled) := by
    intro k
    have hunit : ((s.withDrop n s.pool d (x.eofCounted n (s.image.config ≠ .loading))).putExchange t
        (some e.frameSent)).dropUnit d = x.eofCounted n (s.image.config ≠ .loading) :=
      State.withDrop_dropUnit s n s.pool d _
    rw [hunit] at k
    exact absurd (hmode.symm.trans k) (by decide)
  rw [exec_dropEofSent hx hline htx hn, (State.sent_service hx hit hnow).2 t e hw he, State.exchangeSent]
  simp only [if_neg hmode', if_neg (not_not.2 (hremoved.trans hremoval))]
  rw [State.startWindow_eq, hw']
  refine congrArg (fun w => Host.Outcome.next (State.arbitrate w)) (State.ext_of_fields rfl rfl rfl ?_ ?_ rfl rfl rfl
    rfl rfl rfl rfl rfl)
  · exact Vector.set_set (hi := t.isLt) ..
  · have hput := State.withDrop_mapDrop s n s.pool d (x.eofCounted n (s.image.config ≠ .loading))
      (fun y => { y with line := .listening, expiryHeld := false })
    have hdrops := congrArg State.drops hput
    exact hdrops

/-- Settles O29. -/
theorem windowOpened : Obligations.WindowOpened := by
  refine ⟨fun s d x src r began n t e st hx hline htx hmode hs he hstate hremoval hst hn => ?_,
    fun s d x src r began n t e st hx hline htx hmode hs he hstate hremoval hst hn => ?_⟩
  · rw [exec_windowOpened hx hline htx hmode hs he hremoval hst hn]
    simp only [Exchange.frameSent, if_neg hstate]
  · rw [exec_windowOpened hx hline htx hmode hs he hremoval hst hn]
    simp only [Exchange.frameSent, if_pos hstate]
    rw [← hstate]

/-! ### Other ends of a transmission -/

section
variable {s : State} {d : DropId} {x : Drop} {n : Nat} {p : Pool}

theorem State.withDrop_leaveService (b : BufId) : (s.withDrop n p d x).leaveService d b
    = s.withDrop n (p.release b) d { x with service := none, expiryHeld := false } := by
  rw [State.leaveService, State.withDrop_mapDrop, State.withDrop_release]

theorem State.holdReceiver_dropped (s : State) (d : DropId) : s.holdReceiver d false = s.withDrop s.now
    (match (s.dropUnit d).rx.state, (s.dropUnit d).rx.slot with
      | .assemble, some b => s.pool.release b
      | _, _ => s.pool) d { s.dropUnit d with rx := Receiver.emptied .hunt } := by
  have hself : s.holdReceiver d false = (s.withDrop s.now s.pool d (s.dropUnit d)).holdReceiver d false := by
    rw [State.withDrop_self rfl]
  by_cases hrx : (s.dropUnit d).rx.state = .assemble
  · cases hb : (s.dropUnit d).rx.slot with
    | some b => rw [hself, (State.withDrop_holdReceiver_inside hrx hb).2, hrx]
    | none =>
      have hslot : ((s.withDrop s.now s.pool d (s.dropUnit d)).rx (.drop d)).slot = none := by
        rw [State.withDrop_rx]; exact hb
      rw [hself, State.holdReceiver, State.withDrop_dropUnit, if_pos hrx, if_neg (by decide), State.dropFrame, hslot, hrx]
      exact State.withDrop_setRx ..
  · rw [hself, State.withDrop_holdReceiver_outside hrx]
    split
    · next h _ => exact absurd h hrx
    · rfl

end

theorem State.enterDisabled_eq (s : State) (d : DropId) (r : ClosureReason) : s.enterDisabled d r = State.closeWork
    (s.withDrop s.now
      (match (s.dropUnit d).rx.state, (s.dropUnit d).rx.slot with
        | .assemble, some b => s.pool.release b
        | _, _ => s.pool) d { s.dropUnit d with
          line := .disabled, rx := Receiver.emptied .hunt, expiryHeld := false }) d r .dropDisabled := by
  rw [State.enterDisabled, State.holdReceiver_dropped, State.withDrop_mapDrop]

theorem State.enterFault_eq (s : State) (d : DropId) : s.enterFault d = State.closeWork
    (s.withDrop s.now
      (match (s.dropUnit d).rx.state, (s.dropUnit d).rx.slot with
        | .assemble, some b => s.pool.release b
        | _, _ => s.pool) d { s.dropUnit d with
          line := .fault, rx := Receiver.emptied .hunt, expiryHeld := false, breakSince := none, marking := .atSpace })
      d .dropFault .dropFault := by
  rw [State.enterFault, State.holdReceiver_dropped, State.withDrop_mapDrop]

theorem Exchange.frameSent_eq (e : Exchange) :
    e.frameSent = { e with fetches := if e.state = .fetching then e.fetches + 1 else e.fetches } := by
  unfold Exchange.frameSent; split <;> rfl

/-- Settles O30. -/
theorem sendingEnded : Obligations.SendingEnded := by
  refine ⟨fun s d x src r began n a it v u hx hline htx hs hw hn hv hu => ?_,
    fun s d x src r began n t e u hx hline htx hs he hn hu => ?_, fun s d r => s.enterDisabled_eq d r,
    fun s last r began time n hn => ⟨fun htx => ?_, fun d x hx htx => ?_⟩⟩
  · have hnow : s.now ≤ n := hn ▸ Nat.le_max_left _ _
    have hu' : u = s.withDrop n (s.pool.release it.buffer) d v := hu
    have hleft : (s.withDrop n s.pool d (x.eofCounted n (s.image.config ≠ .loading))).leaveService d it.buffer = u := by
      rw [State.withDrop_leaveService, hu', hv]; rfl
    have hmode : (u.dropUnit d).mode = x.mode := by rw [hu', State.withDrop_dropUnit, hv]
    rw [exec_dropEofSent hx hline htx hn, (State.sent_service hx hs hnow).1 a hw, State.noticeSent, hleft]
    simp only [hmode]
    refine ⟨fun hm => ?_, fun hm => ?_⟩
    · rw [hm, if_neg (by decide), hu', State.withDrop_mapDrop]; rfl
    · rw [hm, if_pos rfl]
  · have hnow : s.now ≤ n := hn ▸ Nat.le_max_left _ _
    obtain ⟨it, hit, hw⟩ := Drop.serving_some.1 hs
    have hput : (s.withDrop n s.pool d (x.eofCounted n (s.image.config ≠ .loading))).putExchange t (some e.frameSent)
        = u := by rw [hu, Exchange.frameSent_eq]; rfl
    have hmode : (u.dropUnit d).mode = x.mode := by
      rw [← hput]
      have hunit := congrArg Drop.mode
        (State.withDrop_dropUnit s n s.pool d (x.eofCounted n (s.image.config ≠ .loading)))
      exact hunit
    have hremoval : e.frameSent.removal = e.removal := by rw [Exchange.frameSent_eq]
    rw [exec_dropEofSent hx hline htx hn, (State.sent_service hx hit hnow).2 t e hw he, State.exchangeSent, hput]
    simp only [hmode, hremoval]
    refine ⟨fun hm hr => ?_, fun hm hr => ?_, fun hm hr => ?_⟩
    · rw [hm, if_neg (by decide), if_pos hr]
    · rw [hm, if_pos rfl, Exchange.eofReason, hremoval, hr]
    · rw [hm, if_pos rfl, Exchange.eofReason, hremoval]
      cases hrm : e.removal
      · rfl
      · exact absurd hrm hr
      · rfl
  · have htx' : (s.advance time).tx .trunk = .aborting last r began := htx
    rw [exec_eq, State.after, State.abtSent, htx', hn]
    rfl
  · have htx' : (s.advance time).tx (.drop d) = .aborting last r began := by
      have hunit : (s.advance time).dropUnit d = x := hx
      simp only [State.tx, hunit, htx]
    rw [exec_eq, State.after, State.abtSent, htx', hn, ← hx]
    rfl

/-! ### Windows and guard times -/

section
variable {s : State} {d : DropId} {t : Tag} {e : Exchange}

theorem State.deferExchange_eq {st : Station} (he : s.exchange t = some e) (hst : s.station e.station = some st) :
    s.deferExchange t = { s with
      pool := s.pool.release e.buffer
      exchanges := s.exchanges.set t (some { e with
        state := .deferred, deadline := some (s.now + 576 * 10 * st.fetchInterval), limit := none })
      drops := s.drops.set e.drop { s.dropUnit e.drop with service := none, expiryHeld := false } } := by
  simp only [State.deferExchange, he, hst]
  rfl

theorem State.endGuard_cases (s : State) (d : DropId) : ((s.dropUnit d).serving = none → s.endGuard d = s.enterIdle d)
    ∧ ∀ t e, (s.dropUnit d).serving = some t → s.exchange t = some e →
      (e.cancelPending = true → s.endGuard d = (s.closeExchange t .cancelled).enterIdle d)
      ∧ (e.cancelPending = false → s.endGuard d = s.retry d t e) := by
  refine ⟨fun hs => by simp only [State.endGuard, hs], fun t e hs he => ⟨fun hc => ?_, fun hc => ?_⟩⟩
  · simp only [State.endGuard, hs, he, hc, if_true]
  · simp only [State.endGuard, hs, he, hc, Bool.false_eq_true, if_false]

theorem State.expireExchange_eq (he : s.exchange t = some e) : s.expireExchange t =
    if e.cancelPending = true then s.closeExchange t .cancelled
    else if e.state = .fetching then
      if e.limit.getD 0 ≤ e.fetches then s.closeExchange t .fetchLimit else s.deferExchange t
    else if e.attempts ≤ e.limit.getD 0 then
      { s with exchanges := s.exchanges.set t (some { e with deadline := none, limit := none }) }
    else s.closeExchange t .silent := by
  simp only [State.expireExchange, he]
  rfl

theorem State.windowOf_serving (hs : (s.dropUnit d).serving = some t) (he : s.exchange t = some e) :
    s.windowOf d = e.deadline := by
  simp [State.windowOf, hs, he]

end

/-- Settles O31. -/
theorem windowExpires : Obligations.WindowExpires := by
  refine ⟨fun s d x t e w hx hs he hw => ?_, fun s d x t e u v hx hs he hu hv => ?_,
    fun s t e st he hst => State.deferExchange_eq he hst, fun s d => ⟨(s.endGuard_cases d).1, fun t e hs he => ?_⟩⟩
  · subst hx
    have hwindow : s.windowOf d = some w := (State.windowOf_serving hs he).trans hw
    refine ⟨fun hline => ?_, fun hline => ?_⟩
    · have hno : ¬ (s.dropUnit d).line = .listening := by rw [hline]; decide
      rw [exec_eq, State.after, State.windowEnded, hwindow]
      simp only [if_neg hno, if_pos hline]
      rfl
    · rw [exec_eq, State.after, State.windowEnded, hwindow]
      simp only [if_pos hline]
      rfl
  · have hcounted : s.expiryCounted d = u := by
      rw [State.expiryCounted, State.mapDropCounters, State.mapDrop_mapDrop, State.mapDrop_eq_withDrop hx, hu]; rfl
    have hserving : (u.dropUnit d).serving = some t := by
      have hunit : u = s.withDrop s.now s.pool d { x with
          line := .guard, expiryHeld := false
          counters := { x.counters with timeouts := bump x.counters.timeouts } } := hu
      rw [hunit, State.withDrop_dropUnit]; exact hs
    have hexch : u.exchange t = some e := by rw [hu]; exact he
    have hexpired : u.serviceExpired d = v := by
      rw [State.serviceExpired, hserving, hv]
      exact State.expireExchange_eq hexch
    rw [State.takeExpiry_eq, hcounted, hexpired, State.settleGuard]
    refine ⟨fun hover => ?_, fun hearly => ?_⟩
    · exact congrArg State.arbitrate (if_pos hover)
    · exact congrArg State.arbitrate (if_neg fun k => absurd k.2 (Nat.not_le.2 hearly))
  · exact ⟨((s.endGuard_cases d).2 t e hs he).1, ((s.endGuard_cases d).2 t e hs he).2⟩

/-- Settles O32. -/
theorem guardAndDeadline : Obligations.GuardAndDeadline := by
  have hguard : ∀ (s : State) (d : DropId) (x : Drop), s.dropUnit d = x → x.line = .guard → exec (.guardEnd d) s
      = .next ((State.endGuard { s with now := max s.now (x.lastChar + 4 * charTime x.rate) } d)).arbitrate := by
    intro s d x hx hline
    rw [exec_eq, State.after, State.guardEnded, hx, if_pos hline]
    rfl
  refine ⟨fun s d x t e hx hline hs he hc => ?_, fun s d x u hx hline hu => ⟨fun hs => ?_, fun t e hs he hc => ?_⟩,
    fun s t e w he hstate hw => ?_⟩
  · have hs' : ((State.dropUnit { s with now := max s.now (x.lastChar + 4 * charTime x.rate) } d)).serving = some t :=
      (congrArg Drop.serving hx).trans hs
    rw [hguard s d x hx hline, ((State.endGuard_cases _ d).2 t e hs' he).2 hc]
    rfl
  · have hs' : (u.dropUnit d).serving = none := by rw [hu]; exact (congrArg Drop.serving hx).trans hs
    rw [hguard s d x hx hline, ← hu, (State.endGuard_cases u d).1 hs']
  · have hs' : (u.dropUnit d).serving = some t := by rw [hu]; exact (congrArg Drop.serving hx).trans hs
    have he' : u.exchange t = some e := by rw [hu]; exact he
    rw [hguard s d x hx hline, ← hu, ((State.endGuard_cases u d).2 t e hs' he').1 hc]
  · rw [exec_eq, State.after, State.deadlineEnded, he]
    simp only [if_pos hstate, hw]
    rfl

/-! ### Faults and recoveries -/

theorem State.flt_iff (s : State) : s.flt = true ↔ ∀ d, (s.dropUnit d).line ≠ .fault := by
  simp only [State.flt, Vector.all_eq_true, decide_eq_true_eq]
  exact ⟨fun h d => h d.val d.isLt, fun h i hi => h ⟨i, hi⟩⟩

theorem State.flt_arbitrate (s : State) : s.arbitrate.flt = s.flt := by
  simp only [State.flt, (State.arbitrate_keeps s).2.2.2.1]

theorem State.closeWork_line (s : State) (d : DropId) (first rest : ClosureReason) (c : DropId) :
    ((s.closeWork d first rest).dropUnit c).line = (s.dropUnit c).line
      ∧ ((s.closeWork d first rest).dropUnit c).mode = (s.dropUnit c).mode :=
  ⟨State.closeWork_at Drop.line (fun t e x => (Drop.without_keeps t e x).2.1) (fun _ => rfl) s d first rest c,
    State.closeWork_at Drop.mode (fun t e x => (Drop.without_keeps t e x).1) (fun _ => rfl) s d first rest c⟩

/-- IDLE entered leaves a drop IDLE or SENDING. -/
theorem State.enterIdle_line (s : State) (d : DropId) :
    ((s.enterIdle d).dropUnit d).line = .idle ∨ ((s.enterIdle d).dropUnit d).line = .sending := by
  have hsending : ∀ (u : State) (src : TxSource), ((u.startSending d src).dropUnit d).line = .sending := fun u src => by
    rw [State.startSending, State.dropUnit_mapDrop_self]
  have hfetch : ∀ (u : State) (t : Tag), (u.dropUnit d).line = .idle →
      ((u.startFetch d t).dropUnit d).line = .idle ∨ ((u.startFetch d t).dropUnit d).line = .sending := fun u t hu => by
    cases he : u.exchange t with
    | none => exact .inl (by simp only [State.startFetch, he]; exact hu)
    | some e => rw [State.startFetch_eq he]; exact .inr (hsending _ _)
  have hitem : ∀ (u : State) (it : Item) (rest : List Item), ((u.startItem d it rest).dropUnit d).line = .sending :=
    fun u it rest => by rw [State.startItem_eq]; exact hsending _ _
  have hchoice : ∀ u : State, (u.dropUnit d).line = .idle →
      ((u.chooseWork d).dropUnit d).line = .idle ∨ ((u.chooseWork d).dropUnit d).line = .sending := fun u hu => by
    unfold State.chooseWork
    split
    · split
      · exact .inl hu
      · exact hfetch u _ hu
      · exact .inr (hitem u _ _)
      · split
        · exact hfetch u _ hu
        · exact .inr (hitem u _ _)
    · exact .inl hu
  refine hchoice _ ?_
  have hheld : ∀ (u : State) (counted : Bool), ((u.holdReceiver d counted).dropUnit d).line = (u.dropUnit d).line :=
    fun u counted => State.holdReceiver_at Drop.line (fun _ _ => rfl) (fun _ _ => rfl) u d counted d
  unfold State.applyRate
  rw [State.dropUnit_mapDrop_self]
  split
  · rw [State.dropUnit_mapDrop_self]
  · split
    · rw [State.dropUnit_mapDrop_self, State.dropUnit_mapDrop_self]
    · rw [State.dropUnit_mapDrop_self]
      exact (hheld _ true).trans (by rw [State.dropUnit_mapDrop_self])

/-- Settles O33. -/
theorem faultAndRecovery : Obligations.FaultAndRecovery := by
  refine ⟨fun s d x began hx hb hs hf hl => ?_, fun s d x began u hx hline hm hu => ?_⟩
  · subst hx
    have hexec : exec (.dropFault d) s
        = .next ((s.advance (began + faultLimit (s.dropUnit d).rate)).enterFault d).arbitrate := by
      rw [exec_eq, State.after, State.breakMeasured, hb]
      simp only [hs, hf, hl, or_self, if_false]
    rw [State.enterFault_eq] at hexec
    refine ⟨_, hexec, ?_, ?_, rfl⟩
    · rw [State.flt_arbitrate, Bool.eq_false_iff]
      intro k
      refine (State.flt_iff _).1 k d ?_
      rw [(State.closeWork_line _ _ _ _ _).1, State.withDrop_dropUnit]
    · have hunit : ∀ v : State, v.arbitrate.dropUnit d = v.dropUnit d := fun v =>
        congrArg (fun y : Vector Drop 4 => y[d]) (State.arbitrate_keeps v).2.2.2.1
      rw [hunit, (State.closeWork_line _ _ _ _ _).2, State.withDrop_dropUnit]
      rfl
  · have hleft : s.faultLeft d (began + recoveryLimit x.rate) = u := by
      rw [State.faultLeft, State.mapDrop_eq_withDrop (s := s.advance _) hx, hu, Drop.recovered]
      rfl
    have hexec : exec (.dropRecovery d) s = .next (if x.mode = .enabled then u.enterIdle d else u) := by
      rw [exec_eq, State.after, State.markingMeasured, hx, hline, hm]
      simp only [hleft]
    have hunit : ∀ k, k ≠ d → u.dropUnit k = s.dropUnit k := fun k hk => by
      rw [← hleft]; exact State.dropUnit_mapDrop_ne _ _ hk
    have hself : (u.dropUnit d).line = .disabled := by
      rw [← hleft, State.faultLeft, State.dropUnit_mapDrop_self]; rfl
    refine ⟨fun t ht => ?_, fun hmode => ?_, fun hmode => ?_⟩
    · have hother : ∀ k, k ≠ d → t.dropUnit k = s.dropUnit k := fun k hk => by
        rw [hexec] at ht
        obtain rfl := Host.Outcome.next.inj ht
        split
        · rw [State.enterIdle_dropUnit_ne u hk, hunit k hk]
        · exact hunit k hk
      have hd : (t.dropUnit d).line ≠ .fault := by
        rw [hexec] at ht
        obtain rfl := Host.Outcome.next.inj ht
        split
        · obtain h | h := u.enterIdle_line d <;> rw [h] <;> decide
        · rw [hself]; decide
      rw [State.flt_iff]
      refine ⟨fun h k hk => hother k hk ▸ h k, fun h k => ?_⟩
      by_cases hk : k = d
      · rw [hk]; exact hd
      · rw [hother k hk]; exact h k hk
    · rw [hexec, hmode, if_neg (by decide)]
    · rw [hexec, hmode, if_pos rfl]

end Sys2Proof.Machine
end

section
/-! PROOFS. The upstream arbiter, the EOF of a trunk frame, and management requests, new and repeated (R128 to R149). -/

namespace Sys2Proof.Machine

set_option Elab.async false

/-! ### The arbiter's choice -/

section
variable {s : State}

theorem State.noticeHead_eq_none (h : ∀ y ∈ s.stations, y.noticePending = false) : s.noticeHead = none :=
  List.find?_eq_none.2 fun y hy => by simp [h y hy]

/-- The notice set's lowest address stands first in the table (R130). -/
theorem State.noticeHead_eq_some {st : Station} (hshape : TableShape s) (hst : st ∈ s.stations)
    (hpending : st.noticePending = true)
    (hleast : ∀ y ∈ s.stations, y.noticePending = true → st.address.toNat ≤ y.address.toNat) :
    s.noticeHead = some st := by
  obtain ⟨-, hsorted, -, -⟩ := hshape
  cases hhead : s.noticeHead with
  | none => exact absurd hpending (List.find?_eq_none.1 hhead st hst)
  | some y =>
    obtain ⟨hy, front, rest, hsplit, hfront⟩ := List.find?_eq_some_iff_append.1 hhead
    rw [hsplit] at hst hsorted
    have hafter := (List.pairwise_append.1 hsorted).2.1
    obtain hst | hst := List.mem_append.1 hst
    · exact absurd (hfront st hst) (by simp [hpending])
    · obtain rfl | hst := List.mem_cons.1 hst
      · rfl
      · have hless := List.rel_of_pairwise_cons hafter hst
        have hle := hleast y (hsplit ▸ List.mem_append_right _ List.mem_cons_self) hy
        omega

theorem State.arbitrate_sending (h : s.trunk.tx ≠ .idle) : s.arbitrate = s := by
  rw [State.arbitrate, if_pos h]

/-- The routine head goes once the run counter is at the limit, and when nothing else waits (R132). -/
theorem State.arbitrate_routine {r : BufId} {rest : List BufId} (hidle : s.trunk.tx = .idle)
    (hr : s.upstream.routine = r :: rest)
    (h : s.settings.urgentLimit ≤ s.upstream.run ∨ (s.upstream.urgent = [] ∧ s.noticeHead = none)) :
    s.arbitrate = s.giveRoutine r rest := by
  rw [State.arbitrate, if_neg (not_not.2 hidle), hr]
  obtain hlate | ⟨hu, hn⟩ := h
  · cases s.upstream.urgent <;> cases s.noticeHead <;> simp only [if_pos hlate]
  · simp only [hu, hn]

/-- The urgent head goes before it otherwise. -/
theorem State.arbitrate_urgent {r : BufId} {rest : List BufId} (hidle : s.trunk.tx = .idle)
    (hu : s.upstream.urgent = r :: rest)
    (h : ¬ (s.upstream.routine ≠ [] ∧ s.settings.urgentLimit ≤ s.upstream.run)) : s.arbitrate = s.giveUrgent r rest := by
  rw [State.arbitrate, if_neg (not_not.2 hidle), hu]
  cases hr : s.upstream.routine with
  | nil => rfl
  | cons a as =>
    have hearly : ¬ s.settings.urgentLimit ≤ s.upstream.run := fun k => h ⟨by simp [hr], k⟩
    simp only [if_neg hearly]

/-- With no urgent frame a STATE report is the next choice. -/
theorem State.arbitrate_state {st : Station} (hidle : s.trunk.tx = .idle) (hu : s.upstream.urgent = [])
    (hn : s.noticeHead = some st)
    (h : ¬ (s.upstream.routine ≠ [] ∧ s.settings.urgentLimit ≤ s.upstream.run)) : s.arbitrate = s.giveState st := by
  rw [State.arbitrate, if_neg (not_not.2 hidle), hu, hn]
  cases hr : s.upstream.routine with
  | nil => rfl
  | cons a as =>
    have hearly : ¬ s.settings.urgentLimit ≤ s.upstream.run := fun k => h ⟨by simp [hr], k⟩
    simp only [if_neg hearly]

theorem State.arbitrate_nothing (hu : s.upstream.urgent = []) (hr : s.upstream.routine = [])
    (hn : s.noticeHead = none) : s.arbitrate = s := by
  rw [State.arbitrate, hr, hu, hn]
  exact ite_self _

end

/-- Settles O35. -/
theorem arbiterChoice : Obligations.ArbiterChoice := by
  refine fun s late hlate => ⟨State.arbitrate_sending, fun hidle => ⟨fun r rest hr h => ?_, fun r rest hu h => ?_,
    fun st hshape hst hpending hleast hu h => ?_, fun hu hr hn => ?_⟩⟩
  · exact State.arbitrate_routine hidle hr
      (h.imp (fun k => (hlate.1 k).2) (fun k => ⟨k.1, State.noticeHead_eq_none k.2⟩))
  · exact State.arbitrate_urgent hidle hu (fun k => h (hlate.2 k))
  · rw [State.arbitrate_state hidle hu (State.noticeHead_eq_some hshape hst hpending hleast) (fun k => h (hlate.2 k))]
    rfl
  · exact State.arbitrate_nothing hu hr (State.noticeHead_eq_none hn)

/-! ### The EOF of a trunk frame -/

/-- The EOF of a frame that the trunk sends, no earlier than the frame takes. -/
theorem exec_trunkEofSent {s u : State} {src : TxSource} {r : Rate} {began : Nat} (htx : s.trunk.tx = .sending src r began)
    (hu : u = { s with
      now := max s.now (began + (lineCharacters (s.sourceContent src)).length * charTime r)
      trunk := { s.trunk with tx := .idle } }) :
    exec .trunkEofSent s = .next (u.trunkFrameSent src).arbitrate := by
  rw [exec_eq, State.after, State.trunkEofSent, htx, hu]
  rfl

theorem State.settingsDue_eq (s : State) : s.settingsDue =
    match s.mgmt.pendingRate with
    | none => { s with
      settings := { s.settings with ownAddress := s.mgmt.pendingAddress.getD s.settings.ownAddress }
      mgmt := { s.mgmt with pendingAddress := none, pendingRate := none } }
    | some r => State.trunkRateDue { s with
      settings := { s.settings with ownAddress := s.mgmt.pendingAddress.getD s.settings.ownAddress }
      mgmt := { s.mgmt with pendingAddress := none, pendingRate := none } } r := by
  unfold State.settingsDue
  cases s.mgmt.pendingRate <;> rfl

section
variable {s : State} {b : BufId}

/-- The RESULT that the replay slot does not hold moves nothing in management. -/
theorem State.resultSent_other (h : s.mgmt.slot.buffer ≠ some b) : s.resultSent b = s := by
  unfold State.resultSent
  cases hslot : s.mgmt.slot with
  | empty => rfl
  | inFlight q r w =>
    rw [hslot] at h
    exact if_neg fun k => h (congrArg some k)
  | held q r =>
    rw [hslot] at h
    exact if_neg fun k => h (congrArg some k)

/-- The RESULT that it holds makes the slot HELD, and the pending settings fall due (R147, R161). -/
theorem State.resultSent_own {q : Byte} (h : s.mgmt.slot = .held q b ∨ ∃ w, s.mgmt.slot = .inFlight q b w) :
    s.resultSent b = State.settingsDue { s with mgmt := { s.mgmt with slot := .held q b } } := by
  unfold State.resultSent
  obtain hslot | ⟨w, hslot⟩ := h
  · have hself : { s with mgmt := { s.mgmt with slot := .held q b } } = s := by rw [← hslot]
    rw [hself, hslot]
    exact if_pos rfl
  · rw [hslot]
    exact if_pos rfl

end

/-- Settles O36. -/
theorem trunkFrameSent : Obligations.TrunkFrameSent := by
  refine ⟨fun s src r began u htx hu => ⟨fun hsrc => ?_, fun b hsrc => ⟨fun hslot => ?_, fun q v hslot hv => ?_⟩⟩,
    fun s r => ⟨fun h => if_pos h, fun h hrx => ?_, fun b h hb => ?_⟩⟩
  · rw [exec_trunkEofSent htx hu, hsrc, hu]; rfl
  · have hslot' : (u.release b).mgmt.slot.buffer ≠ some b := by rw [hu]; exact hslot
    rw [exec_trunkEofSent htx hu, hsrc, State.trunkFrameSent, State.resultSent_other hslot', hu]; rfl
  · have hslot' : (u.release b).mgmt.slot = .held q b ∨ ∃ w, (u.release b).mgmt.slot = .inFlight q b w := by
      rw [hu]; exact hslot
    have hsettled : (u.release b).resultSent b
        = match s.mgmt.pendingRate with
          | none => v
          | some rate => v.trunkRateDue rate := by
      rw [State.resultSent_own hslot', State.settingsDue_eq, hv, hu]
      rfl
    rw [exec_trunkEofSent htx hu, hsrc, State.trunkFrameSent, hsettled]
    exact ⟨fun hr => by rw [hr], fun rate hr => by rw [hr]⟩
  · rw [State.trunkRateDue, if_neg h, if_neg hrx]; rfl
  · obtain ⟨hrx, hslot⟩ := hb
    have hslot' : ((s.countBroken .trunk).rx .trunk).slot = some b := hslot
    rw [State.trunkRateDue, if_neg h, if_pos hrx, State.dropFrame_slot hslot']; rfl

/-! ### A repeated request -/

section
variable {s : State} {b : BufId} {c : List Byte} {time : Nat}

/-- A management request is passed to the management unit (R58). -/
theorem TrunkFrameEnds.manages (h : TrunkFrameEnds s b c) (hsrc : srcOf c = 0x00#8) (hkind : kindOf c = 0x10#8)
    (hdest : destOf c = s.settings.ownAddress) :
    exec (.eofReceived ⟨.trunk, time⟩) s = .next ((trunkTaken time s).manage b).arbitrate := by
  have hclass := State.classify_own (trunkTaken_content time h) ⟨hsrc, .inl hkind⟩ hdest
  rw [if_pos (show kindOf c = kindRequest from hkind)] at hclass
  exact h.steps hclass

theorem State.isUpstream_iff : s.isUpstream b = true
    ↔ b ∈ s.upstream.urgent ∨ ∃ rate began, s.trunk.tx = .sending (.pool b) rate began := by
  have hsends : s.trunk.tx.sends b = true ↔ ∃ rate began, s.trunk.tx = .sending (.pool b) rate began := by
    cases s.trunk.tx with
    | idle => simp [Transmitter.sends]
    | aborting last r began => simp [Transmitter.sends]
    | sending src r began => cases src <;> simp [Transmitter.sends]
  rw [State.isUpstream, Bool.or_eq_true, List.contains_iff_mem, hsends]

/-- The SEQ recorded in the slot makes a request a duplicate (R145). -/
theorem TrunkFrameEnds.duplicate (h : TrunkFrameEnds s b c) (hsrc : srcOf c = 0x00#8) (hkind : kindOf c = 0x10#8)
    (hdest : destOf c = s.settings.ownAddress) (hseq : s.mgmt.slot.seq = some (seqOf c)) :
    exec (.eofReceived ⟨.trunk, time⟩) s = .next (State.arbitrate ((trunkTaken time s).duplicate b)) := by
  have hseq' : (trunkTaken time s).mgmt.slot.seq = some (seqOf c) := hseq
  rw [h.manages hsrc hkind hdest, State.manage, trunkTaken_content time h]
  simp only [if_pos hseq']

end

theorem State.duplicate_inFlight {u : State} {b r : BufId} {q : Byte} {w : Bool} (h : u.mgmt.slot = .inFlight q r w) :
    u.duplicate b = u.release b := by
  have h' : (u.release b).mgmt.slot = .inFlight q r w := h
  simp only [State.duplicate, h']

theorem State.duplicate_held {u : State} {b r : BufId} {q : Byte} (h : u.mgmt.slot = .held q r) : u.duplicate b
    = if (u.release b).isUpstream r = true then u.release b else ((u.release b).hold r).queueUp .urgent r := by
  have h' : (u.release b).mgmt.slot = .held q r := h
  simp only [State.duplicate, h']

/-- Settles O37. -/
theorem duplicateRequest : Obligations.DuplicateRequest := by
  refine fun s time b c h hsrc hkind hdest => ⟨fun r w hslot => ?_, fun r hslot hup => ?_, fun r hslot hu htx => ?_⟩
  · rw [h.duplicate hsrc hkind hdest (by rw [hslot]; rfl), State.duplicate_inFlight (u := trunkTaken time s) hslot,
      h.released]
  · have hup' : ({ trunkTaken time s with pool := s.pool.freed b } : State).isUpstream r = true :=
      State.isUpstream_iff.2 hup
    rw [h.duplicate hsrc hkind hdest (by rw [hslot]; rfl), State.duplicate_held (u := trunkTaken time s) hslot,
      h.released]
    exact congrArg (fun w => Host.Outcome.next (State.arbitrate w)) (if_pos hup')
  · have hup' : ¬ ({ trunkTaken time s with pool := s.pool.freed b } : State).isUpstream r = true := fun k =>
      (State.isUpstream_iff.1 k).elim hu fun ⟨rate, began, k⟩ => htx rate began k
    rw [h.duplicate hsrc hkind hdest (by rw [hslot]; rfl), State.duplicate_held (u := trunkTaken time s) hslot,
      h.released]
    exact congrArg (fun w => Host.Outcome.next (State.arbitrate w)) (if_neg hup')

/-! ### A new request -/

section
variable {s : State} {b : BufId} {c : List Byte} {time : Nat}

/-- The slot turned over to the request in a buffer (R146). -/
def State.turned (u : State) (seq : Byte) (b : BufId) : State :=
  { u with
    pool := match u.mgmt.slot.buffer with
      | none => u.pool
      | some old => u.pool.release old
    mgmt := { u.mgmt with slot := .inFlight seq b false } }

theorem State.turnOver_eq (u : State) (seq : Byte) : u.turnOver seq b = u.turned seq b := by
  unfold State.turnOver State.turned
  cases u.mgmt.slot.buffer <;> rfl

/-- A request whose SEQ is not the slot's is judged, the slot turned over to it (R146, R148). -/
theorem TrunkFrameEnds.newRequest (h : TrunkFrameEnds s b c) (hsrc : srcOf c = 0x00#8) (hkind : kindOf c = 0x10#8)
    (hdest : destOf c = s.settings.ownAddress) (hseq : s.mgmt.slot.seq ≠ some (seqOf c)) :
    exec (.eofReceived ⟨.trunk, time⟩) s
      = .next (((trunkTaken time s).turned (seqOf c) b).judge (seqOf c) b (bodyOf c)).arbitrate := by
  have hseq' : ¬ (trunkTaken time s).mgmt.slot.seq = some (seqOf c) := hseq
  rw [h.manages hsrc hkind hdest, State.manage, trunkTaken_content time h]
  simp only [if_neg hseq', State.turnOver_eq]

/-- The RESULT written in the request's buffer, and queued urgent. -/
def State.resulted (u : State) (seq : Byte) (b : BufId) (code : ResultCode) (op : Byte) (data : List Byte) : State :=
  { u with
    pool := (u.pool.write b (frame 0x00#8 u.settings.ownAddress 0x33#8 seq (code.code :: op :: data))).hold b
    upstream := u.upstream.joined .urgent b }

theorem State.handResult_eq (u : State) (seq : Byte) (code : ResultCode) (op : Byte) (data : List Byte) :
    u.handResult seq b code op data = u.resulted seq b code op data := rfl

theorem knownOp_iff (op : Byte) : knownOp op = true ↔ 1 ≤ op.toNat ∧ op.toNat ≤ 0x0D := by
  simp [knownOp]

theorem runsInStoring_iff (op : Byte) : runsInStoring op = true
    ↔ op ∈ [0x01#8, 0x02#8, 0x03#8, 0x06#8, 0x07#8, 0x08#8, 0x0A#8] := by
  simp only [runsInStoring, Bool.or_eq_true, decide_eq_true_eq, List.mem_cons, List.not_mem_nil, or_false]
  simp only [opReadStatus, opListStations, opReadStation, opReadExchanges, opCancelExchange, opReadDrop, opReadCounters]
  tauto

/-- The tests of R148 in their order. -/
theorem State.judge_unknown {u : State} {seq op : Byte} {args : List Byte} (h : op.toNat < 1 ∨ 0x0D < op.toNat) :
    u.judge seq b (op :: args) = u.resulted seq b .unknownOperation op [] := by
  have hop : knownOp op = false := by
    rw [← Bool.not_eq_true, knownOp_iff]; omega
  rw [State.judge, if_pos hop, State.handResult_eq]

theorem State.judge_known {u : State} {seq op : Byte} {args : List Byte} (h : 1 ≤ op.toNat ∧ op.toNat ≤ 0x0D) :
    (u.image.config = .loading → u.judge seq b (op :: args)
      = u.resulted seq b .notReady op (if op = 0x01#8 then u.statusData else []))
    ∧ (u.image.config = .storing → runsInStoring op = false →
      u.judge seq b (op :: args) = u.resulted seq b .busy op [])
    ∧ (u.image.config = .ready ∨ (u.image.config = .storing ∧ runsInStoring op = true) →
      (parseRequest op args = none → u.judge seq b (op :: args) = u.resulted seq b .badArgument op [])
      ∧ (∀ q, parseRequest op args = some q → q ≠ .storeImage → (∀ kind, q ≠ .restart kind) →
        u.judge seq b (op :: args) = (u.carryOut q).1.resulted seq b (u.carryOut q).2.1 op (u.carryOut q).2.2)) := by
  have hop : ¬ knownOp op = false := by rw [Bool.not_eq_false, knownOp_iff]; exact h
  simp only [State.judge, if_neg hop, State.handResult_eq]
  refine ⟨fun hc => by rw [hc]; rfl, fun hc hruns => by rw [hc]; simp only [hruns, Bool.false_eq_true, if_false], ?_⟩
  rintro (hc | ⟨hc, hruns⟩)
  · rw [hc]
    refine ⟨fun hq => by rw [hq], fun q hq hstore hrestart => ?_⟩
    rw [hq]
    cases q
    case storeImage => exact absurd rfl hstore
    case restart kind => exact absurd rfl (hrestart kind)
    all_goals rfl
  · rw [hc]
    simp only [hruns, if_true]
    exact ⟨fun hq => by rw [hq], fun q hq _ _ => by rw [hq]⟩

end

/-- The operation code of a request (Format Reference, Management Requests). -/
def MgmtRequest.opCode : MgmtRequest → Byte
  | .readStatus => opReadStatus
  | .listStations _ => opListStations
  | .readStation _ => opReadStation
  | .writeStation _ _ => opWriteStation
  | .removeStation _ _ => opRemoveStation
  | .readExchanges => opReadExchanges
  | .cancelExchange _ => opCancelExchange
  | .readDrop _ => opReadDrop
  | .setDrop _ _ _ => opSetDrop
  | .readCounters _ _ => opReadCounters
  | .writeSettings _ => opWriteSettings
  | .storeImage => opStoreImage
  | .restart _ => opRestart

theorem parseWriteStation_opCode {args : List Byte} {q : MgmtRequest} (h : parseWriteStation args = some q) :
    q.opCode = opWriteStation := by
  unfold parseWriteStation at h
  split at h
  · obtain ⟨-, h⟩ | ⟨-, h⟩ := ite_eq_iff.1 h <;> cases h
    rfl
  · cases h

theorem parseWriteSettings_opCode {args : List Byte} {q : MgmtRequest} (h : parseWriteSettings args = some q) :
    q.opCode = opWriteSettings := by
  unfold parseWriteSettings at h
  split at h
  · obtain ⟨-, h⟩ | ⟨-, h⟩ := ite_eq_iff.1 h <;> cases h
    rfl
  · cases h

theorem parseSetDrop_opCode {a b c : Byte} {q : MgmtRequest} (h : parseSetDrop a b c = some q) :
    q.opCode = opSetDrop := by
  obtain ⟨-, h⟩ | ⟨-, h⟩ := ite_eq_iff.1 h <;> cases h
  rfl

/-- A request is read from its own operation code. -/
theorem parseRequest_opCode {op : Byte} {args : List Byte} {q : MgmtRequest} (h : parseRequest op args = some q) :
    op = q.opCode := by
  obtain ⟨hop, h⟩ | ⟨-, h⟩ := ite_eq_iff.1 h
  · rw [hop, parseWriteStation_opCode h]
  obtain ⟨hop, h⟩ | ⟨-, h⟩ := ite_eq_iff.1 h
  · rw [hop, parseWriteSettings_opCode h]
  split at h
  · obtain ⟨hop, h⟩ | ⟨-, h⟩ := ite_eq_iff.1 h
    · cases h; exact hop
    obtain ⟨hop, h⟩ | ⟨-, h⟩ := ite_eq_iff.1 h
    · cases h; exact hop
    obtain ⟨hop, h⟩ | ⟨-, h⟩ := ite_eq_iff.1 h <;> cases h
    exact hop
  · obtain ⟨hop, h⟩ | ⟨-, h⟩ := ite_eq_iff.1 h
    · cases h; exact hop
    obtain ⟨hop, h⟩ | ⟨-, h⟩ := ite_eq_iff.1 h
    · cases h; exact hop
    obtain ⟨hop, h⟩ | ⟨-, h⟩ := ite_eq_iff.1 h
    · cases h; exact hop
    obtain ⟨⟨hop, -⟩, h⟩ | ⟨-, h⟩ := ite_eq_iff.1 h
    · cases h; exact hop
    obtain ⟨⟨hop, -⟩, h⟩ | ⟨-, h⟩ := ite_eq_iff.1 h
    · cases h; exact hop
    obtain ⟨⟨hop, -⟩, h⟩ | ⟨-, h⟩ := ite_eq_iff.1 h <;> cases h
    exact hop
  · obtain ⟨⟨hop, -⟩, h⟩ | ⟨-, h⟩ := ite_eq_iff.1 h
    · cases h; exact hop
    obtain ⟨⟨hop, -⟩, h⟩ | ⟨-, h⟩ := ite_eq_iff.1 h
    · cases h; exact hop
    obtain ⟨⟨hop, -⟩, h⟩ | ⟨-, h⟩ := ite_eq_iff.1 h <;> cases h
    exact hop
  · obtain ⟨hop, h⟩ | ⟨-, h⟩ := ite_eq_iff.1 h
    · rw [hop, parseSetDrop_opCode h]
    · cases h
  · cases h

section
variable {u : State} {seq : Byte} {b : BufId} {op : Byte} {args : List Byte}

/-- STORE IMAGE and RESTART are requests of READY alone, and write no RESULT here. -/
theorem State.judge_ready (h : 1 ≤ op.toNat ∧ op.toNat ≤ 0x0D) (hc : u.image.config = .ready) :
    (parseRequest op args = some .storeImage → u.judge seq b (op :: args) = u.beginStore seq b)
    ∧ ∀ kind, parseRequest op args = some (.restart kind) → u.judge seq b (op :: args) = u.restart seq kind := by
  have hop : ¬ knownOp op = false := by rw [Bool.not_eq_false, knownOp_iff]; exact h
  simp only [State.judge, if_neg hop, hc]
  exact ⟨fun hq => by rw [hq], fun kind hq => by rw [hq]⟩

theorem config_of_parse {q : MgmtRequest} (hq : parseRequest op args = some q) (hruns : runsInStoring q.opCode = false)
    (hc : u.image.config = .ready ∨ (u.image.config = .storing ∧ runsInStoring op = true)) :
    u.image.config = .ready := by
  refine hc.resolve_right fun ⟨_, k⟩ => ?_
  rw [parseRequest_opCode hq, hruns] at k
  exact absurd k (by decide)

end

/-- Settles O38. -/
theorem newRequest : Obligations.NewRequest := by
  refine ⟨fun s time b c body u result h hsrc hkind hdest hseq hbody hu hresult => ?_,
    fun s => ⟨fun a f => rfl, fun a force => rfl, fun a => rfl, fun d mode rate => rfl, fun f => rfl⟩, rfl⟩
  have hturned : (trunkTaken time s).turned (seqOf c) b = u := by rw [hu]; rfl
  have hexec := h.newRequest (time := time) hsrc hkind hdest hseq
  rw [hturned, show bodyOf c = body from hbody.symm] at hexec
  have hresulted : ∀ v code op data, v.resulted (seqOf c) b code op data = result v code op data := by
    intro v code op data; rw [hresult]; rfl
  have hconfig : u.image = s.image := by rw [hu]; rfl
  rw [hexec]
  refine ⟨fun hb => ?_, fun op args hb => ?_⟩
  · rw [hb, ← hresulted]; rfl
  rw [hb, ← hconfig]
  refine ⟨fun hop => ?_, fun hlow hhigh => ?_⟩
  · rw [State.judge_unknown hop, hresulted]
  have hknown := State.judge_known (b := b) (u := u) (seq := seqOf c) (args := args) ⟨hlow, hhigh⟩
  have hready := State.judge_ready (b := b) (u := u) (seq := seqOf c) (args := args) ⟨hlow, hhigh⟩
  obtain ⟨hloading, hstoring, hruns⟩ := hknown
  simp only [hresulted] at hloading hstoring hruns
  refine ⟨fun hc hop => ?_, fun hc hop => ?_, fun hc hop => ?_, fun hc => ?_⟩
  · rw [hloading hc, if_neg hop]
  · rw [hloading hc, if_pos hop]
  · rw [hstoring hc (Bool.eq_false_iff.2 fun k => hop ((runsInStoring_iff op).1 k))]
  have hc' : u.image.config = .ready ∨ (u.image.config = .storing ∧ runsInStoring op = true) :=
    hc.imp_right fun k => ⟨k.1, (runsInStoring_iff op).2 k.2⟩
  refine ⟨fun hq => ?_, fun q hq hstore hrestart => ?_, fun hq => ?_, fun hq => ?_, fun hq => ?_⟩
  · rw [(hruns hc').1 hq]
  · rw [(hruns hc').2 q hq hstore hrestart]
  · rw [(hready (config_of_parse hq (by decide) hc')).1 hq, State.beginStore, hu]
  · rw [(hready (config_of_parse hq (by decide) hc')).2 .warm hq]; rfl
  · rw [(hready (config_of_parse hq (by decide) hc')).2 .reload hq]; rfl

end Sys2Proof.Machine
end

section
/-! PROOFS. The arguments of the management operations, and CANCEL EXCHANGE, SET DROP and WRITE SETTINGS (R115, R148,
R158 to R161, R187). -/

namespace Sys2Proof.Machine

set_option Elab.async false

/-! ### Field masks -/

theorem bitsBelow_eq_length (mask n : Nat) : bitsBelow mask n = ((List.range n).filter mask.testBit).length := by
  induction n with
  | zero => rfl
  | succ k ih =>
    rw [List.range_succ, List.filter_append, List.length_append, ← ih, bitsBelow]
    cases h : mask.testBit k <;> simp [h]

theorem bitsBelow_mono (mask : Nat) {k n : Nat} (h : k ≤ n) : bitsBelow mask k ≤ bitsBelow mask n := by
  induction h with
  | refl => exact Nat.le_refl _
  | step _ ih => rw [bitsBelow]; omega

theorem bitsBelow_lt {mask k n : Nat} (hbit : mask.testBit k = true) (h : k < n) : bitsBelow mask k < bitsBelow mask n := by
  have hnext : bitsBelow mask (k + 1) = bitsBelow mask k + 1 := by rw [bitsBelow, if_pos hbit]
  have := bitsBelow_mono mask (show k + 1 ≤ n from h)
  omega

/-- The fields below a bit are the value bytes in order. -/
theorem filterMap_fieldAt (mask n : Nat) (vals : List Byte) (h : bitsBelow mask n ≤ vals.length) :
    (List.range n).filterMap (fieldAt mask vals) = vals.take (bitsBelow mask n) := by
  induction n with
  | zero => rfl
  | succ k ih =>
    have hk : bitsBelow mask k ≤ vals.length := Nat.le_trans (bitsBelow_mono mask (Nat.le_succ k)) h
    rw [List.range_succ, List.filterMap_append, ih hk, bitsBelow]
    cases hbit : mask.testBit k with
    | false => simp [fieldAt, hbit]
    | true =>
      have hlt : bitsBelow mask k < vals.length := Nat.lt_of_lt_of_le (bitsBelow_lt hbit (Nat.lt_succ_self k)) h
      rw [if_pos rfl, List.take_add_one, List.filterMap_cons, fieldAt, if_pos hbit, List.getElem?_eq_getElem hlt]; rfl

theorem fieldAt_isSome {mask n k : Nat} {vals : List Byte} (hlen : vals.length = bitsBelow mask n) (hk : k < n) :
    (fieldAt mask vals k).isSome = mask.testBit k := by
  unfold fieldAt
  cases hbit : mask.testBit k with
  | false => rfl
  | true =>
    have hlt : bitsBelow mask k < vals.length := hlen ▸ bitsBelow_lt hbit hk
    rw [if_pos rfl, List.getElem?_eq_getElem hlt]; rfl

theorem isFlag_iff (b : Byte) : isFlag b = true ↔ b.toNat ≤ 1 := by simp [isFlag]

theorem isDrop_iff (b : Byte) : isDrop b = true ↔ b.toNat ≤ 3 := by simp [isDrop]

theorem isRate_iff (b : Byte) : isRate b = true ↔ b.toNat ≤ 7 := by simp [isRate]

/-! ### The arguments of each operation -/

/-- The operations with no argument. -/
theorem parseRequest_none (args : List Byte) :
    parseRequest 0x01#8 args = (if args = [] then some .readStatus else none)
    ∧ parseRequest 0x06#8 args = (if args = [] then some .readExchanges else none)
    ∧ parseRequest 0x0C#8 args = (if args = [] then some .storeImage else none) := by
  obtain _ | ⟨a, _ | ⟨b, _ | ⟨c, _ | ⟨d, rest⟩⟩⟩⟩ := args <;> exact ⟨rfl, rfl, rfl⟩

/-- The operations with one argument take no other number of them. -/
theorem parseRequest_one {args : List Byte} (h : args.length ≠ 1) :
    ∀ op ∈ [0x02#8, 0x03#8, 0x07#8, 0x08#8, 0x0D#8], parseRequest op args = none := by
  intro op hop
  simp only [List.mem_cons, List.not_mem_nil, or_false] at hop
  obtain _ | ⟨a, _ | ⟨b, _ | ⟨c, _ | ⟨d, rest⟩⟩⟩⟩ := args
  case cons.nil => exact absurd rfl h
  all_goals rcases hop with rfl | rfl | rfl | rfl | rfl <;> rfl

theorem parseRequest_two {args : List Byte} (h : args.length ≠ 2) :
    parseRequest 0x05#8 args = none ∧ parseRequest 0x0A#8 args = none := by
  obtain _ | ⟨a, _ | ⟨b, _ | ⟨c, _ | ⟨d, rest⟩⟩⟩⟩ := args
  case cons.cons.nil => exact absurd rfl h
  all_goals exact ⟨rfl, rfl⟩

theorem parseRequest_three {args : List Byte} (h : args.length ≠ 3) : parseRequest 0x09#8 args = none := by
  obtain _ | ⟨a, _ | ⟨b, _ | ⟨c, _ | ⟨d, rest⟩⟩⟩⟩ := args
  case cons.cons.cons.nil => exact absurd rfl h
  all_goals rfl

theorem parseRequest_station {args : List Byte} (h : args.length < 3) : parseRequest 0x04#8 args = none := by
  obtain _ | ⟨a, _ | ⟨b, _ | ⟨c, rest⟩⟩⟩ := args
  case cons.cons.cons => simp at h; omega
  all_goals rfl

/-- READ DROP (R154). -/
theorem parseRequest_readDrop (a : Byte) :
    parseRequest 0x08#8 [a] = if isDrop a = true then some (.readDrop (dropOf a)) else none := by
  simp [parseRequest, opWriteStation, opWriteSettings, opListStations, opReadStation, opCancelExchange, opReadDrop,
    opRestart]

theorem parseRequest_restart (a : Byte) : parseRequest 0x0D#8 [a]
    = if a = 0x01#8 then some (.restart .warm) else if a = 0x02#8 then some (.restart .reload) else none := by
  simp [parseRequest, opWriteStation, opWriteSettings, opListStations, opReadStation, opCancelExchange, opReadDrop,
    opRestart, RestartKind.code]

theorem parseRequest_removeStation (a b : Byte) :
    parseRequest 0x05#8 [a, b] = if isFlag b = true then some (.removeStation a (flagOf b)) else none := by
  simp [parseRequest, opWriteStation, opWriteSettings, opRemoveStation, opReadCounters]

theorem parseRequest_readCounters (a b : Byte) : parseRequest 0x0A#8 [a, b]
    = if a = 0x04#8 ∧ isFlag b = true then some (.readCounters .trunk (flagOf b))
      else if isDrop a = true ∧ isFlag b = true then some (.readCounters (.drop (dropOf a)) (flagOf b)) else none := by
  simp [parseRequest, opWriteStation, opWriteSettings, opRemoveStation, opReadCounters]

theorem parseRequest_setDrop (a b c : Byte) : parseRequest 0x09#8 [a, b, c] = parseSetDrop a b c := rfl

/-- Settles O39. -/
theorem requestsRead : Obligations.RequestsRead := by
  refine ⟨fun args a b c => ⟨(parseRequest_none args).1, (parseRequest_none args).2.1, (parseRequest_none args).2.2,
    parseRequest_one, rfl, rfl, rfl, fun d hd => ?_, fun ha => ?_, parseRequest_restart a, parseRequest_two, ?_,
    fun hb => ⟨fun d hd => ?_, fun ha => ?_⟩, fun h => ?_, parseRequest_three, fun d hd hb hc => ?_, fun h => ?_,
    parseRequest_station, rfl, ?_, ?_⟩,
    fun mask n vals h => ⟨bitsBelow_eq_length mask n, ?_, fun k hk => fieldAt_isSome h hk⟩,
    fun f g mask vals => ⟨?_, ?_, rfl, rfl⟩⟩
  · have ha : isDrop a = true := (isDrop_iff a).2 (by omega)
    rw [parseRequest_readDrop, if_pos ha, dropOf_eq hd]
  · rw [parseRequest_readDrop, if_neg fun k => absurd ((isDrop_iff a).1 k) (by omega)]
  · rw [parseRequest_removeStation]
    exact if_congr (isFlag_iff b) rfl rfl
  · have ha : a ≠ 0x04#8 := fun k => by rw [k] at hd; have := d.isLt; simp at hd; omega
    rw [parseRequest_readCounters, if_neg fun k => ha k.1, if_pos ⟨(isDrop_iff a).2 (by omega), (isFlag_iff b).2 hb⟩,
      dropOf_eq hd]
    rfl
  · rw [parseRequest_readCounters, if_pos ⟨ha, (isFlag_iff b).2 hb⟩]; rfl
  · rw [parseRequest_readCounters, if_neg, if_neg]
    · rintro ⟨ha, hb⟩
      have := (isDrop_iff a).1 ha; have := (isFlag_iff b).1 hb
      omega
    · rintro ⟨rfl, hb⟩
      have := (isFlag_iff b).1 hb
      exact h.elim (fun k => by omega) (by decide)
  · have hgood : isDrop a ∧ (isFlag b ∨ b = 0xFF#8) ∧ (isRate c ∨ c = 0xFF#8) :=
      ⟨(isDrop_iff a).2 (by omega), hb.imp_left (isFlag_iff b).2, hc.imp_left (isRate_iff c).2⟩
    rw [parseRequest_setDrop, parseSetDrop, if_pos hgood, dropOf_eq hd]
    refine ⟨_, _, rfl, ?_, ?_⟩
    · rw [modeOf]; split_ifs <;> rfl
    · split_ifs with hff
      · rfl
      · have hrate : c.toNat < 8 := by have := hc.resolve_right hff; omega
        have : (rateOf c).val = c.toNat := Nat.mod_eq_of_lt hrate
        simp [this]
  · rw [parseRequest_setDrop, parseSetDrop, if_neg]
    rintro ⟨ha, hb, hc⟩
    obtain h | ⟨h, hff⟩ | ⟨h, hff⟩ := h
    · have := (isDrop_iff a).1 ha; omega
    · have := (isFlag_iff b).1 (hb.resolve_right hff); omega
    · have := (isRate_iff c).1 (hc.resolve_right hff); omega
  · rintro mask f rfl rfl; rfl
  · rintro f rfl; rfl
  · rw [filterMap_fieldAt mask n vals (Nat.le_of_eq h.symm), ← h, List.take_length]
  · simp only [StationFields.codesGood, Bool.and_eq_true, ifGiven_iff, isDrop_iff, isFlag_iff, and_assoc]
  · simp only [SettingsFields.codesGood, Bool.and_eq_true, ifGiven_iff, isRate_iff, isFlag_iff]

/-! ### CANCEL EXCHANGE and SET DROP -/

/-- Where no station has two open exchanges, the record of a station is the one found (R67). -/
theorem State.openFor_eq_some {s : State} {a : Byte} {t : Tag} {e : Exchange} (hlaw : ExchangeLaw s)
    (he : s.exchange t = some e) (ha : e.station = a) : s.openFor a = some t := by
  obtain ⟨u, hu⟩ := Option.isSome_iff_exists.1 (State.openFor_isSome.2 ⟨t, e, he, ha⟩)
  obtain ⟨f, hf, hfa⟩ := State.openFor_some hu
  rw [hu, hlaw t u e f he hf (ha.trans hfa.symm)]

theorem Exchange.inService_iff (e : Exchange) :
    e.inService = true ↔ e.state = .sending ∨ e.state = .awaiting ∨ e.state = .fetching := by
  simp [Exchange.inService, or_assoc]

theorem State.mapExchange_eq {s : State} {t : Tag} {e : Exchange} (he : s.exchange t = some e) (f : Exchange → Exchange) :
    s.mapExchange t f = { s with exchanges := s.exchanges.set t (some (f e)) } := by
  rw [State.mapExchange, he]; rfl

theorem State.cancelExchange_open {s : State} {a : Byte} {t : Tag} {e : Exchange} (hopen : s.openFor a = some t)
    (he : s.exchange t = some e) : s.cancelExchange a =
      if e.inService = true then
        ({ s with exchanges := s.exchanges.set t (some { e with cancelPending := true }) }, .cancelPending)
      else (s.closeExchange t .cancelled, .done) := by
  simp only [State.cancelExchange, hopen, he, State.mapExchange_eq he]
  rfl

section
variable {s : State} {d : DropId} {x : Drop}

theorem State.disableDrop_eq (hx : s.dropUnit d = x) : s.disableDrop d
    = if x.line = .disabled ∨ x.line = .fault ∨ x.line = .sending
      then { s with drops := s.drops.set d { x with mode := .disabled } }
      else State.enterDisabled { s with drops := s.drops.set d { x with mode := .disabled } } d .dropDisabled := by
  have hmap : s.mapDrop d (fun y => { y with mode := .disabled })
      = { s with drops := s.drops.set d { x with mode := .disabled } } := State.mapDrop_eq_withDrop hx _
  have hline : (State.dropUnit { s with drops := s.drops.set d { x with mode := .disabled } } d).line = x.line := by
    simp [State.dropUnit]
  rw [State.disableDrop, hmap]
  simp only [hline]
  cases x.line <;> simp

theorem State.enableDrop_eq (hx : s.dropUnit d = x) : s.enableDrop d
    = if x.line = .disabled then State.enterIdle { s with drops := s.drops.set d { x with mode := .enabled } } d
      else if x.line = .sending then
        match x.serving with
        | some t => State.mapExchange { s with drops := s.drops.set d { x with mode := .enabled } } t
            Exchange.disableWithdrawn
        | none => { s with drops := s.drops.set d { x with mode := .enabled } }
      else { s with drops := s.drops.set d { x with mode := .enabled } } := by
  have hmap : s.mapDrop d (fun y => { y with mode := .enabled })
      = { s with drops := s.drops.set d { x with mode := .enabled } } := State.mapDrop_eq_withDrop hx _
  have hunit : State.dropUnit { s with drops := s.drops.set d { x with mode := .enabled } } d
      = { x with mode := .enabled } := by
    simp [State.dropUnit]
  rw [State.enableDrop, hmap]
  simp only [hunit]
  cases x.line <;> rfl

/-- An exchange with no claim after the disable keeps its claim (R29, log entry 16). -/
theorem Exchange.disableWithdrawn_of_ne {e : Exchange} (h : e.removal ≠ .waitingAfterDisable) :
    e.disableWithdrawn = e := by
  unfold Exchange.disableWithdrawn
  cases hr : e.removal with
  | waitingAfterDisable => exact absurd hr h
  | waiting => rfl
  | none => rfl

theorem State.mapExchange_same {t : Tag} {f : Exchange → Exchange} (h : ∀ e, s.exchange t = some e → f e = e) :
    s.mapExchange t f = s := by
  have hset : s.exchanges.set t ((s.exchange t).map f) = s.exchanges := by
    have hsame : (s.exchange t).map f = s.exchanges[t] := by
      cases he : s.exchange t with
      | none => exact he.symm
      | some e => rw [Option.map_some, h e he]; exact he.symm
    rw [hsame]; exact Vector.set_getElem_self t.isLt
  rw [State.mapExchange, State.putExchange, hset]

end

/-- Settles O40. -/
theorem cancelAndSetDrop : Obligations.CancelAndSetDrop := by
  refine ⟨fun s a => ⟨fun h => ?_, fun hlaw t e he ha => ?_⟩, fun s d x hx => ⟨fun h => ?_, fun h => ?_, fun h => ?_,
    fun hd hs => ?_, fun hs => ⟨fun t e hserving he hr => ?_, fun h => ?_⟩,
    ⟨rfl, fun r => rfl, fun r => rfl, rfl, rfl, fun r => rfl⟩, fun r => ?_⟩⟩
  · have hnone : s.openFor a = none := State.openFor_none.2 h
    rw [State.cancelExchange, hnone]
  · have hopen := State.openFor_eq_some hlaw he ha
    rw [State.cancelExchange_open hopen he]
    refine ⟨fun h => if_neg fun k => ?_, fun h => if_pos (e.inService_iff.2 h)⟩
    rcases e.inService_iff.1 k with k | k | k <;> simp [k] at h
  · rw [State.disableDrop_eq hx, if_pos h]
  · have hunit : State.dropUnit { s with drops := s.drops.set d { x with mode := .disabled } } d
        = { x with mode := .disabled } := by
      simp [State.dropUnit]
    rw [State.disableDrop_eq hx, if_neg (by rcases h with h | h | h | h <;> simp [h]), State.enterDisabled_eq, hunit]
    refine congrArg (fun w => State.closeWork w d .dropDisabled .dropDisabled)
      (State.ext_of_fields rfl rfl rfl rfl ?_ rfl rfl rfl rfl rfl rfl rfl rfl)
    exact Vector.set_set (hi := d.isLt) ..
  · rw [State.enableDrop_eq hx, if_pos h]
  · rw [State.enableDrop_eq hx, if_neg hd, if_neg hs]
  · rw [State.enableDrop_eq hx, if_neg (by simp [hs]), if_pos hs, hserving]
    have he' : State.exchange { s with drops := s.drops.set d { x with mode := .enabled } } t = some e := he
    have hwithdrawn : e.disableWithdrawn = { e with removal := .waiting } := by rw [Exchange.disableWithdrawn, hr]
    simp only [State.mapExchange_eq he', hwithdrawn]
  · rw [State.enableDrop_eq hx, if_neg (by simp [hs]), if_pos hs]
    cases hserving : x.serving with
    | none => rfl
    | some t => exact State.mapExchange_same fun e he => Exchange.disableWithdrawn_of_ne (h t e hserving he)
  · have hmap : s.mapDrop d (fun y => { y with pendingRate := some r })
        = { s with drops := s.drops.set d { x with pendingRate := some r } } := State.mapDrop_eq_withDrop hx _
    have hline : (State.dropUnit { s with drops := s.drops.set d { x with pendingRate := some r } } d).line = x.line := by
      simp [State.dropUnit]
    rw [State.setPendingRate, hmap]
    simp only [hline]
    exact ⟨fun h => if_neg h, fun h => if_pos h⟩

/-! ### WRITE SETTINGS -/

/-- The test of an own address against the table (R52). -/
theorem ownAddressFree_iff (s : State) (f : SettingsFields) :
    (f.ownAddress.all fun a => (s.station a).isNone) = true ↔ ∀ a, f.ownAddress = some a → s.station a = none := by
  cases f.ownAddress <;> simp

/-- The settings after a WRITE SETTINGS that is applied. -/
def State.settingsWritten (s : State) (f : SettingsFields) : State :=
  { s with
    settings := { s.settings with
      refuseUnknown := (f.refuseUnknown.map flagOf).getD s.settings.refuseUnknown
      downThreshold := (f.downThreshold.map BitVec.toNat).getD s.settings.downThreshold
      probeRatio := (f.probeRatio.map BitVec.toNat).getD s.settings.probeRatio
      urgentLimit := (f.urgentLimit.map BitVec.toNat).getD s.settings.urgentLimit }
    mgmt := { s.mgmt with
      pendingAddress := pendingAfter f.ownAddress s.mgmt.pendingAddress s.settings.ownAddress
      pendingRate := pendingAfter (f.trunkRate.map rateOf) s.mgmt.pendingRate s.trunk.rate } }

theorem State.writeSettings_good {s : State} {f : SettingsFields} (hf : f.quantitiesGood = true)
    (hown : ∀ a, f.ownAddress = some a → s.station a = none) : s.writeSettings f = (match f.downThreshold with
      | none => s.settingsWritten f
      | some _ => (s.settingsWritten f).rederiveAll (s.settingsWritten f).settings.downThreshold, .done) := by
  have hgood : (f.quantitiesGood && f.ownAddress.all fun a => (s.station a).isNone) = true :=
    Bool.and_eq_true_iff.2 ⟨hf, (ownAddressFree_iff s f).2 hown⟩
  rw [State.writeSettings, if_pos hgood]
  rfl

theorem pendingAfter_rate {o : Option Byte} {v : Byte} (ho : o = some v) {r : Rate} (hr : r.val = v.toNat)
    (pending : Option Rate) (inForce : Rate) :
    pendingAfter (o.map rateOf) pending inForce = if r = inForce then none else some r := by
  rw [ho, Option.map_some, rateOf_eq hr.symm]; rfl

/-- Settles O41. -/
theorem writeSettingsClaim : Obligations.WriteSettingsClaim := by
  refine fun s f => ⟨?_, fun h => ?_, fun hf hown => ?_⟩
  · simpa only [stationAddress, Bool.and_eq_true, decide_eq_true_eq] using f.quantitiesGood_iff
  · have hbad : ¬ (f.quantitiesGood && f.ownAddress.all fun a => (s.station a).isNone) = true := by
      rw [Bool.and_eq_true, ownAddressFree_iff]
      rintro ⟨hf, hown⟩
      obtain h | ⟨a, ha, hst⟩ := h
      · simp [h] at hf
      · simp [hown a ha] at hst
    exact if_neg hbad
  · rw [State.writeSettings_good hf hown]
    have hrefuse : ∀ v, f.refuseUnknown = some v →
        (f.refuseUnknown.map flagOf).getD s.settings.refuseUnknown = decide (v = 0x01#8) := fun v hv => by rw [hv]; rfl
    have hrefuse' : f.refuseUnknown = none →
        (f.refuseUnknown.map flagOf).getD s.settings.refuseUnknown = s.settings.refuseUnknown := fun hv => by rw [hv]; rfl
    have haddress : f.ownAddress = none →
        pendingAfter f.ownAddress s.mgmt.pendingAddress s.settings.ownAddress = s.mgmt.pendingAddress := fun ha => by
      rw [ha]; rfl
    have haddress' : ∀ a, f.ownAddress = some a →
        pendingAfter f.ownAddress s.mgmt.pendingAddress s.settings.ownAddress
          = if a = s.settings.ownAddress then none else some a := fun a ha => by rw [ha]; rfl
    have hrate : f.trunkRate = none →
        pendingAfter (f.trunkRate.map rateOf) s.mgmt.pendingRate s.trunk.rate = s.mgmt.pendingRate := fun h => by
      rw [h]; rfl
    have hrate' : ∀ v, f.trunkRate = some v → v.toNat ≤ 7 → ∀ r : Rate, r.val = v.toNat →
        pendingAfter (f.trunkRate.map rateOf) s.mgmt.pendingRate s.trunk.rate
          = if r = s.trunk.rate then none else some r := fun v hv _ r hr => pendingAfter_rate hv hr _ _
    refine ⟨_, rfl, ?_⟩
    cases hdown : f.downThreshold with
    | none =>
      exact ⟨rfl, rfl, hrefuse, hrefuse', congrArg (fun o => (Option.map BitVec.toNat o).getD _) hdown, rfl, rfl,
        fun _ => rfl, fun k => absurd rfl k, haddress, haddress', hrate, hrate'⟩
    | some v =>
      exact ⟨rfl, rfl, hrefuse, hrefuse', congrArg (fun o => (Option.map BitVec.toNat o).getD _) hdown, rfl, rfl,
        fun k => absurd k (by simp), fun _ => rfl, haddress, haddress', hrate, hrate'⟩

end Sys2Proof.Machine
end

section
/-! PROOFS. WRITE STATION, REMOVE STATION and the six reads (R47 to R51, R150 to R157, R188). -/

namespace Sys2Proof.Machine

set_option Elab.async false

/-! ### WRITE STATION -/

theorem byte_le_iff (v : Byte) : v = 0x00#8 ∨ (1 ≤ v.toNat ∧ v.toNat ≤ 0xEF) ↔ v.toNat ≤ 0xEF := by
  rw [← BitVec.toNat_inj]
  show v.toNat = 0 ∨ _ ↔ _
  omega

/-- The values a WRITE STATION may hold (R36, R50, R189). -/
theorem StationFields.requestGood_iff (f : StationFields) : f.requestGood = true ↔
    (∀ v, f.aliasAddr = some v → v.toNat ≤ 0xEF) ∧ (∀ v, f.window = some v → 2 ≤ v.toNat)
    ∧ (∀ v, f.retryLimit = some v → v.toNat ≤ 3) ∧ (∀ v, f.fetchInterval = some v → 1 ≤ v.toNat)
    ∧ (∀ v, f.fetchLimit = some v → 1 ≤ v.toNat) ∧ (∀ v, f.miss = some v → v = 0x00#8)
    ∧ (∀ v, f.done = some v → v = 0x00#8) ∧ ∀ v, f.failed = some v → v = 0x00#8 := by
  simp only [StationFields.requestGood, Bool.and_eq_true, f.quantitiesGood_iff, ifGiven_iff, Bool.or_eq_true,
    decide_eq_true_eq, stationAddress, byte_le_iff]
  tauto

theorem State.lineAddressTaken_true {s : State} {st : Station} : s.lineAddressTaken st = true
    ↔ ∃ y ∈ s.stations, y.address ≠ st.address ∧ y.drop = st.drop ∧ y.lineAddress = st.lineAddress := by
  simp [State.lineAddressTaken, and_assoc]

section
variable {s : State} {a : Byte} {f : StationFields}

/-- The address test of a new entry (R47, R52). -/
theorem State.createStation_address (h : stationAddress a = false ∨ a = s.settings.ownAddress
    ∨ s.mgmt.pendingAddress = some a) : s.createStation a f = (s, .badArgument) := by
  unfold State.createStation
  refine if_pos ?_
  simp only [Bool.or_eq_true, Bool.not_eq_true', decide_eq_true_eq]
  tauto

/-- The tests of a new entry after its address, in their order. -/
theorem State.createStation_eq (ha : stationAddress a = true) (hown : a ≠ s.settings.ownAddress)
    (hpending : s.mgmt.pendingAddress ≠ some a) : s.createStation a f =
      if 64 ≤ s.stations.length then (s, .tableFull)
      else if f.drop = none ∨ f.requestGood = false ∨ s.lineAddressTaken (f.applyTo (Station.fresh a 0)) = true then
        (s, .badArgument)
      else if (s.openFor a).isSome = true then (s, .inUse)
      else (s.putStation (f.applyTo (Station.fresh a 0)), .done) := by
  have haddress : ¬ ((!stationAddress a || a = s.settings.ownAddress || s.mgmt.pendingAddress = some a) = true) := by
    simp [ha, hown, hpending]
  unfold State.createStation
  rw [if_neg haddress]
  refine if_congr Iff.rfl rfl ?_
  cases hd : f.drop <;> cases hg : f.requestGood <;> cases hl : s.lineAddressTaken (f.applyTo (Station.fresh a 0)) <;>
    simp [hl]

/-- The fields given in a new entry, the defaults of R36 for the rest (R47). -/
theorem StationFields.applyTo_fresh {st : Station} (hst : st = f.applyTo (Station.fresh a 0)) :
    st.address = a ∧ st.miss = 0 ∧ st.liveness = .present ∧ st.probe = 0 ∧ st.noticePending = false
    ∧ st.done = 0 ∧ st.failed = 0 ∧ (∀ v, f.drop = some v → v.toNat ≤ 3 → st.drop.val = v.toNat)
    ∧ st.aliasAddr = f.aliasAddr.filter (fun v => v ≠ 0x00#8 ∧ v ≠ a)
    ∧ (st.cls = .urgent ↔ f.cls = some 0x01#8) ∧ (st.deferral = true ↔ f.deferral = some 0x01#8)
    ∧ st.window = (f.window.map BitVec.toNat).getD 20 ∧ st.retryLimit = (f.retryLimit.map BitVec.toNat).getD 1
    ∧ st.fetchInterval = (f.fetchInterval.map BitVec.toNat).getD 10
    ∧ st.fetchLimit = (f.fetchLimit.map BitVec.toNat).getD 20 := by
  subst hst
  refine ⟨rfl, rfl, rfl, rfl, rfl, rfl, rfl, fun v hv hle => ?_, ?_, ?_, ?_, rfl, rfl, rfl, rfl⟩
  · have hdrop : (f.applyTo (Station.fresh a 0)).drop = dropOf v := by simp [StationFields.applyTo, hv]
    rw [hdrop]
    exact Nat.mod_eq_of_lt (by omega)
  · cases halias : f.aliasAddr with
    | none => simp [StationFields.applyTo, halias, Station.fresh]
    | some v =>
      by_cases hv : v = 0x00#8 ∨ v = a
      · rcases hv with rfl | rfl <;> simp [StationFields.applyTo, halias, Station.fresh, Option.filter_some]
      · obtain ⟨hzero, hne⟩ := not_or.1 hv
        simp [StationFields.applyTo, halias, Station.fresh, Option.filter_some, hzero, hne]
  · cases hcls : f.cls with
    | none => simp [StationFields.applyTo, hcls, Station.fresh]
    | some v =>
      by_cases hv : v = 0x01#8 <;> simp [StationFields.applyTo, hcls, classOf, hv]
  · cases hdef : f.deferral with
    | none => simp [StationFields.applyTo, hdef, Station.fresh]
    | some v => simp [StationFields.applyTo, hdef, flagOf]

/-- An entry put in where none has its address (R35). -/
theorem State.putStation_shape {st : Station} (hshape : TableShape s) (hnone : s.station st.address = none)
    (hroom : s.stations.length < 64) (ha : stationAddress st.address = true)
    (hline : ∀ y ∈ s.stations, y.address ≠ st.address → y.drop = st.drop → y.lineAddress ≠ st.lineAddress) :
    (s.putStation st).stations.Perm (st :: s.stations) ∧ TableShape (s.putStation st) := by
  have hothers : s.stations.filter (fun y => decide (y.address ≠ st.address)) = s.stations :=
    List.filter_eq_self.2 fun y hy => decide_eq_true (State.station_none.1 hnone y hy)
  have hperm := insertStation_perm st hshape.2.1
  rw [hothers] at hperm
  exact ⟨hperm, TableGood.insert hshape ha (.inl hroom) hline⟩

/-- The tests of a changed entry, in their order (R48, R49). -/
theorem State.changeStation_eq {old : Station} : s.changeStation old f =
    if f.requestGood = false ∨ s.lineAddressTaken (f.applyTo old) = true then (s, .badArgument)
    else if ((f.applyTo old).drop ≠ old.drop ∨ (f.applyTo old).lineAddress ≠ old.lineAddress)
        ∧ s.inUse old.address = true then (s, .inUse)
    else (s.mapStation old.address (fun x => f.clearCounts s.settings.downThreshold (f.applyTo x)), .done) := by
  unfold State.changeStation
  cases hg : f.requestGood <;> cases hl : s.lineAddressTaken (f.applyTo old) <;>
    simp only [hl, Bool.not_true, Bool.not_false, Bool.false_eq_true, if_true, if_false, or_true, or_false,
      reduceCtorEq]
  refine if_congr ?_ rfl rfl
  simp only [Bool.and_eq_true, Bool.or_eq_true, decide_eq_true_eq]

/-- The counts set to 0 (R50). -/
theorem StationFields.clearCounts_eq (n : Nat) (st : Station) : f.clearCounts n st
    = { (if f.miss = none then st else st.setMiss n 0) with
        done := if f.done = none then st.done else 0
        failed := if f.failed = none then st.failed else 0 } := by
  have hcleared : ∀ y : Station, y.done = st.done → y.failed = st.failed →
      (if f.failed.isSome = true then { (if f.done.isSome = true then { y with done := 0 } else y) with failed := 0 }
        else if f.done.isSome = true then { y with done := 0 } else y)
      = { y with
          done := if f.done = none then st.done else 0
          failed := if f.failed = none then st.failed else 0 } := by
    rintro y hdone hfailed
    cases y
    simp only at hdone hfailed
    subst hdone hfailed
    cases f.done <;> cases f.failed <;> rfl
  cases hm : f.miss with
  | none =>
    simp only [StationFields.clearCounts, hm, Option.isSome_none, Bool.false_eq_true, if_false, if_true]
    exact hcleared st rfl rfl
  | some v =>
    have hset := hcleared (st.setMiss n 0) (by rw [Station.setMiss_eq]) (by rw [Station.setMiss_eq])
    simp only [StationFields.clearCounts, hm, Option.isSome_some, if_true, reduceCtorEq, if_false]
    exact hset

theorem StationFields.clearCounts_address (n : Nat) (st : Station) : (f.clearCounts n st).address = st.address := by
  rw [f.clearCounts_eq]
  show (if f.miss = none then st else st.setMiss n 0).address = st.address
  split
  · rfl
  · rw [Station.setMiss_eq]

/-- The fields given in an entry that stands: each masked one takes the value given, and every other stays (R48). -/
theorem StationFields.applyTo_config {old st : Station} (hst : st = f.applyTo old) :
    (∀ v, f.drop = some v → v.toNat ≤ 3 → st.drop.val = v.toNat) ∧ (f.drop = none → st.drop = old.drop)
    ∧ (∀ v, f.aliasAddr = some v → st.aliasAddr = if v = 0x00#8 ∨ v = old.address then none else some v)
    ∧ (f.aliasAddr = none → st.aliasAddr = old.aliasAddr)
    ∧ st = { old with
      drop := st.drop
      aliasAddr := st.aliasAddr
      cls := (f.cls.map (fun v => if v = 0x01#8 then Class.urgent else .routine)).getD old.cls
      window := (f.window.map BitVec.toNat).getD old.window
      retryLimit := (f.retryLimit.map BitVec.toNat).getD old.retryLimit
      deferral := (f.deferral.map (fun v => decide (v = 0x01#8))).getD old.deferral
      fetchInterval := (f.fetchInterval.map BitVec.toNat).getD old.fetchInterval
      fetchLimit := (f.fetchLimit.map BitVec.toNat).getD old.fetchLimit } := by
  subst hst
  refine ⟨fun v hv hle => ?_, fun hd => ?_, fun v hv => ?_, fun hv => ?_, rfl⟩
  · have hdrop : (f.applyTo old).drop = dropOf v := by simp [StationFields.applyTo, hv]
    rw [hdrop]
    exact Nat.mod_eq_of_lt (by omega)
  · simp [StationFields.applyTo, hd]
  · simp [StationFields.applyTo, hv]
  · simp [StationFields.applyTo, hv]

end

/-- Settles O42. -/
theorem stationWritten : Obligations.StationWritten := by
  refine ⟨fun s a f st hnone hst => ?_, fun s a f old st hold hst => ?_, StationFields.requestGood_iff⟩
  · have hwrite : s.writeStation a f = s.createStation a f := by rw [State.writeStation, hnone]
    rw [hwrite]
    have hfields := StationFields.applyTo_fresh hst
    have haddress := hfields.1
    refine ⟨fun h => State.createStation_address h, fun ha hown hpending => ?_⟩
    rw [State.createStation_eq ha hown hpending, ← hst]
    refine ⟨fun h => if_pos h, fun hroom => ?_⟩
    rw [if_neg (Nat.not_le.2 hroom)]
    refine ⟨fun h => if_pos (h.imp_right (Or.imp_right fun k => ?_)), fun hd hg hfree => ?_⟩
    · rw [State.lineAddressTaken_true, haddress]; exact k
    have hline : s.lineAddressTaken st = false := State.lineAddressTaken_false.2 (haddress.symm ▸ hfree)
    rw [if_neg (by simp [hd, hg, hline])]
    refine ⟨fun h => if_pos (State.openFor_isSome.2 h), fun h => ?_⟩
    have hclosed : ¬ (s.openFor a).isSome = true := by simp [State.openFor_none.2 h]
    rw [if_neg hclosed]
    exact ⟨_, rfl, rfl, fun hshape => State.putStation_shape hshape (haddress.symm ▸ hnone) hroom
      (haddress.symm ▸ ha) (haddress.symm ▸ hfree), hfields⟩
  · have holdaddr : old.address = a := (State.station_some hold).1
    have haddress : st.address = a := by rw [hst, (f.applyTo_keeps old).1, holdaddr]
    have hwrite : s.writeStation a f = s.changeStation old f := by rw [State.writeStation, hold]
    have happlied := f.applyTo_config (st := st) hst
    rw [hwrite, State.changeStation_eq, ← hst, holdaddr]
    rw [holdaddr] at happlied
    refine ⟨happlied, fun h => if_pos (h.imp_right fun k => ?_), fun hg hfree => ?_⟩
    · rw [State.lineAddressTaken_true, haddress]; exact k
    · have hline : s.lineAddressTaken st = false := State.lineAddressTaken_false.2 (haddress.symm ▸ hfree)
      rw [if_neg (by simp [hg, hline])]
      refine ⟨fun h hin => if_pos ⟨h, hin⟩, fun h => ?_⟩
      have hkept : ¬ ((st.drop ≠ old.drop ∨ st.lineAddress ≠ old.lineAddress) ∧ s.inUse a = true) := by
        rintro ⟨hmoved, hin⟩
        rcases h with ⟨hd, hl⟩ | h
        · exact hmoved.elim (fun k => k hd) (fun k => k hl)
        · simp [h] at hin
      rw [if_neg hkept]
      have hf : ∀ y, (f.clearCounts s.settings.downThreshold (f.applyTo y)).address = y.address := fun y => by
        rw [f.clearCounts_address, (f.applyTo_keeps y).1]
      refine ⟨_, rfl, rfl, fun b hb => State.station_mapStation_ne s hf hb, ?_⟩
      rw [State.station_mapStation_self s a hf, hold, Option.map_some, ← hst, f.clearCounts_eq]

/-! ### REMOVE STATION -/

section
variable {s : State} {a : Byte}

theorem State.noticeQueued_iff : s.noticeQueued a = true
    ↔ ∃ d : DropId, ∃ it ∈ (s.dropUnit d).queue, it.work = .notice a := by
  simp only [State.noticeQueued, Vector.any_eq_true, List.any_eq_true, decide_eq_true_eq]
  exact ⟨fun ⟨i, hi, h⟩ => ⟨⟨i, hi⟩, h⟩, fun ⟨d, h⟩ => ⟨d.val, d.isLt, h⟩⟩

theorem State.inUse_iff : s.inUse a = true ↔ (∃ t e, s.exchange t = some e ∧ e.station = a)
    ∨ ∃ d : DropId, ∃ it ∈ (s.dropUnit d).queue, it.work = .notice a := by
  rw [State.inUse, Bool.or_eq_true, State.openFor_isSome, State.noticeQueued_iff]

/-- A drop with the notices to an address out of its queue (R157). -/
def Drop.withoutNotices (a : Byte) (x : Drop) : Drop := { x with queue := x.queue.filter (fun it => it.work ≠ .notice a) }

theorem State.release_foldl (l : List Item) (s : State) : l.foldl (fun s it => s.release it.buffer) s
    = { s with pool := l.foldl (fun p it => p.release it.buffer) s.pool } := by
  induction l generalizing s with
  | nil => rfl
  | cons it l ih => exact ih _

theorem State.dropNotices_eq (s : State) (d : DropId) : State.dropNotices a s d = s.withDrop s.now
    (((s.dropUnit d).queue.filter (fun it => it.work = .notice a)).foldl (fun p it => p.release it.buffer) s.pool) d
    ((s.dropUnit d).withoutNotices a) := by
  rw [State.dropNotices, State.release_foldl]
  rfl

/-- The notices of several drops out of their queues, in order. -/
theorem State.dropNotices_foldl (ds : List DropId) (hds : ds.Nodup) (w : State) :
    ds.foldl (State.dropNotices a) w = { w with
      drops := ds.foldl (fun v (d : DropId) => v.set d (v[d].withoutNotices a)) w.drops
      pool := ((ds.flatMap (fun d => (w.dropUnit d).queue)).filter (fun it => it.work = .notice a)).foldl
        (fun p it => p.release it.buffer) w.pool } := by
  induction ds generalizing w with
  | nil => rfl
  | cons d ds ih =>
    obtain ⟨hd, hds⟩ := List.nodup_cons.1 hds
    have hqueues : ds.flatMap (fun c => ((State.dropNotices a w d).dropUnit c).queue)
        = ds.flatMap (fun c => (w.dropUnit c).queue) := by
      refine List.flatMap_congr fun c hc => ?_
      have hne : c ≠ d := fun k => hd (k ▸ hc)
      rw [State.dropNotices_eq]
      exact congrArg Drop.queue (Vector.getElem_set_ne d.isLt c.isLt (fun k => hne (Fin.ext k.symm)))
    rw [List.foldl_cons, ih hds, hqueues, List.flatMap_cons, List.filter_append, List.foldl_append]
    rw [State.dropNotices_eq]
    rfl

theorem foldl_set_eq_map (f : Drop → Drop) (v : Vector Drop 4) :
    (List.finRange 4).foldl (fun (v : Vector Drop 4) (d : DropId) => v.set d (f v[d])) v = v.map f := by
  have hall : List.finRange 4 = [0, 1, 2, 3] := rfl
  ext i hi
  rw [hall]
  interval_cases i <;> simp

theorem State.stationForced_eq {w : State} (hw : s.exchangeForced a = w) : s.stationForced a = { w with
    stations := w.stations.filter (fun y => y.address ≠ a)
    drops := w.drops.map (fun x => { x with queue := x.queue.filter (fun it => it.work ≠ .notice a) })
    pool := (((List.finRange 4).flatMap (fun d => (w.dropUnit d).queue)).filter
      (fun it => it.work = .notice a)).foldl (fun p it => p.release it.buffer) w.pool } := by
  rw [State.stationForced, hw, State.dropNotices_foldl _ (List.nodup_finRange 4), State.eraseStation]
  exact congrArg (fun v => ({ w with
    stations := w.stations.filter (fun y => y.address ≠ a)
    drops := v
    pool := (((List.finRange 4).flatMap (fun d => (w.dropUnit d).queue)).filter
      (fun it => it.work = .notice a)).foldl (fun p it => p.release it.buffer) w.pool } : State))
    (foldl_set_eq_map (Drop.withoutNotices a) w.drops)

theorem State.exchangeForced_none (h : ∀ t e, s.exchange t = some e → e.station ≠ a) : s.exchangeForced a = s := by
  rw [State.exchangeForced, State.openFor_none.2 h]

theorem State.exchangeForced_open {t : Tag} {e : Exchange} (hlaw : ExchangeLaw s) (he : s.exchange t = some e)
    (ha : e.station = a) : s.exchangeForced a = s.forceClose t e := by
  simp only [State.exchangeForced, State.openFor_eq_some hlaw he ha, he]

/-- A station's exchange closed at once, or marked for its EOF (R88, R118). -/
theorem State.forceClose_cases (t : Tag) (e : Exchange) :
    (e.inService = false → s.forceClose t e = s.closeExchange t .removed)
    ∧ (e.inService = true → (s.dropUnit e.drop).line ≠ .sending →
      s.forceClose t e = (s.closeExchange t .removed).mapDrop e.drop (fun x => { x with line := .guard }))
    ∧ (e.inService = true → (s.dropUnit e.drop).line = .sending → s.forceClose t e = { s with
      exchanges := s.exchanges.set t (some { e with
        removal := if e.removal ≠ .none then e.removal
          else if (s.dropUnit e.drop).mode = .disabled then .waitingAfterDisable else .waiting }) }) := by
  unfold State.forceClose
  refine ⟨fun h => if_pos h, fun h hline => ?_, fun h hline => ?_⟩
  · rw [if_neg (by simp [h]), if_neg hline]
  · rw [if_neg (by simp [h]), if_pos hline]
    cases hr : e.removal <;> rfl

/-- A GUARD that a forced removal newly enters is that of the drop that served the exchange, which serves no more. -/
theorem State.exchangeForced_guard {d : DropId} (hlaw : ExchangeLaw s) (hbefore : (s.dropUnit d).line ≠ .guard)
    (hafter : ((s.exchangeForced a).dropUnit d).line = .guard) : ((s.exchangeForced a).dropUnit d).service = none := by
  by_cases hopen : ∀ t e, s.exchange t = some e → e.station ≠ a
  · rw [State.exchangeForced_none hopen] at hafter
    exact absurd hafter hbefore
  obtain ⟨t, e, he, ha⟩ : ∃ t e, s.exchange t = some e ∧ e.station = a := by
    simpa using hopen
  obtain ⟨hout, hidle, hsending⟩ := State.forceClose_cases (s := s) t e
  rw [State.exchangeForced_open hlaw he ha] at hafter ⊢
  cases hin : e.inService with
  | false =>
    rw [hout hin, State.closeExchange_line] at hafter
    exact absurd hafter hbefore
  | true =>
    by_cases hline : (s.dropUnit e.drop).line = .sending
    · rw [hsending hin hline] at hafter
      exact absurd hafter hbefore
    · rw [hidle hin hline] at hafter ⊢
      by_cases hd : d = e.drop
      · rw [hd, State.dropUnit_mapDrop_self]
        exact State.closeExchange_service he hin _
      · rw [State.dropUnit_mapDrop_ne _ _ hd, State.closeExchange_line] at hafter
        exact absurd hafter hbefore

end

/-- Settles O43. -/
theorem stationRemoved : Obligations.StationRemoved := by
  refine ⟨fun s a force => ⟨State.inUse_iff, fun h => ?_, fun st hst hforce => ⟨fun h => ?_, fun h => ?_⟩⟩,
    fun s u w a st hst hlaw hnone hopen hu => ?_⟩
  · rw [State.removeStation_eq, h]
  · simp only [State.removeStation_eq, hst, hforce, h, Bool.false_eq_true, if_false, if_true]
  · simp only [State.removeStation_eq, hst, hforce, h, Bool.false_eq_true, if_false]
    rfl
  · have hw : s.exchangeForced a = w := by
      by_cases h : ∀ t e, s.exchange t = some e → e.station ≠ a
      · rw [State.exchangeForced_none h, hnone h]
      · obtain ⟨t, e, he, ha⟩ : ∃ t e, s.exchange t = some e ∧ e.station = a := by simpa using h
        obtain ⟨hout, hidle, hsending⟩ := State.forceClose_cases (s := s) t e
        obtain ⟨hout', hidle', hsending'⟩ := hopen t e he ha
        rw [State.exchangeForced_open hlaw he ha]
        cases hin : e.inService with
        | false => rw [hout hin, hout' hin]
        | true =>
          by_cases hline : (s.dropUnit e.drop).line = .sending
          · rw [hsending hin hline, hsending' hin hline]
          · rw [hidle hin hline, hidle' hin hline]
    have hforced : s.stationForced a = u := (State.stationForced_eq hw).trans hu.symm
    have hremove : s.removeStation a true
        = (if (s.dropUnit st.drop).line = .guard then u else u.settleGuard st.drop, .done) := by
      simp only [State.removeStation_eq, hst, if_true, hforced]
    have hunit : u.dropUnit st.drop = (w.dropUnit st.drop).withoutNotices a := by
      rw [hu]; exact Vector.getElem_map _ st.drop.isLt
    rw [hremove]
    refine ⟨fun h => ?_, fun hbefore hafter hover => ?_⟩
    · by_cases hg : (s.dropUnit st.drop).line = .guard
      · rw [if_pos hg]
      · rw [if_neg hg, State.settleGuard]
        refine congrArg (·, ResultCode.done) (if_neg ?_)
        rintro ⟨hguard, hover⟩
        rcases h with h | h | h
        · exact hg h
        · exact h hguard
        · exact absurd hover (Nat.not_le.2 h)
    · have hservice : (u.dropUnit st.drop).service = none := by
        rw [hunit]
        rw [hunit] at hafter
        rw [← hw] at hafter ⊢
        exact State.exchangeForced_guard hlaw hbefore hafter
      have hserving : (u.dropUnit st.drop).serving = none := by rw [Drop.serving, hservice]
      rw [if_neg hbefore, State.settleGuard]
      refine congrArg (·, ResultCode.done) ?_
      exact (if_pos ⟨hafter, hover⟩).trans ((u.endGuard_cases st.drop).1 hserving)

/-! ### The reads -/

/-- The addresses a LIST STATIONS looks at (R151). -/
theorem State.addresses_above {s : State} (hshape : TableShape s) (start : Byte) :
    ((s.stations.map Station.address).filter (fun a => start.toNat ≤ a.toNat)).Pairwise (fun a b => a.toNat < b.toNat)
    ∧ ∀ a, a ∈ (s.stations.map Station.address).filter (fun a => start.toNat ≤ a.toNat)
      ↔ (∃ st ∈ s.stations, st.address = a) ∧ start.toNat ≤ a.toNat := by
  obtain ⟨-, hsorted, -, -⟩ := hshape
  exact ⟨List.Pairwise.filter _ (List.pairwise_map.2 hsorted), fun a => by simp⟩

/-- Settles O44. -/
theorem readsAnswered : Obligations.ReadsAnswered := by
  refine ⟨fun s start hshape => ?_, fun s word trunk drop hword htrunk hdrop => ⟨fun clear => ?_, fun d clear => ?_, ?_,
    fun a h => ?_, fun a st h => ?_, ?_, fun d x item hx hitem => ?_⟩, by decide⟩
  · obtain ⟨hsorted, hmem⟩ := State.addresses_above hshape start
    have hsplit := List.take_append_drop 32 ((s.stations.map Station.address).filter (fun a => start.toNat ≤ a.toNat))
    refine ⟨_, _, ?_, List.length_take_le 32 _, fun h => ?_, hsplit.symm ▸ hsorted, fun a => by rw [hsplit]; exact hmem a⟩
    · have hflag : ∀ l : List Byte, boolCode (32 < l.length) = if l.drop 32 = [] then 0x00#8 else 0x01#8 := fun l => by
        by_cases h : l.length ≤ 32
        · rw [if_pos (List.drop_eq_nil_iff.2 h)]; simp [boolCode, h]
        · rw [if_neg fun k => h (List.drop_eq_nil_iff.1 k)]; simp [boolCode, Nat.not_le.1 h]
      rw [← hflag]
      rfl
    · rw [List.length_take]
      have : ¬ ((s.stations.map Station.address).filter (fun a => start.toNat ≤ a.toNat)).length ≤ 32 := fun k =>
        h (List.drop_eq_nil_iff.2 k)
      omega
  · rw [htrunk, hword]; cases clear <;> rfl
  · rw [hdrop, hword]; cases clear <;> rfl
  · rfl
  · simp only [State.carryOut, h]
  · simp only [State.carryOut, h, hword]; rfl
  · refine congrArg (fun l => (s, ResultCode.done, Byte.ofNat s.openCount :: l)) (List.flatMap_congr fun t _ => ?_)
    cases s.exchange t <;> rfl
  · have hdata : s.itemData = item := funext fun it => by
      obtain ⟨hnotice, hexchange⟩ := hitem it
      cases hw : it.work with
      | notice a => rw [hnotice a hw, State.itemData, hw]
      | exchange t => rw [hexchange t hw, State.itemData, hw]
    have hservice : (match x.service with
        | none => [0xFF#8, 0xFF#8, 0xFF#8, 0xFF#8, 0xFF#8]
        | some it => s.itemData it) = (x.service.map item).getD (List.replicate 5 0xFF#8) := by
      rw [hdata]; cases x.service <;> rfl
    simp only [State.carryOut, State.readDropData, hx]
    rw [hdrop, hword, hdata]
    rw [hdata] at hservice
    refine congrArg (fun l => (s, ResultCode.done, l)) ?_
    simp only [List.append_assoc]
    rw [← hservice]
    rfl

end Sys2Proof.Machine
end

section
/-! PROOFS. What RESTART WARM and RESTART RELOAD keep and discard (R97, R98, R140, R165, R166). -/

namespace Sys2Proof.Machine

set_option Elab.async false

/-! ### A drop at a warm restart -/

section
variable (n : Nat) (x : Drop)

theorem Drop.warmSettled_keeps : (x.warmSettled n).mode = x.mode ∧ (x.warmSettled n).counters = x.counters
    ∧ (x.warmSettled n).queue = [] ∧ (x.warmSettled n).service = none ∧ (x.warmSettled n).alternation = .queue
    ∧ (x.warmSettled n).tx = x.tx ∧ (x.warmSettled n).expiryHeld = false := by
  unfold Drop.warmSettled
  split
  · unfold Drop.rateApplied
    split
    · exact ⟨rfl, rfl, rfl, rfl, rfl, rfl, rfl⟩
    · split <;> exact ⟨rfl, rfl, rfl, rfl, rfl, rfl, rfl⟩
  · exact ⟨rfl, rfl, rfl, rfl, rfl, rfl, rfl⟩

variable {x}

/-- A drop in FAULT stays there, with its rates and its marking measure (R97). -/
theorem Drop.warmSettled_fault (h : x.line = .fault) : (x.warmSettled n).line = .fault
    ∧ (x.warmSettled n).marking = x.marking ∧ (x.warmSettled n).rate = x.rate
    ∧ (x.warmSettled n).pendingRate = x.pendingRate ∧ (x.warmSettled n).breakSince = none := by
  have hline : (x.warm n).line = .fault := by simp [Drop.warm, h]
  have hno : ¬ (x.warm n).line = .idle := by rw [hline]; decide
  rw [Drop.warmSettled, if_neg hno]
  exact ⟨hline, rfl, rfl, rfl, if_pos h⟩

theorem Drop.warm_line (h : x.line ≠ .fault) : (x.warm n).line = if x.mode = .enabled then .idle else .disabled := by
  unfold Drop.warm
  cases hline : x.line with
  | fault => exact absurd hline h
  | _ => rfl

theorem Drop.rateApplied_rates : (x.rateApplied n).rate = x.pendingRate.getD x.rate ∧ (x.rateApplied n).pendingRate = none
    ∧ (x.breakSince = none ∨ x.breakSince = some n → (x.rateApplied n).breakSince = x.breakSince) := by
  unfold Drop.rateApplied
  split
  · next h => exact ⟨by rw [h]; rfl, h, fun _ => rfl⟩
  · next r h =>
    split
    · next hr => exact ⟨by rw [h]; exact hr.symm, rfl, fun _ => rfl⟩
    · refine ⟨by rw [h]; rfl, rfl, ?_⟩
      rintro (hb | hb) <;> simp [hb]

/-- An ENABLED drop becomes IDLE and applies its pending rate. -/
theorem Drop.warmSettled_enabled (h : x.line ≠ .fault) (hm : x.mode = .enabled) : (x.warmSettled n).line = .idle
    ∧ (x.warmSettled n).rate = x.pendingRate.getD x.rate ∧ (x.warmSettled n).pendingRate = none
    ∧ (x.warmSettled n).breakSince = if x.rxSpace = true then some n else none := by
  have hline : (x.warm n).line = .idle := by rw [Drop.warm_line n h, if_pos hm]
  have hbreak : (x.warm n).breakSince = if x.rxSpace = true then some n else none := if_neg h
  obtain ⟨hrate, hpending, hkept⟩ := Drop.rateApplied_rates n (x := x.warm n)
  rw [Drop.warmSettled, if_pos hline]
  refine ⟨(Drop.rateApplied_work n (x.warm n)).2.2.1.trans hline, hrate, hpending, ?_⟩
  rw [hkept (hbreak ▸ ?_), hbreak]
  split
  · exact .inr rfl
  · exact .inl rfl

/-- A DISABLED one stays so, its rates as they stood. -/
theorem Drop.warmSettled_disabled (h : x.line ≠ .fault) (hm : x.mode = .disabled) : (x.warmSettled n).line = .disabled
    ∧ (x.warmSettled n).rate = x.rate ∧ (x.warmSettled n).pendingRate = x.pendingRate
    ∧ (x.warmSettled n).breakSince = if x.rxSpace = true then some n else none := by
  have hline : (x.warm n).line = .disabled := by rw [Drop.warm_line n h, if_neg (by rw [hm]; decide)]
  have hno : ¬ (x.warm n).line = .idle := by rw [hline]; decide
  rw [Drop.warmSettled, if_neg hno]
  exact ⟨hline, rfl, rfl, if_neg h⟩

end

/-! ### The restarts in one expression -/

section
variable (s : State) (q : Byte)

/-- The pool after a restart's RESULT took its head (R34). -/
def restartPool (content : List Byte) : Pool := (Pool.cold.taken 0 (List.finRange 40).tail).write 0 content

theorem restartPool_held (content : List Byte) :
    (restartPool content).buffers[(0 : BufId)] = some { content := content, count := 1 }
    ∧ (restartPool content).free = (List.finRange 40).tail := by
  have htaken : (Pool.cold.taken 0 (List.finRange 40).tail).buffers[(0 : BufId)] = some { content := [], count := 1 } := by
    simp [Pool.taken]
  refine ⟨?_, ?_⟩
  · rw [restartPool, Pool.write_held htaken]
    exact Pool.held_buffers_self ..
  · rw [restartPool, Pool.write_free]; rfl

theorem State.noticeRestored_cutOff (x : Transmitter) : s.noticeRestored.cutOff x = s.cutOff x := by
  unfold State.noticeRestored; split <;> rfl

theorem State.noticeRestored_others : s.noticeRestored = { s with stations := s.noticeRestored.stations } := by
  unfold State.noticeRestored; split <;> rfl

/-- Settling drops changes the drops alone. -/
theorem State.foldl_warmDrop_eq (ds : List DropId) (u : State) :
    ds.foldl State.warmDrop u = { u with drops := (ds.foldl State.warmDrop u).drops } := by
  induction ds generalizing u with
  | nil => rfl
  | cons d ds ih =>
    rw [List.foldl_cons, ih (u.warmDrop d)]
    generalize (ds.foldl State.warmDrop (u.warmDrop d)).drops = v
    rw [u.warmDrop_eq_mapDrop d]
    rfl

theorem State.warmed_keeps : s.warmed = { s.noticeRestored.restartCore with drops := s.warmed.drops } :=
  State.foldl_warmDrop_eq _ _

/-- A warm restart in one expression. -/
theorem State.restartWarm_fields : s.restartWarm q = { s with
    pool := (restartPool (frame 0x00#8 s.settings.ownAddress 0x33#8 q [0x00#8, 0x0D#8, 0x01#8])).hold 0
    exchanges := Vector.replicate 16 none
    stations := s.noticeRestored.stations
    drops := s.warmed.drops
    trunk := { s.trunk with keptRate := some s.trunk.rate, rx := Receiver.idle, tx := s.cutOff s.trunk.tx }
    upstream := { urgent := [0], routine := [], notice := none, run := 0, report := s.upstream.report }
    mgmt := { slot := .inFlight q 0 false, pendingAddress := none, pendingRate := none, store := s.mgmt.store } } := by
  have hpool : s.warmed.pool = Pool.cold := by rw [s.warmed_keeps]; rfl
  rw [State.restartWarm_warmed, State.restartResult_eq hpool, ← s.noticeRestored_cutOff]
  have hkeeps := s.warmed_keeps
  generalize s.warmed.drops = ds at hkeeps
  rw [hkeeps]
  have hothers := s.noticeRestored_others
  generalize s.noticeRestored = u at hothers
  generalize u.stations = sts at hothers
  rw [hothers]
  rfl

end

/-! ### What the restarts leave -/

section
variable {s : State}

theorem State.noticeRestored_none (h : ∀ r began, s.trunk.tx ≠ .sending .notice r began) : s.noticeRestored = s := by
  have hnone : s.stateInFlight = none := by
    unfold State.stateInFlight
    split
    · next r began htx => exact absurd htx (h r began)
    all_goals rfl
  rw [State.noticeRestored, hnone]

theorem State.noticeRestored_some {r : Rate} {began : Nat} {c : List Byte} (htx : s.trunk.tx = .sending .notice r began)
    (hc : s.upstream.notice = some c) :
    s.noticeRestored = s.mapStation (byteAt c 5) (fun st => { st with noticePending := true }) := by
  have hsome : s.stateInFlight = some (byteAt c 5) := by rw [State.stateInFlight, htx, hc]; rfl
  rw [State.noticeRestored, hsome]

end

/-- Settles O46. -/
theorem warmRestart : Obligations.WarmRestart := by
  rintro s q t rfl
  have hfields := s.restartWarm_fields q
  obtain ⟨hheld, hfree⟩ := restartPool_held (frame 0x00#8 s.settings.ownAddress 0x33#8 q [0x00#8, 0x0D#8, 0x01#8])
  have hpool := congrArg State.pool hfields
  have hstations := congrArg State.stations hfields
  have hupstream := congrArg State.upstream hfields
  have hmgmt := congrArg State.mgmt hfields
  have htrunk := congrArg State.trunk hfields
  have himage := congrArg State.image hfields
  have hsettings := congrArg State.settings hfields
  have hmemory := congrArg State.memory hfields
  refine ⟨fun k => ?_, ?_, ?_, hupstream, hmgmt, htrunk,
    himage, hsettings, hmemory, fun h => ?_,
    fun r began c htx hc => ?_, fun d x hx => ?_⟩
  case refine_6 =>
    have hunit : (s.restartWarm q).dropUnit d = Drop.warmSettled s.now { x with tx := s.cutOff x.tx } := by
      rw [s.restartWarm_dropUnit, hx]
    rw [hunit]
    obtain ⟨hmode, hcounters, hqueue, hservice, halternation, htx, hheld⟩ :=
      Drop.warmSettled_keeps s.now { x with tx := s.cutOff x.tx }
    refine ⟨hmode, hcounters, hqueue, hservice, halternation, htx, hheld, fun h => ?_, fun h => ?_, fun h => ?_,
      fun h hm => ?_, fun h hm => ?_⟩
    · exact (Drop.warmSettled_fault s.now (x := { x with tx := s.cutOff x.tx }) h).2.2.2.2
    · have hmodes : x.mode = .enabled ∨ x.mode = .disabled := by cases x.mode <;> simp
      obtain hm | hm := hmodes
      · exact (Drop.warmSettled_enabled s.now (x := { x with tx := s.cutOff x.tx }) h hm).2.2.2
      · exact (Drop.warmSettled_disabled s.now (x := { x with tx := s.cutOff x.tx }) h hm).2.2.2
    · obtain ⟨hline, hmarking, hrate, hpending, -⟩ :=
        Drop.warmSettled_fault s.now (x := { x with tx := s.cutOff x.tx }) h
      exact ⟨hline, hmarking, hrate, hpending⟩
    · obtain ⟨hline, hrate, hpending, -⟩ := Drop.warmSettled_enabled s.now (x := { x with tx := s.cutOff x.tx }) h hm
      exact ⟨hline, hrate, hpending⟩
    · obtain ⟨hline, hrate, hpending, -⟩ := Drop.warmSettled_disabled s.now (x := { x with tx := s.cutOff x.tx }) h hm
      exact ⟨hline, hrate, hpending⟩
  · rw [hfields]; exact Vector.getElem_replicate k.isLt
  · rw [hpool, Pool.hold_free]; exact hfree
  · rw [hpool, Pool.hold_held hheld]
    exact Pool.held_buffers_self ..
  · rw [hstations, State.noticeRestored_none h]
  · rw [hstations, State.noticeRestored_some htx hc]; rfl

/-- Settles O47. -/
theorem reload : Obligations.Reload := by
  rintro s q t rfl
  obtain ⟨hheld, hfree⟩ := restartPool_held (frame 0x00#8 s.settings.ownAddress 0x33#8 q [0x00#8, 0x0D#8, 0x02#8])
  have hunit := fun d => s.restartReload_dropUnit q d
  have hfields : s.restartReload q = (s.reloadCore.restartTaken q .reload).queueUp .urgent 0 := by
    rw [State.restartReload_eq, State.restartResult_eq rfl]
  refine ⟨fun k => ?_, rfl, hfree, hheld, rfl, rfl, rfl, rfl, rfl, rfl, (State.flt_iff _).2 fun d => ?_, rfl,
    fun d x hx => ?_⟩
  · rw [hfields]; exact Vector.getElem_replicate k.isLt
  · rw [hunit]; exact LineState.noConfusion
  · rw [hunit, hx]; rfl

end Sys2Proof.Machine
end

section
/-! PROOFS. The load: its header, its records and its end (R171 to R180, R190). -/

namespace Sys2Proof.Machine

set_option Elab.async false

/-! ### The header and the records stepped over -/

section
variable {s : State} {l : Load}

theorem exec_loadHeaderRead {m0 m1 v n1 n0 : Byte} (hc : s.image.config = .loading) (hl : s.image.load = some l)
    (hp : l.phase = .header) :
    exec (.loadHeaderRead m0 m1 v n1 n0) s = .next (s.judgeHeader l [m0, m1, v, n1, n0]) := by
  show Host.Outcome.next _ = _
  rw [hc, hl]
  exact congrArg Host.Outcome.next (if_pos hp)

/-- A record that stops the records is read up to the records length (R176). -/
theorem State.stopRecords_eq {bs : List Byte} (h : l.left ≤ bs.length) : s.stopRecords l bs = s.putLoad { l with
    phase := .check, position := l.position + l.left, left := 0, check := checkBytes l.check (bs.take l.left) } := by
  have hlen : (bs.take l.left).length = l.left := List.length_take_of_le h
  rw [State.stopRecords, Load.read, hlen, Nat.sub_self]

/-- A record that would run beyond the records length is truncated (R176). -/
theorem State.takeRecord_of_over {fields : List Byte} (hl : s.recordLoad = some l) (hleft : l.left ≠ 0)
    (hover : l.left < fields.length + 2) (type : Byte) (act : State → Load → State) :
    s.takeRecord type fields act = s.skipRecord.putLoad { l with
      phase := .check, position := l.position + l.left, left := 0
      check := checkBytes l.check ((type :: Byte.ofNat fields.length :: fields).take l.left) } := by
  have hlong : l.left < (type :: Byte.ofNat fields.length :: fields).length := hover
  rw [← State.stopRecords_eq (Nat.le_of_lt hlong)]
  simp only [State.takeRecord, hl, if_neg hleft, if_pos hlong]

theorem exec_endRecord (hl : s.recordLoad = some l) (fields : List Byte) : exec (.endRecord fields) s
    = .next ((if l.left = 1 then s.skipRecord else s).stopRecords l (0x5E#8 :: fields)) := by
  show Host.Outcome.next _ = _
  rw [hl]
  rfl

/-- A record within the length, of the kinds that a load acts on. -/
theorem exec_record (hl : s.recordLoad = some l) {fields : List Byte} (hfit : fields.length + 2 ≤ l.left) :
    exec (.settingsRecord fields) s = .next (State.actSettings fields
      (s.putLoad (l.read (0x51#8 :: Byte.ofNat fields.length :: fields)))
      (l.read (0x51#8 :: Byte.ofNat fields.length :: fields)))
    ∧ exec (.stationRecord fields) s = .next (State.actStation fields
      (s.putLoad (l.read (0x53#8 :: Byte.ofNat fields.length :: fields)))
      (l.read (0x53#8 :: Byte.ofNat fields.length :: fields)))
    ∧ ∀ type, exec (.unknownRecord type fields) s
      = .next (s.putLoad (l.read (type :: Byte.ofNat fields.length :: fields))).skipRecord :=
  ⟨congrArg Host.Outcome.next (State.takeRecord_of_fits hl hfit typeSettings (State.actSettings fields)),
    congrArg Host.Outcome.next (State.takeRecord_of_fits hl hfit typeStation (State.actStation fields)),
    fun type => congrArg Host.Outcome.next (State.takeRecord_of_fits hl hfit type fun s _ => s.skipRecord)⟩

theorem State.judgeStation_short {fields : List Byte} (h : fields.length ≤ 1) : s.judgeStation l fields = none := by
  obtain _ | ⟨a, _ | ⟨b, rest⟩⟩ := fields
  · rfl
  · rfl
  · simp at h

end

/-- Settles O48. -/
theorem loadReads_hold : Obligations.LoadReads := by
  refine ⟨fun s l m0 m1 v n1 n0 hc hl hp => ⟨fun h0 h1 hv hn => ?_, fun h => ?_⟩,
    fun s l i type fields hl => ⟨fun hi hleft hover => ?_, fun hfit => (exec_record hl hfit).2.2 type, fun hleft hlen => ?_,
      fun htwo hlen => ?_⟩,
    fun s l hl => ⟨fun hleft => ?_, fun hleft => ?_, fun htwo => (exec_record (fields := []) hl htwo).1, fun fields hlen hfit => ?_⟩⟩
  · rw [exec_loadHeaderRead hc hl hp, State.judgeHeader]
    exact congrArg Host.Outcome.next (if_pos ⟨h0, h1, hv, hn⟩)
  · rw [exec_loadHeaderRead hc hl hp, State.judgeHeader]
    refine congrArg Host.Outcome.next (if_neg ?_)
    rintro ⟨h0, h1, hv, hn⟩
    rcases h with h | h | h | h
    · exact h h0
    · exact h h1
    · exact h hv
    · exact absurd hn (Nat.not_le.2 h)
  · rcases hi with ⟨rfl, rfl⟩ | ⟨rfl, rfl⟩ | ⟨rfl, rfl⟩ | rfl <;>
      exact congrArg Host.Outcome.next (State.takeRecord_of_over hl hleft hover _ _)
  · have htake : fields.take l.left = fields := List.take_of_length_le (Nat.le_of_eq hlen)
    have hstop := State.stopRecords_eq (s := s.skipRecord) (Nat.le_of_eq hlen.symm)
    rw [htake] at hstop
    show Host.Outcome.next _ = _
    rw [hl]
    simp only [if_neg hleft, hstop]
    rfl
  · have hbytes : (0x5E#8 :: fields).length = l.left := hlen
    have hstop := State.stopRecords_eq (s := s) (Nat.le_of_eq hbytes.symm)
    rw [List.take_of_length_le (Nat.le_of_eq hbytes)] at hstop
    rw [exec_endRecord hl, if_neg (by omega), hstop]
    rfl
  · have hstop := State.stopRecords_eq (s := s.skipRecord) (l := l) (bs := [0x5E#8]) (Nat.le_of_eq hleft)
    rw [hleft] at hstop
    rw [exec_endRecord hl, if_pos hleft, hstop]
    rfl
  · have hstop := State.stopRecords_eq (s := s) (l := l) (bs := [0x5E#8]) (by omega)
    rw [exec_endRecord hl, if_neg (by omega), hstop]
    cases l
    simp only at hleft
    subst hleft
    rfl
  · rw [(exec_record hl hfit).2.1, State.actStation, State.judgeStation_short hlen]
    rfl

/-! ### SETTINGS and STATION records -/

/-- The values a STATION record may hold (R36, R178, R189). -/
theorem StationFields.recordGood_iff (f : StationFields) : f.recordGood = true ↔
    (∀ v, f.drop = some v → v.toNat ≤ 3) ∧ (∀ v, f.cls = some v → v.toNat ≤ 1)
    ∧ (∀ v, f.deferral = some v → v.toNat ≤ 1)
    ∧ (∀ v, f.aliasAddr = some v → 1 ≤ v.toNat ∧ v.toNat ≤ 0xEF) ∧ (∀ v, f.window = some v → 2 ≤ v.toNat)
    ∧ (∀ v, f.retryLimit = some v → v.toNat ≤ 3) ∧ (∀ v, f.fetchInterval = some v → 1 ≤ v.toNat)
    ∧ ∀ v, f.fetchLimit = some v → 1 ≤ v.toNat := by
  simp only [StationFields.recordGood, StationFields.codesGood, Bool.and_eq_true, f.quantitiesGood_iff, ifGiven_iff,
    isDrop_iff, isFlag_iff, stationAddress, decide_eq_true_eq]
  tauto

/-- A field staged: the later value in place of the earlier one (R177). -/
theorem staged_or {α β : Type} {o : Option Byte} {g : Option α} {f : Byte → α} {out : α → β} {read : Byte → β}
    (h : ∀ v, o = some v → out (f v) = read v) :
    ((o.map f).or g).map out = if o = none then g.map out else o.map read := by
  cases o with
  | none => rfl
  | some v => simp [h v rfl]

theorem staged_merge_eq (g : Staged) (h : SettingsFields) (hcodes : h.codesGood = true) :
    (g.merge h).ownAddress = (if h.ownAddress = none then g.ownAddress else h.ownAddress)
    ∧ (g.merge h).trunkRate.map (fun r => r.val)
      = (if h.trunkRate = none then g.trunkRate.map (fun r => r.val) else h.trunkRate.map BitVec.toNat)
    ∧ (g.merge h).refuseUnknown
      = (if h.refuseUnknown = none then g.refuseUnknown else h.refuseUnknown.map (fun v => decide (v = 0x01#8)))
    ∧ (g.merge h).downThreshold
      = (if h.downThreshold = none then g.downThreshold else h.downThreshold.map BitVec.toNat)
    ∧ (g.merge h).probeRatio = (if h.probeRatio = none then g.probeRatio else h.probeRatio.map BitVec.toNat)
    ∧ (g.merge h).urgentLimit = if h.urgentLimit = none then g.urgentLimit else h.urgentLimit.map BitVec.toNat := by
  have hrate : ∀ v, h.trunkRate = some v → v.toNat ≤ 7 := by
    simp only [SettingsFields.codesGood, Bool.and_eq_true, ifGiven_iff, isRate_iff] at hcodes
    exact hcodes.1
  refine ⟨?_, staged_or fun v hv => ?_, ?_, ?_, ?_, ?_⟩
  · show h.ownAddress.or g.ownAddress = _
    cases h.ownAddress <;> rfl
  · have := hrate v hv
    exact Nat.mod_eq_of_lt (by omega)
  · show (h.refuseUnknown.map flagOf).or g.refuseUnknown = _
    cases h.refuseUnknown <;> rfl
  · show (h.downThreshold.map BitVec.toNat).or g.downThreshold = _
    cases h.downThreshold <;> rfl
  · show (h.probeRatio.map BitVec.toNat).or g.probeRatio = _
    cases h.probeRatio <;> rfl
  · show (h.urgentLimit.map BitVec.toNat).or g.urgentLimit = _
    cases h.urgentLimit <;> rfl

section
variable {s : State} {mask a : Byte} {vals : List Byte}

/-- A SETTINGS record judged whole (R177). -/
theorem State.judgeSettings_cases {f : SettingsFields} (hf : f = settingsFields mask.toNat vals) :
    (64 ≤ mask.toNat ∨ vals.length ≠ bitsBelow mask.toNat 6 ∨ f.codesGood = false ∨ f.quantitiesGood = false
        ∨ (∃ a, f.ownAddress = some a ∧ (s.station a).isSome) → s.judgeSettings (mask :: vals) = none)
    ∧ (mask.toNat < 64 → vals.length = bitsBelow mask.toNat 6 → f.codesGood = true → f.quantitiesGood = true →
      (∀ a, f.ownAddress = some a → s.station a = none) → s.judgeSettings (mask :: vals) = some f) := by
  subst hf
  refine ⟨fun h => if_neg ?_, fun hm hv hc hq hown => if_pos ⟨hm, hv, hc, hq, (ownAddressFree_iff s _).2 hown⟩⟩
  rintro ⟨hm, hv, hc, hq, hown⟩
  rcases h with h | h | h | h | ⟨a, ha, hst⟩
  · omega
  · exact h hv
  · simp [h] at hc
  · simp [h] at hq
  · rw [(ownAddressFree_iff s _).1 hown a ha] at hst
    exact absurd hst (by decide)

/-- A STATION record judged against the table as loaded so far (R178). -/
theorem State.judgeStation_cases {l : Load} {f : StationFields} {st : Station} (hf : f = stationFields mask.toNat vals)
    (hst : st = f.applyTo (Station.fresh a 0)) :
    (vals.length ≠ bitsBelow mask.toNat 8 ∨ stationAddress a = false ∨ a = s.settings.ownAddress
        ∨ l.staged.ownAddress = some a ∨ f.drop = none ∨ f.recordGood = false
        ∨ (64 ≤ s.stations.length ∧ s.station a = none)
        ∨ (∃ y ∈ s.stations, y.address ≠ a ∧ y.drop = st.drop ∧ y.lineAddress = st.lineAddress) →
      s.judgeStation l (a :: mask :: vals) = none)
    ∧ (vals.length = bitsBelow mask.toNat 8 → stationAddress a = true → a ≠ s.settings.ownAddress →
      l.staged.ownAddress ≠ some a → f.drop ≠ none → f.recordGood = true →
      (s.stations.length < 64 ∨ (s.station a).isSome) →
      (∀ y ∈ s.stations, y.address ≠ a → y.drop = st.drop → y.lineAddress ≠ st.lineAddress) →
      s.judgeStation l (a :: mask :: vals) = some st) := by
  have haddress : st.address = a := by rw [hst]; exact (f.applyTo_keeps _).1
  subst hf hst
  refine ⟨fun h => if_neg ?_, fun hv ha hown hstaged hd hg hroom hfree => if_pos ⟨hv, ha, hown, hstaged,
    Option.isSome_iff_ne_none.2 hd, hg, hroom, State.lineAddressTaken_false.2 (haddress.symm ▸ hfree)⟩⟩
  rintro ⟨hv, ha, hown, hstaged, hd, hg, hroom, hfree⟩
  rcases h with h | h | h | h | h | h | ⟨hlen, hnone⟩ | ⟨y, hy, hne, hdrop, hline⟩
  · exact h hv
  · simp [h] at ha
  · exact hown h
  · exact hstaged h
  · simp [h] at hd
  · simp [h] at hg
  · rcases hroom with hroom | hroom
    · exact absurd hroom (Nat.not_lt.2 hlen)
    · simp [hnone] at hroom
  · exact State.lineAddressTaken_false.1 hfree y hy (haddress.symm ▸ hne) hdrop hline

end

/-- Settles O50. -/
theorem recordsJudged : Obligations.RecordsJudged := by
  refine ⟨fun s l l' mask vals f hl hfit hf hl' => ⟨fun h => ?_, fun hm hv hc hq hown => ?_⟩,
    fun s l l' a mask vals f st hl hfit hf hst hl' => ⟨fun h => ?_, fun hv ha hown hstaged hd hg hroom hfree => ?_⟩,
    fun f g h => ⟨f.recordGood_iff, fun hc => staged_merge_eq g h hc⟩⟩
  · have hjudge := (State.judgeSettings_cases (s := s.putLoad l') hf).1 h
    have hread : l.read (0x51#8 :: Byte.ofNat (mask :: vals).length :: mask :: vals) = l' := by rw [hl']; rfl
    rw [(exec_record (fields := mask :: vals) hl hfit).1, hread, State.actSettings, hjudge]
    rfl
  · have hjudge := (State.judgeSettings_cases (s := s.putLoad l') hf).2 hm hv hc hq hown
    have hread : l.read (0x51#8 :: Byte.ofNat (mask :: vals).length :: mask :: vals) = l' := by rw [hl']; rfl
    rw [(exec_record (fields := mask :: vals) hl hfit).1, hread, State.actSettings, hjudge, hl']
    rfl
  · have hstaged : l'.staged = l.staged := by rw [hl']
    have hjudge := (State.judgeStation_cases (s := s.putLoad l') (l := l') hf hst).1 (hstaged ▸ h)
    have hread : l.read (0x53#8 :: Byte.ofNat (a :: mask :: vals).length :: a :: mask :: vals) = l' := by rw [hl']; rfl
    rw [(exec_record (fields := a :: mask :: vals) hl hfit).2.1, hread, State.actStation, hjudge]
    rfl
  · have hkept : l'.staged = l.staged := by rw [hl']
    have hjudge := (State.judgeStation_cases (s := s.putLoad l') (l := l') hf hst).2 hv ha hown (hkept ▸ hstaged) hd hg
      hroom hfree
    have hread : l.read (0x53#8 :: Byte.ofNat (a :: mask :: vals).length :: a :: mask :: vals) = l' := by rw [hl']; rfl
    have haddress : st.address = a := by rw [hst]; exact (f.applyTo_keeps _).1
    refine ⟨(s.putLoad l').putStation st, ?_, rfl, fun hshape => ⟨?_, ?_⟩⟩
    · rw [(exec_record (fields := a :: mask :: vals) hl hfit).2.1, hread, State.actStation, hjudge]
    · have hperm := insertStation_perm st hshape.2.1
      rw [haddress] at hperm
      exact hperm
    · refine TableGood.insert hshape (haddress.symm ▸ ha) (hroom.imp_right fun h => ?_) (haddress.symm ▸ hfree)
      obtain ⟨y, hy⟩ := Option.isSome_iff_exists.1 h
      exact ⟨y, (State.station_some hy).2, (State.station_some hy).1.trans haddress.symm⟩

/-! ### The end of a load -/

/-- A drop that enters IDLE with no frame begun and nothing to choose (R3, R78). -/
def Drop.idled (n : Nat) (x : Drop) : Drop :=
  if x.pendingRate = none ∨ x.pendingRate = some x.rate then { x with line := .idle, pendingRate := none }
  else { x with
    line := .idle, rate := x.pendingRate.getD x.rate, pendingRate := none, rx := Receiver.emptied .hunt, lastChar := n
    breakSince := x.breakSince.map (fun _ => n) }

/-- A drop whose break measure starts at a time if its line is at space (R98). -/
def Drop.measured (n : Nat) (x : Drop) : Drop := { x with breakSince := if x.rxSpace = true then some n else none }

/-- A drop released at the end of a load (R98, R180). -/
def Drop.released (n : Nat) (x : Drop) : Drop := if x.mode = .enabled then (x.measured n).idled n else x.measured n

/-- What a drop waits with while the load runs (R171). -/
def Drop.Waits (x : Drop) : Prop := x.queue = [] ∧ x.rx.state ≠ .assemble

section
variable {s : State} {d : DropId} {x : Drop}

/-- With no exchange open and no queue an IDLE drop chooses nothing. -/
theorem State.chooseWork_nothing (hexch : ∀ t, s.exchange t = none) (hq : (s.dropUnit d).queue = []) :
    s.chooseWork d = s := by
  have hnone : s.fetchCandidate d = none := by
    have hold := s.fetchCandidate_oldest d
    cases hc : s.fetchCandidate d with
    | none => rfl
    | some t =>
      rw [hc] at hold
      obtain ⟨-, n, ⟨e, he, -⟩, -⟩ := hold
      rw [hexch t] at he
      cases he
  obtain ⟨hbusy, hidle⟩ := State.chooseWork_cases (s := s) (d := d) rfl
  by_cases h : (s.dropUnit d).line = .idle ∧ (s.dropUnit d).tx = .idle
  · exact (hidle h.1 h.2).1 hnone hq
  · exact hbusy (by tauto)

theorem State.enterIdle_waiting (hexch : ∀ t, s.exchange t = none) (hx : s.dropUnit d = x) (hw : x.Waits) :
    s.enterIdle d = s.withDrop s.now s.pool d (x.idled s.now) := by
  obtain ⟨hq, hrx⟩ := hw
  have hchoose : ∀ y : Drop, y.queue = x.queue →
      (s.withDrop s.now s.pool d y).chooseWork d = s.withDrop s.now s.pool d y := fun y hy =>
    State.chooseWork_nothing hexch ((congrArg Drop.queue (State.withDrop_dropUnit ..)).trans (hy.trans hq))
  unfold Drop.idled
  by_cases hp : x.pendingRate = none ∨ x.pendingRate = some x.rate
  · rw [if_pos hp, State.enterIdle_kept hx hp]
    exact hchoose _ rfl
  · obtain ⟨r, hr⟩ := Option.ne_none_iff_exists'.1 (not_or.1 hp).1
    have hne : r ≠ x.rate := fun k => hp (.inr (k ▸ hr))
    rw [if_neg hp, State.enterIdle_changed hx hr hne,
      State.withDrop_holdReceiver_outside (y := { x with line := .idle }) hrx, State.withDrop_mapDrop, hr]
    exact hchoose _ rfl

theorem State.releaseDrop_waiting (hexch : ∀ t, s.exchange t = none) (hx : s.dropUnit d = x) (hw : x.Waits) :
    s.releaseDrop d = s.withDrop s.now s.pool d (x.released s.now) := by
  have hmeasured : s.mapDrop d (Drop.measured s.now) = s.withDrop s.now s.pool d (x.measured s.now) :=
    State.mapDrop_eq_withDrop hx _
  have hunit : (s.withDrop s.now s.pool d (x.measured s.now)).dropUnit d = x.measured s.now := State.withDrop_dropUnit ..
  have hwaits : (x.measured s.now).Waits := hw
  have hrelease : s.releaseDrop d = if ((s.mapDrop d (Drop.measured s.now)).dropUnit d).mode = .enabled
      then (s.mapDrop d (Drop.measured s.now)).enterIdle d else s.mapDrop d (Drop.measured s.now) := rfl
  have hmode : (x.measured s.now).mode = x.mode := rfl
  rw [hrelease, hmeasured, hunit, hmode, Drop.released]
  split
  · rw [State.enterIdle_waiting (s := s.withDrop s.now s.pool d (x.measured s.now)) hexch hunit hwaits]
    exact (State.mapDrop_eq_withDrop hunit (Drop.idled s.now)).symm.trans (State.withDrop_mapDrop ..)
  · rfl

theorem State.releaseDrops_waiting (ds : List DropId) (hds : ds.Nodup) (s : State) (hexch : ∀ t, s.exchange t = none)
    (hwaits : ∀ d ∈ ds, (s.dropUnit d).Waits) : ds.foldl State.releaseDrop s
      = { s with drops := ds.foldl (fun v (d : DropId) => v.set d (v[d].released s.now)) s.drops } := by
  induction ds generalizing s with
  | nil => rfl
  | cons d ds ih =>
    obtain ⟨hd, hds⟩ := List.nodup_cons.1 hds
    have hstep := State.releaseDrop_waiting hexch rfl (hwaits d List.mem_cons_self)
    have hothers : ∀ c ∈ ds, ((s.releaseDrop d).dropUnit c).Waits := fun c hc => by
      rw [State.releaseDrop_dropUnit_ne s fun k : c = d => hd (k ▸ hc)]
      exact hwaits c (List.mem_cons_of_mem d hc)
    rw [hstep] at hothers
    rw [List.foldl_cons, hstep, ih hds (s.withDrop s.now s.pool d ((s.dropUnit d).released s.now)) hexch hothers]
    rfl

/-- READY entered from a load with no work: every drop released, and nothing else (R180). -/
theorem State.finishLoad_waiting (r : LoadResult) (hexch : ∀ t, s.exchange t = none)
    (hwaits : ∀ d, (s.dropUnit d).Waits) : s.finishLoad r = { s with
      image := { s.image with config := .ready, result := r, load := none }, drops := s.drops.map (Drop.released s.now) } := by
  rw [State.finishLoad_eq, State.releaseDrops_waiting _ (List.nodup_finRange 4) (s.loadEnded r) hexch fun d _ => hwaits d]
  exact congrArg (fun v => ({ s with
    image := { s.image with config := .ready, result := r, load := none }, drops := v } : State))
    (foldl_set_eq_map (Drop.released s.now) s.drops)

theorem Drop.released_cases (n : Nat) (x : Drop) : (x.released n).mode = x.mode
    ∧ (x.released n).breakSince = (if x.rxSpace = true then some n else none)
    ∧ (x.mode = .enabled → (x.released n).line = .idle ∧ (x.released n).rate = x.pendingRate.getD x.rate
      ∧ (x.released n).pendingRate = none)
    ∧ (x.mode = .disabled → x.released n = x.measured n) := by
  unfold Drop.released
  by_cases hm : x.mode = .enabled
  · rw [if_pos hm]
    have hrate : x.pendingRate = none ∨ x.pendingRate = some x.rate → x.rate = x.pendingRate.getD x.rate := by
      rintro (h | h) <;> rw [h] <;> rfl
    unfold Drop.idled
    split
    · next hp => exact ⟨rfl, rfl, fun _ => ⟨rfl, hrate hp, rfl⟩, fun k => absurd (hm.symm.trans k) (by decide)⟩
    · refine ⟨rfl, ?_, fun _ => ⟨rfl, rfl, rfl⟩, fun k => absurd (hm.symm.trans k) (by decide)⟩
      show (if x.rxSpace = true then some n else none).map (fun _ => n) = _
      split <;> rfl
  · rw [if_neg hm]
    exact ⟨rfl, rfl, fun k => absurd k hm, fun _ => rfl⟩

end

/-- The check read at the end of a load (R176, R180). -/
theorem exec_loadEnd {s : State} {l : Load} (hc : s.image.config = .loading) (hl : s.image.load = some l)
    (hp : l.phase = .check ∨ (l.phase = .records ∧ l.left = 0)) (high low : Byte) : exec (.loadEnd high low) s
      = .next (if l.check = high ++ low then s.succeedLoad l.staged else s.failLoad .badImage) := by
  have hcheck : l.check.high = high ∧ l.check.low = low ↔ l.check = high ++ low := by
    refine ⟨fun ⟨h1, h2⟩ => ?_, fun h => by rw [h, Word16.high_append, Word16.low_append]; exact ⟨rfl, rfl⟩⟩
    rw [← h1, ← h2, Word16.append_high_low]
  rw [exec_eq, State.after, State.checkRead, hc, hl]
  simp only [if_pos hp, State.judgeCheck]
  exact congrArg Host.Outcome.next (if_congr hcheck rfl rfl)

/-- Settles O51. -/
theorem loadEnds : Obligations.LoadEnds := by
  refine ⟨fun s l high low g hc hl hp hg => ⟨fun h => ?_, fun h => ?_⟩, fun s r hc hlaw => ⟨?_, ?_⟩⟩
  · have hrederived : ∀ (n : Nat) (st : Station), st.rederive n = st.setMiss n st.miss := fun n st => rfl
    obtain ⟨-, hstations, -, -, -, hsettings, -⟩ :=
      State.trunkRateDue_keeps (s.stagedInForce g) (g.trunkRate.getD s.trunk.rate)
    refine ⟨(s.stagedInForce g).trunkRateDue (g.trunkRate.getD s.trunk.rate), ?_, ?_, ?_, ?_⟩
    · rw [exec_loadEnd hc hl hp, if_pos h, hg]; rfl
    · rw [hsettings, hstations]; rfl
    · rw [hsettings]; rfl
    · rw [hsettings, hstations]; rfl
  · rw [exec_loadEnd hc hl hp, if_neg h]
  · obtain ⟨hexch, hdrops⟩ := hlaw hc
    have hwaits : ∀ d, (s.dropUnit d).Waits := fun d => (hdrops d).2
    have hfinish := State.finishLoad_waiting r hexch hwaits
    refine ⟨s.finishLoad r, rfl, ?_, ?_, fun d x hx => ?_⟩
    · rw [hfinish]; rfl
    · rw [hfinish]
    · have hunit : (s.finishLoad r).dropUnit d = x.released s.now := by
        rw [hfinish, ← hx]; exact Vector.getElem_map _ d.isLt
      rw [hunit]
      exact Drop.released_cases s.now x
  · obtain ⟨hexch, hdrops⟩ := hlaw hc
    have hwaits : ∀ d, (s.loadReverted.dropUnit d).Waits := fun d => by
      rw [State.loadReverted_dropUnit]; exact (hdrops d).2
    rw [State.failLoad_eq, State.finishLoad_waiting (s := s.loadReverted) r hexch hwaits]
    refine State.ext_of_fields rfl rfl rfl rfl ?_ rfl rfl rfl rfl rfl rfl rfl rfl
    have hreverted : s.loadReverted.drops = s.drops.map (fun (x : Drop) => { x with mode := .disabled, pendingRate := none }) :=
      rfl
    rw [hreverted, Vector.map_map]
    exact Vector.map_congr_left fun x _ =>
      (Drop.released_cases s.now { x with mode := .disabled, pendingRate := none }).2.2.2 rfl

end Sys2Proof.Machine
end

section
/-! PROOFS. The wires of the memory port, and its polling (R169, R170). -/

namespace Sys2Proof.Machine

set_option Elab.async false

/-! ### The levels of a byte -/

/-- MSDA does not change between two moments at which MSCL is high. -/
def PortLevels.Steady (p q : PortLevels) : Prop := p.mscl = true → q.mscl = true → p.msda = q.msda

theorem clocks_steady (bits : List Bool) : (bits.flatMap clockLevels ++ [(⟨false, true⟩ : PortLevels)]).IsChain PortLevels.Steady := by
  induction bits with
  | nil => exact List.isChain_singleton _
  | cons x bits ih =>
    have hlow : ∀ (p : PortLevels), p.mscl = false → ∀ q, PortLevels.Steady p q := fun p hp q h => by
      rw [hp] at h; cases h
    have hnext : ∀ q, q.mscl = false → ∀ p, PortLevels.Steady p q := fun q hq p _ h => by
      rw [hq] at h; cases h
    obtain ⟨y, rest, hrest⟩ : ∃ y rest, bits.flatMap clockLevels ++ [⟨false, true⟩] = y :: rest := by
      cases bits with
      | nil => exact ⟨_, _, rfl⟩
      | cons z bits => exact ⟨_, _, rfl⟩
    rw [hrest] at ih
    show ((⟨false, x⟩ :: ⟨true, x⟩ :: ⟨false, x⟩ :: (bits.flatMap clockLevels ++ [(⟨false, true⟩ : PortLevels)])) : List PortLevels).IsChain _
    rw [hrest]
    exact .cons_cons (hlow _ rfl _) (.cons_cons (hnext _ rfl _) (.cons_cons (hlow _ rfl _) ih))

/-- What stands on MSDA at the high clocks of bits is the bits. -/
theorem clocks_high (bits : List Bool) :
    ((bits.flatMap clockLevels ++ [(⟨false, true⟩ : PortLevels)]).filter PortLevels.mscl).map PortLevels.msda = bits := by
  induction bits with
  | nil => rfl
  | cons x bits ih => exact congrArg (x :: ·) ih

theorem byteLevels_wires (b : Byte) (acknowledged : Bool) :
    (byteLevels b acknowledged).IsChain PortLevels.Steady
    ∧ ((byteLevels b acknowledged).filter PortLevels.mscl).map PortLevels.msda
      = (List.range 8).map (fun i => b.getLsbD (7 - i)) ++ [decide (acknowledged = false)]
    ∧ (byteLevels b acknowledged).head?.map PortLevels.mscl = some false
    ∧ (byteLevels b acknowledged).getLast? = some ⟨false, true⟩ := by
  refine ⟨clocks_steady _, (clocks_high _).trans ?_, rfl, List.getLast?_concat ..⟩
  have hbits : (List.range 8).map (fun i => b.getMsbD i) = (List.range 8).map (fun i => b.getLsbD (7 - i)) :=
    List.map_congr_left fun i hi => by simp [BitVec.getMsbD, List.mem_range.1 hi]
  rw [hbits]
  cases acknowledged <;> rfl

/-! ### Clock periods -/

theorem clocksOf_map {α : Type} (l : List α) (f : α → PortSignal) (n : Nat) (h : ∀ x, (f x).clocks = n) :
    clocksOf (l.map f) = n * l.length := by
  induction l with
  | nil => rfl
  | cons x l ih => rw [List.map_cons, clocksOf_cons, ih, h, List.length_cons, Nat.mul_succ, Nat.add_comm]

theorem transfer_clocks (mem : Nat → Byte) (a n : Nat) (data : List Byte) :
    clocksOf ((Transfer.read a n).signals mem) = 30 + 9 * n
    ∧ clocksOf ((Transfer.write a data).signals mem) = 20 + 9 * data.length := by
  have hread := clocksOf_map (List.range n) (fun k => PortSignal.taken (mem (a + k)) (decide (k + 1 < n))) 9 fun _ => rfl
  have hwrite := clocksOf_map data (fun b => PortSignal.sent b true) 9 fun _ => rfl
  rw [List.length_range] at hread
  constructor
  · simp only [Transfer.signals, clocksOf_append, clocksOf_cons, clocksOf_nil, hread, PortSignal.clocks]
    omega
  · simp only [Transfer.signals, clocksOf_append, clocksOf_cons, clocksOf_nil, hwrite, PortSignal.clocks]
    omega

/-! ### Before a start, and polling -/

theorem startAfter_some (msda : Nat → Bool) (k : Nat) :
    startAfter msda = some k ↔ k ≤ 9 ∧ msda k = true ∧ ∀ j, j < k → msda j = false := by
  rw [startAfter, List.find?_range_eq_some, List.mem_range]
  simp only [Bool.not_eq_true']
  constructor
  · rintro ⟨hk, hlt, hall⟩; exact ⟨by omega, hk, hall⟩
  · rintro ⟨hlt, hk, hall⟩; exact ⟨hk, by omega, hall⟩

theorem startAfter_none (msda : Nat → Bool) : startAfter msda = none ↔ ∀ k, k ≤ 9 → msda k = false := by
  rw [startAfter, List.find?_range_eq_none]
  simp only [Bool.not_eq_true', Nat.lt_succ_iff]

theorem pollFails_iff (attempts : List (Nat × Bool)) :
    pollFails attempts = true ↔ ∀ x ∈ attempts, x.1 ≤ 1000 → x.2 = false := by
  simp only [pollFails, List.all_eq_true, Bool.not_eq_true', Bool.and_eq_false_iff, decide_eq_false_iff_not]
  exact forall₂_congr fun x _ => ⟨fun h hle => h.resolve_right fun k => k hle, fun h => by
    by_cases hle : x.1 ≤ 1000
    · exact .inl (h hle)
    · exact .inr hle⟩

/-- The signals of an attempt (R169, R170). -/
theorem attempt_signals (b : Byte) (x : Attempt) :
    (x.held ≤ 9 → x.signals b = (List.range x.held).map (fun j => .pulse (decide (j + 1 = x.held)))
      ++ [.start, .sent b x.acknowledged] ++ if x.acknowledged = true then [] else [.stop])
    ∧ (9 < x.held → x.signals b = List.replicate 9 (.pulse false) ++ [.heldStop]) := by
  refine ⟨fun h => ?_, fun h => ?_⟩
  · have hpulses : (List.range x.held).map (fun j => PortSignal.pulse (x.msda (j + 1)))
        = (List.range x.held).map (fun j => PortSignal.pulse (decide (j + 1 = x.held))) :=
      List.map_congr_left fun j hj => by
        have hlt := List.mem_range.1 hj
        exact congrArg PortSignal.pulse (decide_eq_decide.2 (by omega))
    have hstart : startAfter x.msda = some x.held := by rw [startAfter_attempt, if_pos h]
    rw [Attempt.signals, hstart, ← hpulses]
  · have hstart : startAfter x.msda = none := by rw [startAfter_attempt, if_neg (by omega)]
    rw [Attempt.signals, hstart]

/-- Attempts in time that do not address the memory leave the polling to the next ones. -/
theorem poll_refusals (b : Byte) {refused : List Attempt} (h : ∀ y ∈ refused, y.time ≤ 1000 ∧ y.addresses = false)
    (rest : List Attempt) :
    poll b (refused ++ rest) = (refused.flatMap (Attempt.signals b) ++ (poll b rest).1, (poll b rest).2) := by
  induction refused with
  | nil => rfl
  | cons y refused ih =>
    obtain ⟨htime, haddress⟩ := h y List.mem_cons_self
    rw [List.cons_append, poll_refused b y _ htime haddress, ih fun z hz => h z (List.mem_cons_of_mem y hz),
      List.flatMap_cons, List.append_assoc]

theorem poll_all_late (b : Byte) {late : List Attempt} (h : ∀ z ∈ late, 1000 < z.time) : poll b late = ([], false) := by
  induction late with
  | nil => rfl
  | cons z late ih =>
    rw [poll_late b z late (h z List.mem_cons_self), ih fun y hy => h y (List.mem_cons_of_mem z hy)]

/-- Settles O55. -/
theorem portWires : Obligations.PortWires := by
  refine ⟨⟨rfl, rfl, fun b acknowledged x hx => ?_⟩, fun mem a n data => ⟨fun _ => rfl, transfer_clocks mem a n data⟩,
    fun msda => ⟨startAfter_some msda, startAfter_none msda, fun h acknowledged => ?_, fun k h acknowledged => ?_⟩,
    fun attempts => ⟨fun h => ?_, fun ⟨x, hx, hle, haddressed⟩ => ?_⟩,
    ⟨fun _ => rfl, rfl, fun b x => ⟨(attempt_signals b x).1, (attempt_signals b x).2, addresses_iff x,
      fun a reading hb hheld hrefused => ?_⟩⟩,
    fun b refused late h => ⟨fun x hle haddressed => ?_, fun hlate => ?_, poll_answer b late⟩⟩
  · have hlevels : x.levels = byteLevels b acknowledged := by rcases hx with rfl | rfl <;> rfl
    rw [hlevels]
    obtain ⟨hsteady, hhigh, hfirst, hlast⟩ := byteLevels_wires b acknowledged
    exact ⟨hsteady, hhigh, hfirst, hlast⟩
  · rw [selected, h]; rfl
  · rw [selected, h]; rfl
  · rw [pollReport, if_pos ((pollFails_iff attempts).2 h)]; rfl
  · rw [pollReport, if_neg fun k => ?_]
    rw [(pollFails_iff attempts).1 k x hx hle] at haddressed
    cases haddressed
  · rw [(attempt_signals b x).1 (by omega), hheld, hrefused, hb]; rfl
  · rw [poll_refusals b h, poll_addressed b x late hle haddressed]
  · rw [poll_refusals b h, poll_all_late b hlate, List.append_nil]

end Sys2Proof.Machine
end

section
/-! PROOFS. The writes of a store and the memory they leave; the transfers on the port, whole and failing (R163, R169
to R176, R183 to R185). -/

namespace Sys2Proof.Machine

set_option Elab.async false

/-! ### The page writes of an image -/

section
variable (image : List Byte)

/-- The page writes of a store. -/
def pageWrites : List (Nat × List Byte) := (List.range ((image.length + 15) / 16)).map (pageWrite image)

theorem storeWrites_eq : storeWrites image = (0, [0x00#8, 0x00#8]) :: pageWrites image ++ [(0, [0x57#8, 0x42#8])] := rfl

theorem pageWrite_length (n : Nat) :
    (pageWrite image n).2.length = min (16 * n + 16 - max 2 (16 * n)) (image.length - max 2 (16 * n)) := by
  simp [pageWrite]

/-- The first pages hold the bytes from address 2 up to their end. -/
theorem pageWrite_flatten (j : Nat) :
    (((List.range j).map (pageWrite image)).map Prod.snd).flatten = (image.drop 2).take (16 * j - 2) := by
  induction j with
  | zero => rfl
  | succ j ih =>
    rw [List.range_succ, List.map_append, List.map_append, List.flatten_append, ih]
    have hlast : (([j].map (pageWrite image)).map Prod.snd).flatten
        = (image.drop (max 2 (16 * j))).take (16 * j + 16 - max 2 (16 * j)) := by simp [pageWrite]
    rw [hlast]
    cases j with
    | zero => simp
    | succ j =>
      have hmax : max 2 (16 * (j + 1)) = 2 + (16 * (j + 1) - 2) := by omega
      have hsum : 16 * (j + 1 + 1) - 2 = (16 * (j + 1) - 2) + (16 * (j + 1) + 16 - max 2 (16 * (j + 1))) := by omega
      rw [hsum, List.take_add, List.drop_drop, ← hmax]

theorem pageWrites_flatten : ((pageWrites image).map Prod.snd).flatten = image.drop 2 := by
  rw [pageWrites, pageWrite_flatten, List.take_of_length_le]
  rw [List.length_drop]
  omega

variable {image}

/-- Each page write has a byte at least, and stays within one page. -/
theorem pageWrite_page {n : Nat} (hlen : 7 ≤ image.length) (hn : n < (image.length + 15) / 16) :
    (pageWrite image n).2 ≠ [] ∧ 2 ≤ (pageWrite image n).1
    ∧ (pageWrite image n).1 / 16 = ((pageWrite image n).1 + (pageWrite image n).2.length - 1) / 16 := by
  have hlength := pageWrite_length image n
  have hfirst : (pageWrite image n).1 = max 2 (16 * n) := rfl
  refine ⟨fun h => ?_, by omega, by omega⟩
  rw [h, List.length_nil] at hlength
  omega

theorem mem_pageWrites {p : Nat × List Byte} (hp : p ∈ pageWrites image) :
    ∃ n, n < (image.length + 15) / 16 ∧ p = pageWrite image n := by
  obtain ⟨n, hn, rfl⟩ := List.mem_map.1 hp
  exact ⟨n, List.mem_range.1 hn, rfl⟩

/-- The pages follow one another without a gap. -/
theorem pageWrites_chain : (pageWrites image).IsChain (fun p q => q.1 = p.1 + p.2.length ∧ q.1 % 16 = 0) := by
  rw [pageWrites, List.isChain_map, List.isChain_range]
  intro n hn
  have hlength := pageWrite_length image n
  have hfirst : (pageWrite image n).1 = max 2 (16 * n) := rfl
  have hnext : (pageWrite image n.succ).1 = max 2 (16 * (n + 1)) := rfl
  omega

end

/-! ### The memory after a store -/

section
variable (image : List Byte) (m : List Host.Cell)

theorem getD_take_drop (first count a : Nat) (v : Byte) (h : first ≤ a) :
    ((image.drop first).take count).getD (a - first) v = if a < first + count then image.getD a v else v := by
  have ha : first + (a - first) = a := by omega
  by_cases hlt : a - first < count
  · rw [if_pos (by omega), List.getD_eq_getElem?_getD, List.getElem?_take_of_lt hlt, List.getElem?_drop, ha,
      ← List.getD_eq_getElem?_getD]
  · rw [if_neg (by omega), List.getD_eq_getElem?_getD, List.getElem?_eq_none, Option.getD_none]
    rw [List.length_take]
    omega

/-- What the memory holds after the first page writes. -/
theorem readCell_pages (j a : Nat) :
    readCell (((List.range j).map (pageWrite image)).foldl (fun n w => writeCells n w.1 w.2) m) a
      = if 2 ≤ a ∧ a < 16 * j then image.getD a (readCell m a) else readCell m a := by
  induction j with
  | zero => simp
  | succ j ih =>
    rw [List.range_succ, List.map_append, List.foldl_append, List.map_singleton, List.foldl_cons, List.foldl_nil,
      readCell_writeCells, ih]
    have hfirst : (pageWrite image j).1 = max 2 (16 * j) := rfl
    have hdata : (pageWrite image j).2 = (image.drop (max 2 (16 * j))).take (16 * j + 16 - max 2 (16 * j)) := rfl
    rw [hfirst, hdata]
    by_cases h : max 2 (16 * j) ≤ a
    · have hbefore : (if 2 ≤ a ∧ a < 16 * j then image.getD a (readCell m a) else readCell m a) = readCell m a :=
        if_neg (by omega)
      rw [if_pos h, getD_take_drop image _ _ a _ h, hbefore]
      exact if_congr (by omega) rfl rfl
    · rw [if_neg h]
      exact if_congr (by omega) rfl rfl

/-- A store whose writes were all taken leaves the image in the memory, and every other byte (R182, R183). -/
theorem readCell_storeWrites (hmagic : image.take 2 = [0x57#8, 0x42#8]) (a : Nat) :
    readCell ((storeWrites image).foldl (fun n w => writeCells n w.1 w.2) m) a = image.getD a (readCell m a) := by
  rw [storeWrites_eq, List.cons_append, List.foldl_cons, List.foldl_append, List.foldl_cons, List.foldl_nil,
    readCell_writeCells, if_pos (Nat.zero_le a), Nat.sub_zero]
  by_cases ha : a < 2
  · have hread : ∀ v, image.getD a v = [0x57#8, 0x42#8].getD a v := fun v => by
      rw [← hmagic, List.getD_eq_getElem?_getD, List.getD_eq_getElem?_getD, List.getElem?_take_of_lt ha]
    rw [hread]
    interval_cases a <;> rfl
  · have hbeyond : ∀ (v w x : Byte), [v, w].getD a x = x := fun v w x => by
      rw [List.getD_eq_getElem?_getD, List.getElem?_eq_none (by simp; omega)]; rfl
    rw [hbeyond, pageWrites, readCell_pages, readCell_writeCells, if_pos (Nat.zero_le a), Nat.sub_zero, hbeyond]
    by_cases hin : a < 16 * ((image.length + 15) / 16)
    · rw [if_pos ⟨by omega, hin⟩]
    · rw [if_neg fun k => hin k.2, List.getD_eq_getElem?_getD, List.getElem?_eq_none (by omega)]; rfl

theorem writes_wf (ws : List (Nat × List Byte)) (h : Memory.wf m = true) :
    Memory.wf (ws.foldl (fun n w => writeCells n w.1 w.2) m) = true := by
  induction ws generalizing m with
  | nil => exact h
  | cons w ws ih => exact ih _ (writeCells_wf w.1 w.2 h)

end

/-! ### The end of a store -/

section
variable {s : State} {ok : Bool}

/-- A store ended (R185), its RESULT still to come. -/
def State.storeEnded (s : State) (ok : Bool) : State :=
  { s with
    image := { s.image with config := .ready, store := none }
    mgmt := { s.mgmt with store := if ok then .done else .failed } }

theorem State.endStore_none (h : ∀ q b, s.mgmt.slot ≠ .inFlight q b true) : s.endStore ok = s.storeEnded ok := by
  unfold State.endStore
  simp only
  split
  · next q b hs => exact absurd hs (h q b)
  all_goals rfl

theorem State.endStore_result {q : Byte} {b : BufId} (h : s.mgmt.slot = .inFlight q b true) : s.endStore ok
    = { s.storeEnded ok with
      mgmt := { (s.storeEnded ok).mgmt with slot := .inFlight q b false }
      pool := (s.pool.write b (frame 0x00#8 s.settings.ownAddress 0x33#8 q
        [(if ok then ResultCode.done else .storeFailed).code, 0x0C#8])).hold b
      upstream := s.upstream.joined .urgent b } := by
  unfold State.endStore
  simp only [h]
  rfl

theorem exec_storeWrite {x : Store} (hc : s.image.config = .storing) (hx : s.image.store = some x) :
    exec .storeWriteAcknowledged s = .next (if x.position + 1 < (storeWrites x.image).length
      then (s.takeWrite x.current).nextWrite x else ((s.takeWrite x.current).endStore true).arbitrate) := by
  rw [exec_eq, State.after, State.writeAcknowledged, hc, hx]

theorem Store.current_eq {x : Store} (h : x.position < (storeWrites x.image).length) :
    (storeWrites x.image)[x.position]? = some x.current := by
  rw [Store.current, List.getElem?_eq_getElem h]; rfl

end

/-- Settles O53. -/
theorem storeWrites_hold : Obligations.StoreWrites := by
  refine ⟨fun s x hc hx => ⟨Store.current_eq, fun h => ?_, fun h => ⟨_, rfl, fun hslot => ?_, fun q b hslot => ?_⟩⟩,
    fun image hlen => ⟨pageWrites image, rfl, pageWrites_flatten image, ?_, fun p hp => ?_, pageWrites_chain⟩,
    fun image m hlen hmagic hwf => ⟨readCell_storeWrites image m hmagic, writes_wf m _ hwf⟩⟩
  · rw [exec_storeWrite hc hx, if_pos h]; rfl
  · rw [exec_storeWrite hc hx, if_neg (Nat.not_lt.2 h), State.endStore_none (s := s.takeWrite x.current) hslot]; rfl
  · rw [exec_storeWrite hc hx, if_neg (Nat.not_lt.2 h), State.endStore_result (s := s.takeWrite x.current) hslot]; rfl
  · obtain ⟨k, hk⟩ : ∃ k, (image.length + 15) / 16 = k + 1 := ⟨(image.length + 15) / 16 - 1, by omega⟩
    rw [pageWrites, hk, List.range_succ_eq_map]; rfl
  · obtain ⟨n, hn, rfl⟩ := mem_pageWrites hp
    exact pageWrite_page hlen hn

end Sys2Proof.Machine
end

section
/-! PROOFS. Transfers on the memory port, whole and failing, and what a failure ends (R169 to R176, R183 to R185). -/

namespace Sys2Proof.Machine

set_option Elab.async false

/-! ### A failure ends the operation -/

section
variable {s : State} {f : PortFailure}

theorem State.portFails_load {l : Load} (hc : s.image.config = .loading) (hl : s.image.load = some l) :
    s.portFails f = s.failLoad (if l.phase = .header then .noImage else .badImage) := by
  rw [State.portFails, hc, hl]

theorem State.portFails_store {x : Store} (hc : s.image.config = .storing) (hx : s.image.store = some x) :
    s.portFails f = (s.takePart f x.current).endStore false := by
  rw [State.portFails, hc, hx]

/-- How many bytes of a failed write the memory took (R184). -/
def State.partTaken (s : State) (f : PortFailure) (data : List Byte) : Nat :=
  min (Config.bytesTaken s.chance) (f.most data)

theorem State.partTaken_le (data : List Byte) : s.partTaken f data ≤ data.length
    ∧ (f = .byte → data ≠ [] → s.partTaken f data < data.length) := by
  have hmin : s.partTaken f data ≤ f.most data := Nat.min_le_right _ _
  cases f with
  | polling => exact ⟨hmin, fun h => nomatch h⟩
  | byte =>
    have hmost : s.partTaken .byte data ≤ data.length - 1 := hmin
    exact ⟨by omega, fun _ hne => by have := List.length_pos_of_ne_nil hne; omega⟩

/-- One byte of the true magic at most leaves the second as it was (R184). -/
theorem readCell_magic_part (m : List Host.Cell) {k : Nat} (hk : k ≤ 1) :
    readCell (writeCells m 0 ([0x57#8, 0x42#8].take k)) 1 = readCell m 1 := by
  rw [readCell_writeCells, if_pos (Nat.zero_le 1)]
  interval_cases k <;> rfl

/-- Each of the two commands reports one failure. -/
theorem exec_portFailure {i : Instr} (hi : i = .memoryPollTimeout ∨ i = .memoryByteNotAcknowledged) :
    ∃ f, exec i s = .next (s.portFails f).arbitrate ∧ (i = .memoryByteNotAcknowledged → f = .byte) := by
  obtain rfl | rfl := hi
  · exact ⟨.polling, rfl, fun h => nomatch h⟩
  · exact ⟨.byte, rfl, fun _ => rfl⟩

end

/-! ### Transfers step by step -/

section
variable (mem : Nat → Byte) (a n : Nat) (data : List Byte)

/-- What a transfer begins with: the device select for writing, and the address byte. -/
theorem Transfer.steps_begin {x : Transfer} (hx : x = .write a data ∨ x = .read a n) :
    ∃ rest, x.steps mem = .select (deviceSelect a false) :: .send (addressByte a) :: rest := by
  obtain rfl | rfl := hx <;> exact ⟨_, rfl⟩

/-- The bytes read, one after another, and the stop. -/
theorem runSteps_read (polls : List (List Attempt)) (acks : List Bool) :
    runSteps ((List.range n).map fun k => .take (mem (a + k)) (decide (k + 1 < n))) polls acks
      = ((List.range n).map (fun k => .taken (mem (a + k)) (decide (k + 1 < n))) ++ [.stop], none) := by
  have h := runSteps_taken ((List.range n).map fun k => (mem (a + k), decide (k + 1 < n))) [] polls acks
  simp only [List.append_nil, List.map_map, runSteps_nil] at h
  exact h

/-- The bytes written, one after another, and the stop. -/
theorem runSteps_write (polls : List (List Attempt)) :
    runSteps (data.map .send) polls (List.replicate data.length true)
      = (data.map (fun b => .sent b true) ++ [.stop], none) := by
  have h := runSteps_sent data [] polls []
  simp only [List.append_nil, runSteps_nil] at h
  exact h

/-- A data byte not acknowledged: the stop comes at once. -/
theorem runSteps_refused (v : Byte) (before after : List Byte) (polls : List (List Attempt)) (acks : List Bool) :
    runSteps ((before ++ v :: after).map .send) polls (List.replicate before.length true ++ false :: acks)
      = (before.map (fun b => .sent b true) ++ [.sent v false, .stop], some .byte) := by
  rw [List.map_append, runSteps_sent, List.map_cons, runSteps_send]
  rfl

/-- A memory addressed at once. -/
theorem poll_at_once (b : Byte) : poll b [⟨0, 0, true⟩] = ([.start, .sent b true], true) := rfl

theorem Transfer.run_write : (Transfer.write a data).run mem [[⟨0, 0, true⟩]] (List.replicate (data.length + 1) true)
    = ((Transfer.write a data).signals mem, none) := by
  have hsteps : (Transfer.write a data).steps mem
      = .select (deviceSelect a false) :: .send (addressByte a) :: data.map .send := rfl
  rw [Transfer.run, hsteps, List.replicate_succ, runSteps_select, runSteps_send, runSteps_write, poll_at_once]
  rfl

theorem Transfer.run_read : (Transfer.read a n).run mem [[⟨0, 0, true⟩], [⟨0, 0, true⟩]] [true]
    = ((Transfer.read a n).signals mem, none) := by
  have hsteps : (Transfer.read a n).steps mem = .select (deviceSelect a false) :: .send (addressByte a)
      :: .select (deviceSelect a true) :: (List.range n).map fun k => .take (mem (a + k)) (decide (k + 1 < n)) := rfl
  rw [Transfer.run, hsteps, runSteps_select, runSteps_send, runSteps_select, runSteps_read, poll_at_once, poll_at_once]
  rfl

/-- The failures of a transfer that its beginning shows: the device select for writing, and the address byte. -/
theorem Transfer.run_begin {x : Transfer} (hx : x = .write a data ∨ x = .read a n) (xs : List Attempt)
    (polls : List (List Attempt)) (acks : List Bool) :
    ((poll (deviceSelect a false) xs).2 = false →
      x.run mem (xs :: polls) acks = ((poll (deviceSelect a false) xs).1, some .polling))
    ∧ ((poll (deviceSelect a false) xs).2 = true → x.run mem (xs :: polls) (false :: acks)
      = ((poll (deviceSelect a false) xs).1 ++ [.sent (addressByte a) false, .stop], some .byte)) := by
  obtain ⟨rest, hsteps⟩ := Transfer.steps_begin mem a n data hx
  rw [Transfer.run, Transfer.run, hsteps, runSteps_select, runSteps_select]
  refine ⟨fun h => if_neg (by simp [h]), fun h => ?_⟩
  rw [if_pos h, runSteps_send]
  rfl

/-- The repeated start of a read: polled, and the bytes read where it is acknowledged. -/
theorem Transfer.run_repeated (xs ys : List Attempt) (polls : List (List Attempt)) (acks : List Bool)
    (h : (poll (deviceSelect a false) xs).2 = true) :
    ((poll (deviceSelect a true) ys).2 = false → (Transfer.read a n).run mem (xs :: ys :: polls) (true :: acks)
      = ((poll (deviceSelect a false) xs).1 ++ [.sent (addressByte a) true] ++ (poll (deviceSelect a true) ys).1,
        some .polling))
    ∧ ((poll (deviceSelect a true) ys).2 = true → (Transfer.read a n).run mem (xs :: ys :: polls) (true :: acks)
      = ((poll (deviceSelect a false) xs).1 ++ [.sent (addressByte a) true] ++ (poll (deviceSelect a true) ys).1
        ++ (List.range n).map (fun k => .taken (mem (a + k)) (decide (k + 1 < n))) ++ [.stop], none)) := by
  have hsteps : (Transfer.read a n).steps mem = .select (deviceSelect a false) :: .send (addressByte a)
      :: .select (deviceSelect a true) :: (List.range n).map fun k => .take (mem (a + k)) (decide (k + 1 < n)) := rfl
  rw [Transfer.run, hsteps, runSteps_select, if_pos h, runSteps_send, if_pos rfl, runSteps_select, runSteps_read]
  refine ⟨fun hy => ?_, fun hy => ?_⟩
  · rw [if_neg (by simp [hy])]
    simp only [List.append_assoc, List.cons_append, List.nil_append]
  · rw [if_pos hy]
    simp only [List.append_assoc, List.cons_append, List.nil_append]

/-- A data byte of a write not acknowledged (R184). -/
theorem Transfer.run_refused (xs : List Attempt) (polls : List (List Attempt)) (acks : List Bool)
    (h : (poll (deviceSelect a false) xs).2 = true) (v : Byte) (before after : List Byte) :
    (Transfer.write a (before ++ v :: after)).run mem (xs :: polls)
        (true :: (List.replicate before.length true ++ false :: acks))
      = ((poll (deviceSelect a false) xs).1 ++ [.sent (addressByte a) true]
        ++ before.map (fun b => .sent b true) ++ [.sent v false, .stop], some .byte) := by
  have hsteps : (Transfer.write a (before ++ v :: after)).steps mem
      = .select (deviceSelect a false) :: .send (addressByte a) :: (before ++ v :: after).map .send := rfl
  rw [Transfer.run, hsteps, runSteps_select, if_pos h, runSteps_send, if_pos rfl, runSteps_refused]
  simp only [List.append_assoc, List.cons_append, List.nil_append]

end

/-- Settles O52. -/
theorem portFailure : Obligations.PortFailure := by
  refine ⟨fun s i hi => ?_, fun mem a n data x xs polls acks hx => ⟨(Transfer.run_begin mem a n data hx xs polls acks).1,
      fun h => ⟨(Transfer.run_begin mem a n data hx xs polls acks).2 h,
        fun ys => (Transfer.run_repeated mem a n xs ys polls acks h).1,
        fun ys => (Transfer.run_repeated mem a n xs ys polls acks h).2, fun v before after hdata => ?_⟩⟩,
    rfl, rfl, fun xs => ?_⟩
  · obtain ⟨f, hexec, hbyte⟩ := exec_portFailure (s := s) hi
    refine ⟨fun l hc hl => ?_, fun x hc hx => ?_⟩
    · rw [hexec, State.portFails_load hc hl]
    · obtain ⟨hle, hlt⟩ := State.partTaken_le (s := s) (f := f) x.current.2
      refine ⟨_, s.partTaken f x.current.2, rfl, hle, fun h hne => hlt (hbyte h) hne, fun h hmagic => ?_,
        fun hslot => ?_, fun q b hslot => ?_⟩
      · rw [hmagic] at hlt ⊢
        exact readCell_magic_part s.memory (Nat.le_of_lt_succ (hlt (hbyte h) (by simp)))
      · rw [hexec, State.portFails_store hc hx, State.endStore_none (s := s.takePart f x.current) hslot]; rfl
      · rw [hexec, State.portFails_store hc hx, State.endStore_result (s := s.takePart f x.current) hslot]; rfl
  · rw [hdata]
    exact Transfer.run_refused mem a xs polls acks h v before after
  · rw [lastPolling, runSteps_select, runSteps_nil]
    exact ⟨fun h => if_pos h, fun h => if_neg (by simp [h])⟩

/-! ### Addresses, blocks and the transfer under way -/

theorem addressByte_eq (a : Nat) : addressByte a = BitVec.ofNat 8 a := by
  apply BitVec.eq_of_toNat_eq
  simp [addressByte, Byte.ofNat]

theorem deviceSelect_block : ∀ (k : Fin 8) (reading : Bool),
    Byte.ofNat (0xA0 + 2 * k.val + if reading then 1 else 0)
      = 0xA#4 ++ BitVec.ofNat 3 k.val ++ (if reading = true then 1#1 else 0#1) := by decide

theorem deviceSelect_eq (a : Nat) (reading : Bool) :
    deviceSelect a reading = 0xA#4 ++ BitVec.ofNat 3 (a / 256) ++ (if reading = true then 1#1 else 0#1) := by
  have hblock : BitVec.ofNat 3 (a / 256) = BitVec.ofNat 3 (a / 256 % 8) := by
    apply BitVec.eq_of_toNat_eq; simp
  rw [hblock]
  exact deviceSelect_block ⟨a / 256 % 8, Nat.mod_lt _ (by decide)⟩ reading

/-- The reads of a load take the bytes in ascending order (R174). -/
theorem blockReads_bytes (n j : Nat) :
    ((List.range j).map fun k => Transfer.read (256 * k) (min 256 (n - 256 * k))).flatMap
        (fun x => (List.range x.count).map (fun k => x.address + k))
      = List.range (min n (256 * j)) := by
  induction j with
  | zero => simp
  | succ j ih =>
    rw [List.range_succ, List.map_append, List.flatMap_append, ih, List.map_singleton, List.flatMap_singleton]
    have hsum : min n (256 * (j + 1)) = min n (256 * j) + min 256 (n - 256 * j) := by omega
    rw [hsum, List.range_add]
    refine congrArg (_ ++ ·) (List.map_congr_left fun k hk => ?_)
    have hlt : k < min 256 (n - 256 * j) := List.mem_range.1 hk
    show 256 * j + k = min n (256 * j) + k
    omega

theorem mem_blockReads {n : Nat} {x : Transfer} (hx : x ∈ blockReads n) :
    ∃ k, 256 * k < n ∧ x = .read (256 * k) (min 256 (n - 256 * k)) := by
  obtain ⟨k, hk, rfl⟩ := List.mem_map.1 hx
  exact ⟨k, by have := List.mem_range.1 hk; omega, rfl⟩

theorem blockReads_inBlock {n : Nat} {x : Transfer} (hx : x ∈ blockReads n) : x.inBlock = true := by
  obtain ⟨k, hk, rfl⟩ := mem_blockReads hx
  refine decide_eq_true ?_
  show 256 * k / 256 = (256 * k + min 256 (n - 256 * k) - 1) / 256
  omega

theorem blockReads_ascending (n : Nat) : (blockReads n).Pairwise (fun x y => x.address / 256 < y.address / 256) := by
  refine List.pairwise_map.2 (List.pairwise_lt_range.imp fun {i j} h => ?_)
  show 256 * i / 256 < 256 * j / 256
  omega

/-- No write of a store crosses a block (R183). -/
theorem storeTransfers_inBlock {image : List Byte} (hlen : 7 ≤ image.length) {x : Transfer}
    (hx : x ∈ storeTransfers image) : x.inBlock = true := by
  obtain ⟨w, hw, rfl⟩ := List.mem_map.1 hx
  rw [storeWrites_eq, List.cons_append, List.mem_cons, List.mem_append, List.mem_singleton] at hw
  obtain rfl | hw | rfl := hw
  · rfl
  · obtain ⟨n, hn, rfl⟩ := mem_pageWrites hw
    obtain ⟨-, -, hpage⟩ := pageWrite_page hlen hn
    refine decide_eq_true ?_
    show (pageWrite image n).1 / 256 = ((pageWrite image n).1 + (pageWrite image n).2.length - 1) / 256
    omega
  · rfl

section
variable {s : State}

theorem State.portTransfer_load {l : Load} (hc : s.image.config = .loading) (hl : s.image.load = some l) :
    s.portTransfer = (blockReads l.due)[l.position / 256]? := by
  rw [State.portTransfer, hc, hl]

theorem State.portTransfer_store {x : Store} (hc : s.image.config = .storing) (hx : s.image.store = some x) :
    s.portTransfer = some (.write x.current.1 x.current.2) := by
  rw [State.portTransfer, hc, hx]

theorem Load.due_of_ne {l : Load} (h : l.phase ≠ .header) : l.due = l.position + l.left + 2 := by
  unfold Load.due
  cases hp : l.phase with
  | header => exact absurd hp h
  | records => rfl
  | check => rfl

end

/-- Settles O54. -/
theorem portTransfers : Obligations.PortTransfers := by
  refine ⟨fun a reading => ⟨deviceSelect_eq a reading, addressByte_eq a⟩,
    fun mem a n data => ⟨rfl, rfl, Transfer.run_write mem a data, Transfer.run_read mem a n⟩,
    fun good n image hn hlen => ⟨?_, blockReads_ascending _, fun x hx => ?_, rfl⟩,
    fun s => ⟨fun l n hc hl hdue => ⟨fun hp hpos => ?_, fun hp hsum => ?_, ?_⟩, fun x hc hx hpos => ?_, fun hc => ?_⟩,
    fun s straps t ht => ?_,
    fun s => ⟨fun hl hx => ?_, fun l hl => ?_, fun hx => ?_⟩⟩
  · have hall : ∀ m, (blockReads m).flatMap (fun x => (List.range x.count).map (fun k => x.address + k)) = List.range m :=
      fun m => by
        rw [blockReads, blockReads_bytes, Nat.min_eq_left (by omega)]
    exact hall _
  · rcases List.mem_append.1 hx with hx | hx
    · exact blockReads_inBlock hx
    · exact storeTransfers_inBlock hlen hx
  · have hfive : l.due = 5 := by rw [Load.due, hp]
    rw [State.portTransfer_load hc hl, hfive, hpos]; rfl
  · have hsize : l.due = 7 + n := by rw [Load.due_of_ne hp]; omega
    rw [State.portTransfer_load hc hl, hsize]; rfl
  · refine ⟨_, _, (State.portTransfer_load hc hl).trans (blockReads_block l.due (l.position / 256) (by omega)), ?_, ?_⟩
    · omega
    · omega
  · rw [State.portTransfer_store hc hx, storeTransfers, List.getElem?_map, Store.current_eq hpos]; rfl
  · rw [State.portTransfer, hc]
  · obtain rfl := Host.Outcome.next.inj ht
    rfl
  · rw [State.memoryPortIdle, hl, hx]; rfl
  · rw [State.memoryPortIdle, hl]
    simp [Load.unread]
    tauto
  · rw [State.memoryPortIdle, Bool.and_eq_false_iff]
    exact .inr (Option.isNone_eq_false_iff.2 (Option.isSome_iff_ne_none.2 hx))

end Sys2Proof.Machine
end

section
/-! PROOFS. The store image, and its records read back by a load (R177 to R179, R182). -/

namespace Sys2Proof.Machine

set_option Elab.async false

/-! ### Codes read back -/

theorem Byte.toNat_ofNat {n : Nat} (h : n ≤ 255) : (Byte.ofNat n).toNat = n := by
  simp only [Byte.ofNat, BitVec.toNat_ofNat]
  omega

theorem boolCode_read (b : Bool) : (boolCode b).toNat ≤ 1 ∧ flagOf (boolCode b) = b := by
  cases b <;> decide

theorem classCode_read (c : Class) : c.code.toNat ≤ 1 ∧ classOf c.code = c := by
  cases c <;> decide

theorem modeCode_read (m : Mode) : m.code.toNat ≤ 1 ∧ modeOf m.code = m := by
  cases m <;> decide

theorem rateCode_toNat (r : Rate) : (rateCode r).toNat = r.val :=
  Byte.toNat_ofNat (by have := r.isLt; omega)

theorem dropByte_toNat (d : DropId) : (Byte.ofNat d.val).toNat = d.val :=
  Byte.toNat_ofNat (by have := d.isLt; omega)

theorem classCode_eq (c : Class) : c.code = if c = .urgent then 0x01#8 else 0x00#8 := by
  cases c <;> rfl

theorem modeCode_eq (m : Mode) : m.code = if m = .enabled then 0x01#8 else 0x00#8 := by
  cases m <;> rfl

/-! ### The image byte by byte -/

theorem Station.recordBytes_eq (st : Station) : st.recordBytes
    = (match st.aliasAddr with
        | none => [0x53#8, 0x09#8, st.address, 0xFD#8, Byte.ofNat st.drop.val]
        | some a => [0x53#8, 0x0A#8, st.address, 0xFF#8, Byte.ofNat st.drop.val, a])
      ++ [(if st.cls = .urgent then 0x01#8 else 0x00#8), Byte.ofNat st.window, Byte.ofNat st.retryLimit,
        (if st.deferral = true then 0x01#8 else 0x00#8), Byte.ofNat st.fetchInterval, Byte.ofNat st.fetchLimit] := by
  rw [← classCode_eq, Station.recordBytes]
  cases st.aliasAddr <;> rfl

theorem State.dropRecordBytes_eq (s : State) (d : DropId) : s.dropRecordBytes d = [0x52#8, 0x03#8, Byte.ofNat d.val,
    (if (s.dropUnit d).mode = .enabled then 0x01#8 else 0x00#8),
    Byte.ofNat ((s.dropUnit d).pendingRate.getD (s.dropUnit d).rate).val] := by
  rw [← modeCode_eq]
  rfl

theorem Station.recordBytes_length (st : Station) : st.recordBytes.length ≤ 12 := by
  rw [Station.recordBytes]
  cases st.aliasAddr <;> simp

theorem length_flatMap_le {α β : Type} {f : α → List β} {k : Nat} (h : ∀ x, (f x).length ≤ k) (l : List α) :
    (l.flatMap f).length ≤ l.length * k := by
  induction l with
  | nil => simp
  | cons x l ih =>
    have hx := h x
    rw [List.flatMap_cons, List.length_append, List.length_cons, Nat.succ_mul]
    omega

theorem State.imageRecords_length {s : State} (h : TableShape s) : s.imageRecords.length ≤ 799 := by
  have hroom : s.stations.length ≤ 64 := h.1
  have hstations := length_flatMap_le Station.recordBytes_length s.stations
  have hsettings : s.settingsRecordBytes.length = 9 := rfl
  have hdrops : ((List.finRange 4).flatMap s.dropRecordBytes).length = 20 := rfl
  have hend : endRecordBytes.length = 2 := rfl
  rw [State.imageRecords, List.length_append, List.length_append, List.length_append]
  omega

theorem State.storeImage_length (s : State) : s.storeImage.length = s.imageRecords.length + 7 := by
  rw [State.storeImage, withCheck_length, List.length_append]
  show 5 + s.imageRecords.length + 2 = _
  omega

/-! ### The records judged -/

section
variable {s t : State} {st : Station}

/-- The fields of the SETTINGS record that a store writes. -/
def State.storedSettings (s : State) : SettingsFields :=
  { ownAddress := some s.settings.ownAddress, trunkRate := some (rateCode s.trunk.rate)
    refuseUnknown := some (boolCode s.settings.refuseUnknown), downThreshold := some (num8 s.settings.downThreshold)
    probeRatio := some (num8 s.settings.probeRatio), urgentLimit := some (num8 s.settings.urgentLimit) }

theorem State.storedSettings_good (h : RangeLaw s) :
    s.storedSettings.codesGood = true ∧ s.storedSettings.quantitiesGood = true := by
  obtain ⟨⟨hown, ht1, ht2, hp1, hp2, hu1, hu2⟩, -⟩ := h
  have hthreshold := Byte.toNat_ofNat (n := s.settings.downThreshold) (by omega)
  have hratio := Byte.toNat_ofNat (n := s.settings.probeRatio) (by omega)
  have hlimit := Byte.toNat_ofNat (n := s.settings.urgentLimit) (by omega)
  have hrate := rateCode_toNat s.trunk.rate
  have hflag := (boolCode_read s.settings.refuseUnknown).1
  have hlt := s.trunk.rate.isLt
  constructor
  · simp only [SettingsFields.codesGood, State.storedSettings, ifGiven, Option.all_some, isRate, isFlag, Bool.and_eq_true,
      decide_eq_true_eq]
    omega
  · simp only [SettingsFields.quantitiesGood, State.storedSettings, ifGiven, Option.all_some, num8, Bool.and_eq_true,
      decide_eq_true_eq, hthreshold, hratio, hlimit, hown, true_and]
    omega

theorem State.storedSettings_merge (h : RangeLaw s) (g : Staged) : g.merge s.storedSettings = {
    ownAddress := some s.settings.ownAddress, trunkRate := some s.trunk.rate
    refuseUnknown := some s.settings.refuseUnknown, downThreshold := some s.settings.downThreshold
    probeRatio := some s.settings.probeRatio, urgentLimit := some s.settings.urgentLimit } := by
  obtain ⟨⟨-, ht1, ht2, hp1, hp2, hu1, hu2⟩, -⟩ := h
  have hthreshold := Byte.toNat_ofNat (n := s.settings.downThreshold) (by omega)
  have hratio := Byte.toNat_ofNat (n := s.settings.probeRatio) (by omega)
  have hlimit := Byte.toNat_ofNat (n := s.settings.urgentLimit) (by omega)
  simp only [Staged.merge, State.storedSettings, Option.map_some, Option.some_or, num8, hthreshold, hratio, hlimit,
    (boolCode_read _).2, rateOf_eq (rateCode_toNat _)]

theorem State.judgeSettings_written (h : RangeLaw s) (ht : TableLaw s) :
    s.judgeSettings (s.settingsRecordBytes.drop 2) = some s.storedSettings := by
  have hfields : s.storedSettings = settingsFields (0x3F#8 : Byte).toNat (s.settingsRecordBytes.drop 3) := rfl
  obtain ⟨hcodes, hquantities⟩ := State.storedSettings_good h
  refine (State.judgeSettings_cases hfields).2 (by decide) rfl hcodes hquantities fun a ha => ?_
  obtain rfl := Option.some.inj ha
  exact State.station_none.2 fun y hy => (ht.2.2 y hy).1

theorem State.actDrop_written (d : DropId) (l : Load) : State.actDrop ((s.dropRecordBytes d).drop 2) t l
    = { t with drops := t.drops.set d { t.dropUnit d with
        mode := (s.dropUnit d).mode, pendingRate := some ((s.dropUnit d).pendingRate.getD (s.dropUnit d).rate) } } := by
  obtain ⟨hle, hread⟩ := modeCode_read (s.dropUnit d).mode
  have hact := State.actDrop_of_codes (dropByte_toNat d) hle
    (rateCode_toNat ((s.dropUnit d).pendingRate.getD (s.dropUnit d).rate)) t l
  rw [hread] at hact
  exact hact

/-- The fields of the STATION record that a store writes. -/
def Station.stored (st : Station) : StationFields :=
  { drop := some (Byte.ofNat st.drop.val), aliasAddr := st.aliasAddr, cls := some st.cls.code
    window := some (num8 st.window), retryLimit := some (num8 st.retryLimit)
    deferral := some (boolCode st.deferral), fetchInterval := some (num8 st.fetchInterval)
    fetchLimit := some (num8 st.fetchLimit), miss := none, done := none, failed := none }

/-- The configuration of an entry in the ranges of R36 and R37. -/
def Station.InRange (st : Station) : Prop :=
  2 ≤ st.window ∧ st.window ≤ 255 ∧ st.retryLimit ≤ 3 ∧ 1 ≤ st.fetchInterval ∧ st.fetchInterval ≤ 255
    ∧ 1 ≤ st.fetchLimit ∧ st.fetchLimit ≤ 255
    ∧ ∀ a, st.aliasAddr = some a → stationAddress a = true ∧ a ≠ st.address

theorem Station.stored_good (h : st.InRange) : st.stored.recordGood = true := by
  obtain ⟨hw1, hw2, hr, hi1, hi2, hl1, hl2, halias⟩ := h
  refine (StationFields.recordGood_iff _).2 ⟨?_, ?_, ?_, fun v hv => ?_, ?_, ?_, ?_, ?_⟩
  · rintro _ ⟨⟩; have := st.drop.isLt; rw [dropByte_toNat]; omega
  · rintro _ ⟨⟩; exact (classCode_read _).1
  · rintro _ ⟨⟩; exact (boolCode_read _).1
  · simpa [stationAddress] using (halias v hv).1
  · rintro _ ⟨⟩; rwa [num8, Byte.toNat_ofNat hw2]
  · rintro _ ⟨⟩; rwa [num8, Byte.toNat_ofNat (by omega)]
  · rintro _ ⟨⟩; rwa [num8, Byte.toNat_ofNat hi2]
  · rintro _ ⟨⟩; rwa [num8, Byte.toNat_ofNat hl2]

theorem Station.stored_applyTo (h : st.InRange) : st.stored.applyTo (Station.fresh st.address 0)
    = { st with miss := 0, liveness := .present, probe := 0, noticePending := false, done := 0, failed := 0 } := by
  obtain ⟨-, hw, hr, -, hi, -, hl, halias⟩ := h
  have hretry := Byte.toNat_ofNat (n := st.retryLimit) (by omega)
  simp only [StationFields.applyTo, Station.stored, Station.fresh, Option.map_some, Option.getD_some, num8,
    Byte.toNat_ofNat hw, hretry, Byte.toNat_ofNat hi, Byte.toNat_ofNat hl, (boolCode_read _).2, (classCode_read _).2,
    dropOf_eq (dropByte_toNat _)]
  cases ha : st.aliasAddr with
  | none => rfl
  | some a =>
    obtain ⟨hstation, hne⟩ := halias a ha
    have hkept : ¬(a = 0x00#8 ∨ a = st.address) := by
      rintro (rfl | heq)
      · exact absurd hstation (by decide)
      · exact hne heq
    exact congrArg (fun al => ({ st with
      aliasAddr := al, miss := 0, liveness := .present, probe := 0, noticePending := false, done := 0, failed := 0 } : Station))
      (if_neg hkept)

/-- The bytes of an entry's record after its type and its length give back what a store wrote. -/
theorem Station.recordBytes_fields (st : Station) : ∃ (mask : Byte) (vals : List Byte),
    st.recordBytes = 0x53#8 :: Byte.ofNat (vals.length + 2) :: st.address :: mask :: vals
    ∧ vals.length = bitsBelow mask.toNat 8 ∧ st.stored = stationFields mask.toNat vals := by
  cases ha : st.aliasAddr with
  | none =>
    refine ⟨0xFD#8, Byte.ofNat st.drop.val :: [st.cls.code, num8 st.window, num8 st.retryLimit, boolCode st.deferral,
      num8 st.fetchInterval, num8 st.fetchLimit], ?_, rfl, ?_⟩
    · rw [Station.recordBytes, ha]; rfl
    · rw [Station.stored, ha]; rfl
  | some a =>
    refine ⟨0xFF#8, Byte.ofNat st.drop.val :: a :: [st.cls.code, num8 st.window, num8 st.retryLimit,
      boolCode st.deferral, num8 st.fetchInterval, num8 st.fetchLimit], ?_, rfl, ?_⟩
    · rw [Station.recordBytes, ha]; rfl
    · rw [Station.stored, ha]; rfl

end

/-- Settles O56. -/
theorem recordsReadBack : Obligations.RecordsReadBack := by
  refine ⟨fun s records hrecords => ?_, fun s hrange htable => ⟨fun g => ?_, fun t l d x hx => ?_,
    fun st hst t l hown hstaged hroom hline => ?_⟩⟩
  · have hsame : s.imageRecords = records := by
      rw [hrecords, State.imageRecords, funext s.dropRecordBytes_eq, funext Station.recordBytes_eq]
      rfl
    refine ⟨by rw [State.storeImage, hsame]; rfl, fun hshape => ?_⟩
    rw [← hsame]
    exact ⟨State.imageRecords_length hshape, s.storeImage_length⟩
  · exact ⟨s.settingsRecordBytes.drop 2, s.storedSettings, rfl, State.judgeSettings_written hrange htable,
      State.storedSettings_merge hrange g⟩
  · subst hx
    exact ⟨(s.dropRecordBytes d).drop 2, rfl, State.actDrop_written d l⟩
  · have hgood : st.InRange := hrange.2.2.2 st hst
    obtain ⟨mask, vals, hbytes, hlen, hfields⟩ := st.recordBytes_fields
    refine ⟨st.address :: mask :: vals, hbytes, ?_⟩
    refine (State.judgeStation_cases hfields (Station.stored_applyTo hgood).symm).2 hlen (htable.1.2.2.1 st hst) hown
      hstaged (fun h => nomatch h) (Station.stored_good hgood) (.inl hroom) hline

end Sys2Proof.Machine
end

section
/-! PROOFS. A drop's work closed in order at a fault or a disable (R91, R119, R128). -/

namespace Sys2Proof.Machine

set_option Elab.async false

/-! ### One closure, field by field -/

section
variable {s : State} {t : Tag} {e : Exchange}

theorem State.closeExchange_upstream (he : s.exchange t = some e) (r : ClosureReason) :
    (s.closeExchange t r).upstream = s.upstream.joined e.cls e.buffer := by
  rw [State.closeExchange_eq he]
  obtain hl | hl := e.lineHolds_cases <;> rw [hl] <;> cases e.cls <;> rfl

theorem State.closeExchange_stations (he : s.exchange t = some e) (r : ClosureReason) :
    (s.closeExchange t r).stations
      = s.stations.map fun st => if st.address = e.station then st.closed s.settings.downThreshold r else st := by
  rw [State.closeExchange_eq he]
  obtain hl | hl := e.lineHolds_cases <;> rw [hl] <;> cases e.cls <;> rfl

theorem State.closeExchange_none (h : s.exchange t = none) (r : ClosureReason) : s.closeExchange t r = s := by
  rw [State.closeExchange, h]

end

/-! ### The endings of a drop's work -/

/-- The exchanges that a run of endings closes, in order. -/
def closedTags (l : List Ending) : List Tag := l.filterMap fun w =>
  match w with
  | .close t _ => some t
  | .discard _ => none

/-- The buffers whose hold a run of endings gives up, in order. -/
def discarded (l : List Ending) : List BufId := l.filterMap fun w =>
  match w with
  | .close _ _ => none
  | .discard b => some b

@[simp] theorem closedTags_close (t : Tag) (r : ClosureReason) (l : List Ending) :
    closedTags (.close t r :: l) = t :: closedTags l := rfl
@[simp] theorem closedTags_discard (b : BufId) (l : List Ending) : closedTags (.discard b :: l) = closedTags l := rfl
@[simp] theorem discarded_close (t : Tag) (r : ClosureReason) (l : List Ending) :
    discarded (.close t r :: l) = discarded l := rfl
@[simp] theorem discarded_discard (b : BufId) (l : List Ending) : discarded (.discard b :: l) = b :: discarded l := rfl

theorem closedTags_append (l m : List Ending) : closedTags (l ++ m) = closedTags l ++ closedTags m :=
  List.filterMap_append

theorem discarded_append (l m : List Ending) : discarded (l ++ m) = discarded l ++ discarded m := List.filterMap_append

theorem mem_closedTags {l : List Ending} {t : Tag} : t ∈ closedTags l ↔ ∃ r, Ending.close t r ∈ l := by
  induction l with
  | nil => simp [closedTags]
  | cons w l ih => cases w <;> simp [ih, exists_or]

theorem closedTags_map (r : ClosureReason) (l : List Tag) : closedTags (l.map (Ending.close · r)) = l := by
  induction l with
  | nil => rfl
  | cons t l ih => rw [List.map_cons, closedTags_close, ih]

theorem discarded_map (r : ClosureReason) (l : List Tag) : discarded (l.map (Ending.close · r)) = [] := by
  induction l with
  | nil => rfl
  | cons t l ih => rw [List.map_cons, discarded_close, ih]

/-- How one queue item ends. -/
def Item.ending (r : ClosureReason) (it : Item) : Ending :=
  match it.work with
  | .exchange t => .close t r
  | .notice _ => .discard it.buffer

theorem State.endOne_ending (s : State) (r : ClosureReason) (it : Item) : s.endOne (it.ending r) = s.clearItem r it := by
  unfold Item.ending State.clearItem
  cases it.work <;> rfl

theorem mem_closedTags_items {r : ClosureReason} {q : List Item} {t : Tag} :
    t ∈ closedTags (q.map (Item.ending r)) ↔ ∃ it ∈ q, it.work = .exchange t := by
  induction q with
  | nil => simp [closedTags]
  | cons it q ih =>
    unfold Item.ending at ih ⊢
    cases hw : it.work <;> simp [hw, ih, eq_comm]

theorem closedTags_items_nodup {q : List Item} (h : DistinctItems q) (r : ClosureReason) :
    (closedTags (q.map (Item.ending r))).Nodup := by
  induction q with
  | nil => exact List.nodup_nil
  | cons it q ih =>
    obtain ⟨hit, hq⟩ := List.pairwise_cons.1 h
    have hmem := fun t => mem_closedTags_items (r := r) (q := q) (t := t)
    rw [List.map_cons]
    cases hw : it.work with
    | notice a => rw [show it.ending r = .discard it.buffer by rw [Item.ending, hw], closedTags_discard]; exact ih hq
    | exchange t =>
      rw [show it.ending r = .close t r by rw [Item.ending, hw], closedTags_close, List.nodup_cons]
      refine ⟨fun ht => ?_, ih hq⟩
      obtain ⟨jt, hjt, hwork⟩ := (hmem t).1 ht
      exact hit jt hjt t hw hwork

/-- The buffers of the queued notices, given up in queue order. -/
theorem discarded_items (r : ClosureReason) (q : List Item) (p : Pool) :
    (discarded (q.map (Item.ending r))).foldl Pool.release p
      = (q.filter (fun it => ∃ a, it.work = .notice a)).foldl (fun p it => p.release it.buffer) p := by
  induction q generalizing p with
  | nil => rfl
  | cons it q ih =>
    rw [List.map_cons]
    cases hw : it.work with
    | notice a =>
      rw [show it.ending r = .discard it.buffer by rw [Item.ending, hw], discarded_discard, List.foldl_cons,
        List.filter_cons_of_pos (by simp [hw]), List.foldl_cons]
      exact ih _
    | exchange t =>
      rw [show it.ending r = .close t r by rw [Item.ending, hw], discarded_close, List.filter_cons_of_neg (by simp [hw])]
      exact ih p

/-- The work in service and in the queue as endings. -/
def State.onLineEndings (s : State) (d : DropId) (first rest : ClosureReason) : List Ending :=
  (s.dropUnit d).serving.toList.map (Ending.close · first) ++ (s.dropUnit d).queue.map (Item.ending rest)

theorem State.endings_eq (s : State) (d : DropId) (first rest : ClosureReason) : s.endings d first rest
    = s.onLineEndings d first rest ++ (s.offLine d).map (Ending.close · rest) := by
  have hoff : s.offLine d = (List.finRange 16).filter (fun t => (s.exchange t).any (fun e =>
      decide (e.drop = d ∧ (e.state = .deferred ∨ e.state = .fetchDue)))) :=
    congrArg (fun f : Exchange → Bool => (List.finRange 16).filter fun t => (s.exchange t).any f)
      (funext fun e => by rw [Bool.decide_and, Bool.decide_or])
  rw [hoff]
  rfl

/-! ### What a run of endings leaves -/

/-- Endings one after another. -/
def State.endAll (s : State) (l : List Ending) : State := l.foldl State.endOne s

theorem State.endAll_cons (s : State) (w : Ending) (l : List Ending) : s.endAll (w :: l) = (s.endOne w).endAll l := rfl

theorem State.endAll_append (s : State) (l m : List Ending) : s.endAll (l ++ m) = (s.endAll l).endAll m :=
  List.foldl_append

theorem State.endAll_exchange (s : State) (l : List Ending) (k : Tag) :
    (s.endAll l).exchange k = if k ∈ closedTags l then none else s.exchange k := by
  induction l generalizing s with
  | nil => rfl
  | cons w l ih =>
    rw [State.endAll_cons, ih]
    cases w with
    | discard b => rfl
    | close t r =>
      by_cases hk : k = t
      · subst hk
        simp [State.endOne, State.closeExchange_exchange_self]
      · simp [State.endOne, State.closeExchange_exchange_ne r hk, hk]

theorem State.endOne_settings (s : State) (w : Ending) : (s.endOne w).settings = s.settings := by
  cases w with
  | close t r => simp [State.endOne]
  | discard b => rfl

/-- The tags of a run, and what the first ending leaves of the others' records. -/
theorem State.endOne_filterMap {s : State} {t : Tag} {l : List Ending} (h : (t :: closedTags l).Nodup) (r : ClosureReason) :
    (closedTags l).filterMap (s.closeExchange t r).exchange = (closedTags l).filterMap s.exchange := by
  obtain ⟨ht, -⟩ := List.nodup_cons.1 h
  exact List.filterMap_congr fun k hk => State.closeExchange_exchange_ne r fun heq => ht (heq ▸ hk)

/-- Buffers joined behind each queue in order (R128). -/
def Upstream.joinedAll (u : Upstream) (l : List Exchange) : Upstream := { u with
  urgent := u.urgent ++ l.filterMap (fun e => if e.cls = .urgent then some e.buffer else none)
  routine := u.routine ++ l.filterMap (fun e => if e.cls = .routine then some e.buffer else none) }

theorem Upstream.joinedAll_cons (u : Upstream) (e : Exchange) (l : List Exchange) :
    u.joinedAll (e :: l) = (u.joined e.cls e.buffer).joinedAll l := by
  unfold Upstream.joinedAll Upstream.joined
  cases hc : e.cls <;> simp [hc]

theorem State.endAll_upstream {s : State} {l : List Ending} (h : (closedTags l).Nodup) :
    (s.endAll l).upstream = s.upstream.joinedAll ((closedTags l).filterMap s.exchange) := by
  induction l generalizing s with
  | nil => simp [State.endAll, closedTags, Upstream.joinedAll]
  | cons w l ih =>
    rw [State.endAll_cons]
    cases w with
    | discard b => exact ih h
    | close t r =>
      rw [closedTags_close] at h ⊢
      rw [ih (List.nodup_cons.1 h).2, State.endOne, State.endOne_filterMap h r]
      cases he : s.exchange t with
      | none => rw [State.closeExchange_none he, List.filterMap_cons_none he]
      | some e => rw [State.closeExchange_upstream he, List.filterMap_cons_some he, Upstream.joinedAll_cons]

/-- What a closure moves of a station (R39, R45, R123). -/
def State.closureCounted (s : State) (reason : Tag → ClosureReason) (st : Station) (k : Tag) : Station :=
  if (s.exchange k).map Exchange.station = some st.address then st.closed s.settings.downThreshold (reason k) else st

theorem State.endAll_stations {s : State} {l : List Ending} {reason : Tag → ClosureReason} (h : (closedTags l).Nodup)
    (hreason : ∀ t r, Ending.close t r ∈ l → r = reason t) :
    (s.endAll l).stations = s.stations.map fun st => (closedTags l).foldl (s.closureCounted reason) st := by
  induction l generalizing s with
  | nil => simp [State.endAll, closedTags]
  | cons w l ih =>
    have hrest := fun t r hm => hreason t r (List.mem_cons_of_mem w hm)
    rw [State.endAll_cons]
    cases w with
    | discard b => exact ih h hrest
    | close t r =>
      obtain rfl := hreason t r List.mem_cons_self
      rw [closedTags_close] at h ⊢
      obtain ⟨ht, hnodup⟩ := List.nodup_cons.1 h
      have hsettings : (s.closeExchange t (reason t)).settings = s.settings := s.endOne_settings (.close t (reason t))
      have hkept : ∀ st, (closedTags l).foldl ((s.closeExchange t (reason t)).closureCounted reason) st
          = (closedTags l).foldl (s.closureCounted reason) st := fun st =>
        List.foldl_ext _ _ _ fun y k hk => by
          have hne : k ≠ t := fun heq => ht (heq ▸ hk)
          rw [State.closureCounted, State.closureCounted, State.closeExchange_exchange_ne _ hne, hsettings]
      have hfirst : (s.closeExchange t (reason t)).stations = s.stations.map fun st => s.closureCounted reason st t := by
        cases he : s.exchange t with
        | none =>
          rw [State.closeExchange_none he]
          simp [State.closureCounted, he]
        | some e =>
          rw [State.closeExchange_stations he]
          exact List.map_congr_left fun st _ => by simp [State.closureCounted, he, eq_comm]
      rw [ih hnodup hrest, State.endOne, hfirst, List.map_map]
      exact List.map_congr_left fun st _ => hkept _

/-! ### The closing of a drop's work as endings -/

section
variable {s : State} {d : DropId} {first rest : ClosureReason}

theorem WorkLaw.onLine_tags (h : WorkLaw s) {k : Tag} (hk : k ∈ closedTags (s.onLineEndings d first rest)) :
    ∃ e, s.exchange k = some e ∧ e.drop = d ∧ ((s.dropUnit d).serving = some k ∧ e.inService = true ∨ e.state = .queued) := by
  rw [State.onLineEndings, closedTags_append, closedTags_map, List.mem_append, Option.mem_toList, mem_closedTags_items] at hk
  rcases hk with hserving | ⟨it, hit, hwork⟩
  · obtain ⟨e, he, hin, hd⟩ := h.serving hserving
    exact ⟨e, he, hd, .inl ⟨hserving, hin⟩⟩
  · obtain ⟨e, he, hstate, hd⟩ := h.queued hit hwork
    exact ⟨e, he, hd, .inr hstate⟩

theorem State.mem_offLine {k : Tag} : k ∈ s.offLine d ↔
    ∃ e, s.exchange k = some e ∧ e.drop = d ∧ (e.state = .deferred ∨ e.state = .fetchDue) := by
  rw [State.offLine, List.mem_filter]
  cases s.exchange k <;> simp

/-- Ending the work on the line leaves the drop's exchanges off the line, and those alone, as they were. -/
theorem State.offLine_endAll (h : WorkLaw s) : (s.endAll (s.onLineEndings d first rest)).offLine d = s.offLine d := by
  refine List.filter_congr fun k _ => ?_
  rw [State.endAll_exchange]
  split
  · next hk =>
    obtain ⟨e, he, -, hphase⟩ := h.onLine_tags hk
    have hno : ¬(e.state = .deferred ∨ e.state = .fetchDue) := fun hoff => by
      obtain ⟨hq, hin⟩ := e.offLine_iff.1 hoff
      rcases hphase with ⟨-, hs⟩ | hs
      · rw [hin] at hs; cases hs
      · exact hq hs
    rw [he]
    simpa using fun _ => not_or.1 hno
  · rfl

theorem State.endAll_map (r : ClosureReason) (l : List Tag) (u : State) :
    u.endAll (l.map (Ending.close · r)) = l.foldl (fun s t => s.closeExchange t r) u := List.foldl_map

theorem State.endAll_items (r : ClosureReason) (q : List Item) (u : State) :
    u.endAll (q.map (Item.ending r)) = q.foldl (State.clearItem r) u := by
  rw [State.endAll, List.foldl_map]
  exact List.foldl_ext _ _ _ fun u it _ => u.endOne_ending r it

theorem State.closeAll_emptied (r : ClosureReason) (l : List Tag) (u : State) :
    (l.foldl (fun s t => s.closeExchange t r) u).mapDrop d (Drop.withQueue [])
      = l.foldl (fun s t => s.closeExchange t r) (u.mapDrop d (Drop.withQueue [])) := by
  induction l generalizing u with
  | nil => rfl
  | cons t l ih => rw [List.foldl_cons, List.foldl_cons, ih, State.closeExchange_emptied]

theorem State.serviceClosed_eq (s : State) (d : DropId) (r : ClosureReason) :
    s.serviceClosed d r = s.endAll ((s.dropUnit d).serving.toList.map (Ending.close · r)) := by
  unfold State.serviceClosed
  cases (s.dropUnit d).serving <;> rfl

theorem State.serviceClosed_queue (h : WorkLaw s) : ((s.serviceClosed d first).dropUnit d).queue = (s.dropUnit d).queue := by
  unfold State.serviceClosed
  split
  · next t hs =>
    obtain ⟨e, he, hin, hd⟩ := h.serving hs
    subst hd
    rw [State.closeExchange_dropUnit he, State.dropUnit_mapDrop_self, Drop.without_inService t hin]
  · rfl

theorem State.queueCleared_eq (h : WorkLaw s) : s.queueCleared d first rest
    = (s.endAll (s.onLineEndings d first rest)).mapDrop d (Drop.withQueue []) := by
  rw [State.queueCleared, State.serviceClosed_queue h, State.serviceClosed_eq, ← State.endAll_items, ← State.endAll_append]
  rfl

/-- A drop's work closed is its endings one after another, and the queue empty (R91, R119). -/
theorem State.closeWork_endAll (h : WorkLaw s) : s.closeWork d first rest
    = (s.endAll (s.endings d first rest)).mapDrop d (Drop.withQueue []) := by
  have hoff : (s.queueCleared d first rest).offLine d = s.offLine d := by
    rw [State.queueCleared_eq h]
    exact State.offLine_endAll h
  rw [State.closeWork_eq, hoff, State.queueCleared_eq h, ← State.closeAll_emptied, State.endings_eq, State.endAll_append,
    State.endAll_map]

/-! ### The order of a drop's endings -/

theorem State.closedTags_endings : closedTags (s.endings d first rest)
    = (s.dropUnit d).serving.toList ++ closedTags ((s.dropUnit d).queue.map (Item.ending rest)) ++ s.offLine d := by
  rw [State.endings_eq, State.onLineEndings, closedTags_append, closedTags_append, closedTags_map, closedTags_map]

theorem State.discarded_endings : discarded (s.endings d first rest)
    = discarded ((s.dropUnit d).queue.map (Item.ending rest)) := by
  rw [State.endings_eq, State.onLineEndings, discarded_append, discarded_append, discarded_map, discarded_map,
    List.append_nil, List.nil_append]

/-- Every exchange closed stands in its drop's service, in its queue, or off the line. -/
theorem WorkLaw.ended (h : WorkLaw s) {k : Tag} (hk : k ∈ closedTags (s.endings d first rest)) :
    ∃ e, s.exchange k = some e ∧ e.drop = d := by
  rw [State.endings_eq, closedTags_append, closedTags_map, List.mem_append] at hk
  rcases hk with hk | hk
  · obtain ⟨e, he, hd, -⟩ := h.onLine_tags hk
    exact ⟨e, he, hd⟩
  · obtain ⟨e, he, hd, -⟩ := State.mem_offLine.1 hk
    exact ⟨e, he, hd⟩

/-- The exchange in service is neither queued nor off the line. -/
theorem WorkLaw.serving_apart (h : WorkLaw s) {t : Tag} (ht : (s.dropUnit d).serving = some t) :
    t ∉ closedTags ((s.dropUnit d).queue.map (Item.ending rest)) ∧ t ∉ s.offLine d := by
  obtain ⟨e, he, hin, -⟩ := h.serving ht
  refine ⟨fun hk => ?_, fun hk => ?_⟩
  · obtain ⟨it, hit, hwork⟩ := mem_closedTags_items.1 hk
    obtain ⟨y, hy, hstate, -⟩ := h.queued hit hwork
    obtain rfl := Option.some.inj (he.symm.trans hy)
    rw [Exchange.inService, hstate] at hin
    exact absurd hin (by decide)
  · obtain ⟨y, hy, -, hoff⟩ := State.mem_offLine.1 hk
    exact (h.offLine_unnamed hy hoff).2 d ht

theorem WorkLaw.endings_nodup (h : WorkLaw s) : (closedTags (s.endings d first rest)).Nodup := by
  rw [State.closedTags_endings, List.append_assoc, List.nodup_append, List.nodup_append]
  refine ⟨?_, ⟨closedTags_items_nodup (h.distinct d) rest, (List.nodup_finRange 16).filter _, fun a ha b hb hab => ?_⟩,
    fun a ha b hb hab => ?_⟩
  · cases (s.dropUnit d).serving <;> simp
  · subst hab
    obtain ⟨it, hit, hwork⟩ := mem_closedTags_items.1 ha
    obtain ⟨e, he, -, hoff⟩ := State.mem_offLine.1 hb
    exact (h.offLine_unnamed he hoff).1 d it hit hwork
  · subst hab
    obtain ⟨hqueue, hoff⟩ := h.serving_apart (rest := rest) (Option.mem_toList.1 ha)
    rcases List.mem_append.1 hb with hb | hb
    · exact hqueue hb
    · exact hoff hb

/-- The reason with which an exchange closes: its own in service, the other elsewhere (R29). -/
theorem WorkLaw.endings_reason (h : WorkLaw s) {t : Tag} {r : ClosureReason} (ht : Ending.close t r ∈ s.endings d first rest) :
    r = if (s.dropUnit d).serving = some t then first else rest := by
  rw [State.endings_eq, State.onLineEndings, List.mem_append, List.mem_append] at ht
  rcases ht with (ht | ht) | ht
  · obtain ⟨k, hk, heq⟩ := List.mem_map.1 ht
    obtain ⟨rfl, rfl⟩ := Ending.close.inj heq
    rw [if_pos (Option.mem_toList.1 hk)]
  · have hmem : t ∈ closedTags ((s.dropUnit d).queue.map (Item.ending rest)) := mem_closedTags.2 ⟨r, ht⟩
    obtain ⟨it, -, heq⟩ := List.mem_map.1 ht
    have hr : r = rest := by
      unfold Item.ending at heq
      cases hw : it.work <;> simp [hw] at heq
      exact heq.2.symm
    rw [if_neg fun hserving => (h.serving_apart hserving).1 hmem, hr]
  · obtain ⟨k, hk, heq⟩ := List.mem_map.1 ht
    obtain ⟨rfl, rfl⟩ := Ending.close.inj heq
    rw [if_neg fun hserving => (h.serving_apart (rest := rest) hserving).2 hk]

end

end Sys2Proof.Machine
end

section
/-! PROOFS. The buffers of a drop's work closed in order: what each request buffer is left with, and what the free list gains
(R21 to R23, R122). -/

namespace Sys2Proof.Machine

set_option Elab.async false

/-! ### Holds that stand apart -/

theorem Pool.buffers_of_count {p : Pool} {b : BufId} (h : 1 ≤ p.count b) :
    ∃ c, p.buffers[b] = some { content := c, count := p.count b } := by
  cases hb : p.buffers[b] with
  | none => rw [Pool.count_eq_zero hb] at h; omega
  | some x => exact ⟨x.content, by rw [Pool.count_eq hb]⟩

theorem two_le_count {α : Type} [DecidableEq α] {f : α → BufId} {l : List α} {x y : α} {b : BufId} (hx : x ∈ l) (hy : y ∈ l)
    (hne : y ≠ x) (hfx : f x = b) (hfy : f y = b) : 2 ≤ (l.map f).count b := by
  have hperm := (List.perm_cons_erase hx).map f
  have herase : y ∈ l.erase x := (List.mem_erase_of_ne hne).2 hy
  have hone : 1 ≤ ((l.erase x).map f).count b := List.one_le_count_iff.2 (hfy ▸ List.mem_map_of_mem herase)
  rw [hperm.count_eq, List.map_cons, hfx, List.count_cons_self]
  omega

section
variable {s : State} {t : Tag} {e : Exchange}

/-- An exchange on the line has an item with its buffer on its drop; one off it has the request slot's hold alone. -/
theorem RequestLaw.item (h : RequestLaw s) (he : s.exchange t = some e) :
    (∃ it ∈ (s.dropUnit e.drop).queue, it.work = .exchange t ∧ it.buffer = e.buffer) ∧ s.pool.count e.buffer = 2
    ∨ (∃ it, (s.dropUnit e.drop).service = some it ∧ it.buffer = e.buffer) ∧ s.pool.count e.buffer = 2
    ∨ s.pool.count e.buffer = 1 := by
  obtain ⟨hqueued, hservice, hcount⟩ := h t e he
  rcases e.phase_cases with hq | hin | hoff
  · exact .inl ⟨hqueued hq, by rw [hcount, if_neg (by simp [hq])]⟩
  · obtain ⟨it, hit, -, hb⟩ := hservice hin
    have hno : ¬(e.state = .deferred ∨ e.state = .fetchDue) := fun hoff => by
      rw [(e.offLine_iff.1 hoff).2] at hin; cases hin
    exact .inr (.inl ⟨⟨it, hit, hb⟩, by rw [hcount, if_neg hno]⟩)
  · exact .inr (.inr (by rw [hcount, if_pos hoff]))

/-- No two open exchanges have the same buffer (R21, R28). -/
theorem RequestLaw.apart (h : RequestLaw s) (hhold : HoldLaw s) {u : Tag} {f : Exchange} (he : s.exchange t = some e)
    (hf : s.exchange u = some f) (hne : t ≠ u) : e.buffer ≠ f.buffer := by
  intro hb
  have hcount := hhold e.buffer
  have htwo := add_le_sum (fun v : Fin 16 => ((s.exchange v).map Exchange.buffer).toList.count e.buffer) hne
  simp only [he, hf, Option.map_some, Option.toList_some, ← hb, List.count_singleton_self] at htwo
  have hplaces := s.requests_le_places .trunk e.drop e.buffer
  rcases h.item he with ⟨⟨it, hit, -, hbuf⟩, hc⟩ | ⟨⟨it, hit, hbuf⟩, hc⟩ | hc
  · have hone : 1 ≤ ((s.dropUnit e.drop).queue.map Item.buffer).count e.buffer :=
      List.one_le_count_iff.2 (hbuf ▸ List.mem_map_of_mem hit)
    omega
  · rw [hit, Option.map_some, Option.toList_some, hbuf, List.count_singleton_self] at hplaces
    omega
  · omega

/-- A notice queued on the exchange's drop has another buffer (R21, R28). -/
theorem RequestLaw.notice_apart (h : RequestLaw s) (hhold : HoldLaw s) (he : s.exchange t = some e) {jt : Item} {a : Byte}
    (hjt : jt ∈ (s.dropUnit e.drop).queue) (hnotice : jt.work = .notice a) : e.buffer ≠ jt.buffer := by
  intro hb
  have hcount := hhold e.buffer
  have hplaces := s.request_le_places he e.drop
  have hone : 1 ≤ ((s.dropUnit e.drop).queue.map Item.buffer).count e.buffer :=
    List.one_le_count_iff.2 (hb ▸ List.mem_map_of_mem hjt)
  rcases h.item he with ⟨⟨it, hit, hwork, hbuf⟩, hc⟩ | ⟨⟨it, hit, hbuf⟩, hc⟩ | hc
  · have hne : it ≠ jt := fun heq => by rw [heq, hnotice] at hwork; cases hwork
    have htwo := two_le_count (f := Item.buffer) hjt hit hne hb.symm hbuf
    omega
  · rw [hit, Option.map_some, Option.toList_some, hbuf, List.count_singleton_self] at hplaces
    omega
  · omega

/-- Every open exchange's buffer is held by its request slot and on its line (R28). -/
theorem RequestLaw.held (h : RequestLaw s) (he : s.exchange t = some e) :
    ∃ c, s.pool.buffers[e.buffer] = some { content := c, count := 1 + e.lineHolds.length } := by
  have hcount : s.pool.count e.buffer = 1 + e.lineHolds.length := by rw [e.lineHolds_length, (h t e he).2.2]
  obtain ⟨c, hc⟩ := Pool.buffers_of_count (p := s.pool) (b := e.buffer) (by omega)
  exact ⟨c, hcount ▸ hc⟩

end

/-! ### A run of endings over buffers that stand apart -/

/-- The holds of a run of endings: every exchange closed has its own buffer, held as R28 says, and no notice among the
endings has it too. -/
structure HoldsApart (s : State) (l : List Ending) : Prop where
  nodup : (closedTags l).Nodup
  held : ∀ k ∈ closedTags l, ∀ e, s.exchange k = some e →
    ∃ c, s.pool.buffers[e.buffer] = some { content := c, count := 1 + e.lineHolds.length }
  apart : ∀ k ∈ closedTags l, ∀ u ∈ closedTags l, k ≠ u → ∀ e f, s.exchange k = some e → s.exchange u = some f →
    e.buffer ≠ f.buffer
  notices : ∀ b ∈ discarded l, ∀ k ∈ closedTags l, ∀ e, s.exchange k = some e → e.buffer ≠ b

theorem Pool.release_congr {p q : Pool} {a : BufId} (hfree : q.free = p.free) (ha : q.buffers[a] = p.buffers[a]) :
    (q.release a).free = (p.release a).free
      ∧ ∀ b : BufId, q.buffers[b] = p.buffers[b] → (q.release a).buffers[b] = (p.release a).buffers[b] := by
  have hself : (q.release a).buffers[a] = (p.release a).buffers[a] := by
    unfold Pool.release
    rw [ha]
    cases hp : p.buffers[a] with
    | none => simp [hp, ha]
    | some x => by_cases hx : x.count ≤ 1 <;> simp [hx]
  refine ⟨?_, fun b hb => ?_⟩
  · unfold Pool.release
    rw [ha]
    cases p.buffers[a] with
    | none => exact hfree
    | some x => by_cases hx : x.count ≤ 1 <;> simp [hx, hfree]
  · by_cases hba : b = a
    · rw [hba]; exact hself
    · rw [Pool.release_buffers_ne _ hba, Pool.release_buffers_ne _ hba, hb]

namespace HoldsApart

variable {s : State} {l : List Ending} {t k : Tag} {e : Exchange} {r : ClosureReason} {b : BufId}

/-- The pool after the first ending, a closure. -/
theorem pool_close (h : HoldsApart s (.close t r :: l)) (he : s.exchange t = some e) : (s.endOne (.close t r)).pool
    = s.pool.held e.buffer (closureFrame e.station e.seq r e.attemptsUsed e.fetches) 1 := by
  obtain ⟨c, hc⟩ := h.held t List.mem_cons_self e he
  rw [State.endOne, State.closeExchange_closedWith he r hc, State.closedWith]

/-- A closure leaves the other buffers alone. -/
theorem close_buffers_ne (h : HoldsApart s (.close t r :: l)) (hb : ∀ e, s.exchange t = some e → e.buffer ≠ b) :
    (s.endOne (.close t r)).pool.buffers[b] = s.pool.buffers[b] := by
  cases he : s.exchange t with
  | none => rw [State.endOne, State.closeExchange_none he]
  | some e => rw [h.pool_close he, Pool.held_buffers_ne _ (hb e he).symm]

theorem close_free (h : HoldsApart s (.close t r :: l)) : (s.endOne (.close t r)).pool.free = s.pool.free := by
  cases he : s.exchange t with
  | none => rw [State.endOne, State.closeExchange_none he]
  | some e => rw [h.pool_close he]; rfl

theorem ne_head (h : HoldsApart s (.close t r :: l)) (hk : k ∈ closedTags l) : k ≠ t :=
  fun heq => (List.nodup_cons.1 h.nodup).1 (heq ▸ hk)

theorem exchange_tail (h : HoldsApart s (.close t r :: l)) (hk : k ∈ closedTags l) :
    (s.endOne (.close t r)).exchange k = s.exchange k := State.closeExchange_exchange_ne r (h.ne_head hk)

/-- What stands apart goes on standing apart after the first ending. -/
theorem tail {w : Ending} (h : HoldsApart s (w :: l)) : HoldsApart (s.endOne w) l := by
  cases w with
  | discard a =>
    refine ⟨h.nodup, fun k hk e he => ?_, h.apart, fun b hb => h.notices b (List.mem_cons_of_mem a hb)⟩
    obtain ⟨c, hc⟩ := h.held k hk e he
    exact ⟨c, (Pool.release_buffers_ne s.pool (h.notices a List.mem_cons_self k hk e he)).trans hc⟩
  | close t r =>
    have hmem : ∀ {k}, k ∈ closedTags l → k ∈ closedTags (.close t r :: l) := fun hk => List.mem_cons_of_mem t hk
    refine ⟨(List.nodup_cons.1 h.nodup).2, fun k hk e he => ?_, fun k hk u hu hne e f he hf => ?_, fun b hb k hk e he => ?_⟩
    · rw [h.exchange_tail hk] at he
      obtain ⟨c, hc⟩ := h.held k (hmem hk) e he
      exact ⟨c, (h.close_buffers_ne fun f hf => h.apart t List.mem_cons_self k (hmem hk) (h.ne_head hk).symm f e hf he).trans
        hc⟩
    · rw [h.exchange_tail hk] at he
      rw [h.exchange_tail hu] at hf
      exact h.apart k (hmem hk) u (hmem hu) hne e f he hf
    · rw [h.exchange_tail hk] at he
      exact h.notices b hb k (hmem hk) e he

/-- A buffer of none of the endings is left alone by them. -/
theorem untouched (h : HoldsApart s l) (hclosed : ∀ k ∈ closedTags l, ∀ e, s.exchange k = some e → e.buffer ≠ b)
    (hdiscarded : b ∉ discarded l) : (s.endAll l).pool.buffers[b] = s.pool.buffers[b] := by
  induction l generalizing s with
  | nil => rfl
  | cons w l ih =>
    rw [State.endAll_cons]
    cases w with
    | discard a =>
      obtain ⟨hne, hrest⟩ := not_or.1 (mt List.mem_cons.2 hdiscarded)
      rw [ih h.tail hclosed hrest]
      exact Pool.release_buffers_ne s.pool hne
    | close t r =>
      rw [ih h.tail (fun k hk e he => hclosed k (List.mem_cons_of_mem t hk) e (h.exchange_tail hk ▸ he)) hdiscarded,
        h.close_buffers_ne (hclosed t List.mem_cons_self)]

/-- Each exchange closed leaves its CLOSURE in its buffer, held once (R122). -/
theorem closure (h : HoldsApart s l) (hk : Ending.close k r ∈ l) (he : s.exchange k = some e) :
    (s.endAll l).pool.buffers[e.buffer]
      = some { content := closureFrame e.station e.seq r e.attemptsUsed e.fetches, count := 1 } := by
  induction l generalizing s with
  | nil => cases hk
  | cons w l ih =>
    rw [State.endAll_cons]
    rcases List.mem_cons.1 hk with rfl | hk
    · have hne : ∀ u ∈ closedTags l, ∀ f, (s.endOne (.close k r)).exchange u = some f → f.buffer ≠ e.buffer :=
        fun u hu f hf => h.apart u (List.mem_cons_of_mem k hu) k List.mem_cons_self (h.ne_head hu) f e
          (h.exchange_tail hu ▸ hf) he
      have hnotice : e.buffer ∉ discarded l := fun hb => h.notices e.buffer hb k List.mem_cons_self e he rfl
      rw [h.tail.untouched hne hnotice, h.pool_close he, Pool.held_buffers_self]
    · refine ih h.tail hk ?_
      have hmem := mem_closedTags.2 ⟨r, hk⟩
      cases w with
      | discard a => exact he
      | close t r' => exact (h.exchange_tail hmem).trans he

/-- The free list gains what the discarded notices alone give it (R23). -/
theorem free (h : HoldsApart s l) {q : Pool} (hfree : q.free = s.pool.free)
    (hbuffers : ∀ b ∈ discarded l, q.buffers[b] = s.pool.buffers[b]) :
    (s.endAll l).pool.free = ((discarded l).foldl Pool.release q).free := by
  induction l generalizing s q with
  | nil => exact hfree.symm
  | cons w l ih =>
    rw [State.endAll_cons]
    cases w with
    | discard a =>
      obtain ⟨hnext, hkept⟩ := Pool.release_congr hfree (hbuffers a List.mem_cons_self)
      exact ih h.tail hnext fun b hb => hkept b (hbuffers b (List.mem_cons_of_mem a hb))
    | close t r =>
      refine ih h.tail (hfree.trans h.close_free.symm) fun b hb => (hbuffers b hb).trans ?_
      exact (h.close_buffers_ne fun e he => h.notices b hb t List.mem_cons_self e he).symm

end HoldsApart

/-! ### The drop's work -/

theorem mem_discarded_items {r : ClosureReason} {q : List Item} {b : BufId} (h : b ∈ discarded (q.map (Item.ending r))) :
    ∃ it ∈ q, (∃ a, it.work = .notice a) ∧ it.buffer = b := by
  induction q with
  | nil => cases h
  | cons it q ih =>
    have hrest : b ∈ discarded (q.map (Item.ending r)) → ∃ jt ∈ it :: q, (∃ a, jt.work = .notice a) ∧ jt.buffer = b := fun h => by
      obtain ⟨jt, hjt, hwork⟩ := ih h
      exact ⟨jt, List.mem_cons_of_mem it hjt, hwork⟩
    rw [List.map_cons] at h
    cases hw : it.work with
    | exchange t =>
      rw [show it.ending r = .close t r by rw [Item.ending, hw], discarded_close] at h
      exact hrest h
    | notice a =>
      rw [show it.ending r = .discard it.buffer by rw [Item.ending, hw], discarded_discard] at h
      rcases List.mem_cons.1 h with rfl | h
      · exact ⟨it, List.mem_cons_self, ⟨a, hw⟩, rfl⟩
      · exact hrest h

section
variable {s : State} {d : DropId} {first rest : ClosureReason}

theorem WorkLaw.holdsApart (h : WorkLaw s) (hhold : HoldLaw s) (hrequest : RequestLaw s) :
    HoldsApart s (s.endings d first rest) := by
  refine ⟨h.endings_nodup, fun k _ e he => hrequest.held he, fun k _ u _ hne e f he hf => hrequest.apart hhold he hf hne,
    fun b hb k hk e he => ?_⟩
  rw [State.discarded_endings] at hb
  obtain ⟨it, hit, ⟨a, hwork⟩, rfl⟩ := mem_discarded_items hb
  obtain ⟨f, hf, hd⟩ := h.ended hk
  obtain rfl := Option.some.inj (he.symm.trans hf)
  subst hd
  exact hrequest.notice_apart hhold he hit hwork

end

/-- Settles O34. -/
theorem workClosedInOrder : Obligations.WorkClosedInOrder := by
  intro s t d x first rest order reason hx hwork ht horder hreason
  have hend : t = (s.endAll (s.endings d first rest)).mapDrop d (Drop.withQueue []) := ht.trans (State.closeWork_endAll hwork)
  have htags : order = closedTags (s.endings d first rest) := horder
  have hclose : ∀ k r, Ending.close k r ∈ s.endings d first rest → r = reason k := fun k r hk => by
    rw [hreason, ← hx]; exact hwork.endings_reason hk
  have hexchange : ∀ k, t.exchange k = if k ∈ order then none else s.exchange k := fun k => by
    rw [hend, htags]; exact State.endAll_exchange s _ k
  refine ⟨hend, ⟨?_, fun hservice => ?_, fun k hk => ?_, fun k hk => ?_, ?_, ?_⟩, fun _ hhold hrequest => ⟨fun k e hk he => ?_, ?_⟩⟩
  · rw [hend, State.dropUnit_mapDrop_self]; rfl
  · rw [ht]
    refine (State.closeWork_empty hwork (fun it a hit hnotice => ?_) first rest).1
    rw [hx] at hit
    rcases hservice with hnone | hsome
    · rw [hnone] at hit; cases hit
    · obtain ⟨k, hk⟩ := Option.isSome_iff_exists.1 hsome
      obtain ⟨jt, hjt, hexch⟩ := Drop.serving_some.1 hk
      obtain rfl := Option.some.inj (hit.symm.trans hjt)
      rw [hnotice] at hexch
      cases hexch
  · rw [hexchange, if_pos hk]
  · rw [hexchange, if_neg hk]
  · rw [hend, htags]
    exact State.endAll_upstream hwork.endings_nodup
  · rw [hend, htags]
    exact State.endAll_stations hwork.endings_nodup hclose
  · rw [htags] at hk
    obtain ⟨r, hr⟩ := mem_closedTags.1 hk
    have hbuffer := (hwork.holdsApart hhold hrequest).closure hr he
    rw [hclose k r hr] at hbuffer
    rw [hend]
    exact hbuffer
  · have hfree := (hwork.holdsApart hhold hrequest (d := d) (first := first) (rest := rest)).free rfl fun _ _ => rfl
    rw [State.discarded_endings, hx, discarded_items] at hfree
    rw [hend]
    exact hfree

end Sys2Proof.Machine
end
